-- ==== Sys2Proof/Word.lean ====
section
/-! DEFINITION. The words of the block: bytes, 32-bit words, device time, and the little-endian order of R5. -/

namespace Sys2Proof

/-- One byte. -/
abbrev Byte := BitVec 8
/-- One 32-bit word `DWn` of a structure (R5). -/
abbrev DW := BitVec 32
/-- A 64-bit word; device time is one (unsigned nanoseconds). -/
abbrev QW := BitVec 64
/-- A string of bytes, lowest address first. -/
abbrev Bytes := List Byte
/-- A context ID, 0–63. -/
abbrev CtxId := Fin 64
/-- A PCIe function: 0 is PF0, n is VFn. -/
abbrev Func := Fin 32
/-- The sixteen words of a 64-byte descriptor. -/
abbrev DescWords := Vector DW 16
/-- A table keyed by number: keys strictly rising, so equal tables are equal data. -/
abbrev Tab (α : Type) := List (Nat × α)

/-- A SHA3-256 digest as one number, byte 0 in the low bits. -/
abbrev Digest := BitVec 256

end Sys2Proof
end

