-- ==== Sys2Proof/Syntax.lean ====
section
/-! DEFINITION. The commands of the block: one constructor for each row of the opcode table, in the table's order. -/

namespace Sys2Proof

/-- Which ring or record a failing PCIe access belonged to (R79, R301). -/
inductive DmaTarget where
  | sq (n : Fin 4)
  | cq
  | eq
  | records (slot : Fin 16)
  deriving DecidableEq, Repr

/-- A PTP port identity: clock identity and port number. -/
structure PtpId where
  clock : BitVec 64
  port  : BitVec 16
  deriving DecidableEq, Repr

/-- The priority vector an Announce message carries (IEEE 802.1AS, R135). -/
structure PtpPrio where
  priority1 : Byte
  quality   : BitVec 32
  priority2 : Byte
  gmClock   : BitVec 64
  steps     : BitVec 16
  deriving DecidableEq, Repr

/-- The bodies of the PTP messages the device supports (R135). Times are ns, corrections 2^-16 ns. -/
inductive PtpBody where
  | sync (twoStep : Bool) (origin : QW) (correction : Int)
  | followUp (origin : QW) (correction : Int)
  | pdelayReq
  | pdelayResp (requestRx : QW) (requester : PtpId)
  | pdelayRespFollowUp (responseTx : QW) (requester : PtpId)
  | announce (prio : PtpPrio)
  | signaling (logPdelay logSync : Int)
  deriving DecidableEq, Repr

/-- One PTP message with the header fields the port state machine uses. -/
structure PtpMsg where
  domain : Byte
  seq    : BitVec 16
  source : PtpId
  body   : PtpBody
  deriving DecidableEq, Repr

/-- The PTP messages a port sends of its own accord (R135): the event messages of R138, Announce, and the message interval request. -/
inductive PtpTxKind where
  | sync
  | pdelayReq
  | pdelayResp
  | announce
  | signaling
  deriving DecidableEq, Repr

/-- One CAN frame as received (R110); `error` marks one the controller finds in error on the bus. -/
structure CanFrame where
  error  : Bool
  id     : BitVec 29
  ext    : Bool
  fd     : Bool
  brs    : Bool
  remote : Bool
  data   : Bytes
  deriving DecidableEq, Repr

/-- A service command: header fields of R98 after SVC_OP, and its data. -/
structure SvcCmd where
  reserved : Byte
  tag      : BitVec 16
  arg      : QW
  data     : Bytes
  deriving DecidableEq, Repr

/-- The commands. An opcode row takes the submitting context and the sixteen descriptor words; an event row takes
what the event carries. -/
inductive Instr where
  -- host rings
  | sqTailWrite (func : Func) (c : CtxId) (ring : Fin 4) (value : DW)
  | cqHeadWrite (func : Func) (c : CtxId) (value : DW)
  | eqHeadWrite (func : Func) (c : CtxId) (value : DW)
  | barAccessInvalid (func : Func) (page : Bool) (offset : BitVec 20) (size : Nat) (write : Bool)
  | descriptorFetch
  | fenceBeforeRelease (c : CtxId) (ring : Fin 4)
  | tokenGrant (sheet : BitVec 22)
  | ribbonRowGrant (sheet : BitVec 22) (d : Nat)
  | partDispatch (d : Nat)
  | partFinish (leaf : BitVec 12) (crcXor : DW)
  | descriptorComplete (d : Nat)
  | irqCoalesceExpiry (func : Func) (vec : Fin 64)
  | ringDmaFault (c : CtxId) (target : DmaTarget) (addr : QW)
  | nop (c : CtxId) (w : DescWords)
  | bind (c : CtxId) (w : DescWords)
  | unbind (c : CtxId) (w : DescWords)
  | gatheringRebindComplete (d : Nat)
  | ctxOpen (c : CtxId) (w : DescWords)
  | ctxTeardown (c : CtxId) (w : DescWords)
  | teardownFinish (c : CtxId)
  | hstCtxOpenReg (c : CtxId)
  | hstCtxTeardownReg (c : CtxId)
  | functionLevelReset (func : Func)
  | autoOpen (c : CtxId)
  | unitDisable (c : CtxId) (w : DescWords)
  | unitDisableDrainExpiry (d : Nat)
  | unitEnable (c : CtxId) (w : DescWords)
  -- registers
  | hstLockWrite (value : DW)
  | registerWrite (offset : BitVec 20) (wide : Bool) (value : QW)
  | tbTimeLoRead (wide : Bool)
  | tbTrigModeWrite (out : Fin 9) (value : DW)
  | plgCtlArmWrite (value : DW)
  | visDescSeedWrite (value : DW)
  | spnSnsPoolWrite (value : DW)
  -- sheets, copies, movers
  | sheetAlloc (c : CtxId) (w : DescWords)
  | sheetFree (c : CtxId) (w : DescWords)
  | sheetFreeComplete (d : Nat)
  | sheetPin (c : CtxId) (w : DescWords)
  | evict (c : CtxId) (w : DescWords)
  | move (c : CtxId) (w : DescWords)
  | moverSegmentDone (m : Fin 8)
  | copyPresent (copy : Nat)
  | promotionSpaceReturned (copy : Nat)
  -- timebase
  | tbTrigger (c : CtxId) (w : DescWords)
  | trigInstall (out : Fin 9)
  | trigEdge (out : Fin 9)
  | tbStep (c : CtxId) (w : DescWords)
  | tbStepPpsTimeout
  | ptpMessageRx (port : Fin 8) (m : PtpMsg)
  | holdoverEntry
  | ptpMessageTx (port : Fin 8) (k : PtpTxKind)
  | capEdge (pin : Fin 9) (rising : Bool)
  -- sensor ports
  | csiFrameStart (port : Fin 8) (vc : Fin 16) (frame : BitVec 16)
  | csiLinePacket (port : Fin 8) (vc : Fin 16) (dt : BitVec 6) (eccOk crcOk : Bool) (data : Bytes)
  | csiFrameEnd (port : Fin 8) (vc : Fin 16)
  | ethFrameRx (port : Fin 6) (fcsOk bufferOk : Bool) (frame : Bytes)
  | canFrameRx (n : Fin 4) (f : CanFrame)
  | snsCanBusOff (n : Fin 4)
  | snsLink (port : Fin 14) (up : Bool)
  | spiDrdyEdge (n : Fin 4) (rising : Bool)
  | spiTransactionDone (n : Fin 4) (rx : Bytes)
  | selectorCloseTime (d : Nat) (job : Nat)
  | unitRelease (u : Nat)
  -- plough
  | ploughSlot (k : Fin 32)
  | plgSwap (c : CtxId) (w : DescWords)
  | plgSwapLoad
  | plgSwapIdleSwitch
  -- vision and tensor
  | visRemap (c : CtxId) (w : DescWords)
  | visSgm (c : CtxId) (w : DescWords)
  | visFeatures (c : CtxId) (w : DescWords)
  | tenLayer (c : CtxId) (w : DescWords)
  | tenStep (c : CtxId) (w : DescWords)
  -- fusion
  | fusPropagate (c : CtxId) (w : DescWords)
  | fusCloud (c : CtxId) (w : DescWords)
  | fusProject (c : CtxId) (w : DescWords)
  | fusFactors (c : CtxId) (w : DescWords)
  | fusGate (c : CtxId) (w : DescWords)
  -- press
  | prsStruct (c : CtxId) (w : DescWords)
  | prsUpdate (c : CtxId) (w : DescWords)
  | prsExtract (c : CtxId) (w : DescWords)
  | prsSolve (c : CtxId) (w : DescWords)
  | prsDeadlineHit (d : Nat) (iters : Nat) (within : Bool)
  | prsKernel (c : CtxId) (w : DescWords)
  -- maps, ledger, search
  | mapCreate (c : CtxId) (w : DescWords)
  | mapCommit (c : CtxId) (w : DescWords)
  | mapCompact (c : CtxId) (w : DescWords)
  | ldgOps (c : CtxId) (w : DescWords)
  | ldgScan (c : CtxId) (w : DescWords)
  | ldgRulebook (c : CtxId) (w : DescWords)
  | ldgFieldGather (c : CtxId) (w : DescWords)
  | ldgFieldScatter (c : CtxId) (w : DescWords)
  | srcQuery (c : CtxId) (w : DescWords)
  | srcInsert (c : CtxId) (w : DescWords)
  | srcDelete (c : CtxId) (w : DescWords)
  | srcKnn (c : CtxId) (w : DescWords)
  -- plans
  | schArm (c : CtxId) (w : DescWords)
  | schDisarm (c : CtxId) (w : DescWords)
  | periodFiring (slot : Fin 16)
  | firingComplete (slot : Fin 16)
  | schedWaitExpiry (slot : Fin 16)
  | digestFinal (slot : Fin 16)
  -- mirror
  | mirTrack (c : CtxId) (w : DescWords)
  | mirResync (c : CtxId) (w : DescWords)
  | mirLink (port : Fin 2) (up : Bool)
  | mirRoleRx (port : Fin 2) (msg : Bytes)
  | mirRoleRetry (port : Fin 2)
  | heartbeatTx
  | heartbeatRx (port : Fin 2) (msg : Bytes)
  | mirPeerLost
  | mirPlanRx (port : Fin 2) (msg : Bytes)
  | mirSchedRx (port : Fin 2) (msg : Bytes)
  | mirDigestRx (port : Fin 2) (msg : Bytes)
  | mirDeltaRx (port : Fin 2) (msg : Bytes)
  | mirFillRx (port : Fin 2) (imm : DW) (msg : Bytes)
  | mirRepairWaitExpiry (slot : Fin 16)
  | mirBulkBudgetEnd (slot : Fin 16) (lines : Nat)
  | mirResyncRx (port : Fin 2) (msg : Bytes)
  | mirSplitRx (port : Fin 2) (msg : Bytes)
  | mirUnitRx (port : Fin 2) (msg : Bytes)
  | mirPloughRx (port : Fin 2) (msg : Bytes)
  | mirForeignPacket (port : Fin 2)
  | mirQpReestablish (port : Fin 2) (qp : Fin 4)
  | mirCnpRx (port : Fin 2) (qp : Fin 4)
  | mirRateRestore (port : Fin 2) (qp : Fin 4)
  | mirSplitEnter
  | mirSplitLeave
  -- integrity and recovery
  | crcCheck (c : CtxId) (w : DescWords)
  | descriptorTimeout (d : Nat)
  | moverResetHang (m : Fin 8)
  | incidentDrainEnd (p : Fin 11)
  | partitionResetDone (p : Fin 11)
  | replayStart
  | replayTimeout
  | partitionResetHang (p : Fin 11)
  | volumeResetHang
  | sequencerWatchdog (p : Fin 11)
  | fltRestore (c : CtxId) (w : DescWords)
  | scrubPatrol (tier : Fin 3)
  | scrubHint
  -- security, service port
  | secInstallStageFw (c : CtxId) (w : DescWords)
  | firmwareStageDone
  | secInstallActivate (c : CtxId) (w : DescWords)
  | secInstallCommitSvn (c : CtxId) (w : DescWords)
  | secInstallOwnerRecord (c : CtxId) (w : DescWords)
  | secQuote (c : CtxId) (w : DescWords)
  | secMapLoad (c : CtxId) (w : DescWords)
  | secMapExport (c : CtxId) (w : DescWords)
  | svcInfo (k : SvcCmd)
  | svcReadReg (k : SvcCmd)
  | svcDumpSheet (k : SvcCmd)
  | svcStageFirmware (k : SvcCmd)
  | svcStageMap (k : SvcCmd)
  | svcUnlockChallenge (k : SvcCmd)
  | svcUnlockResponse (k : SvcCmd)
  | svcUndefinedOp (op : Byte) (k : SvcCmd)
  | unlockChallengeLapse
  | unlockLockoutEnd
  | testDebugAccess (write : Bool) (addr : QW) (value : QW)
  -- reset, power
  | perstAssert
  | perstDeassert (mirrorRole : Bool)
  | recoveryRrsEnd
  | railOutOfRange (rail : Fin 9) (mv : Nat)
  | railRecovered
  | pmbAlert (reply : Option (BitVec 16))
  | pmbVoutPoll (reply : Option (BitVec 16))
  | governorStep (reply : Bool)
  | powerLimitTick (computeMw spineMw ioMw : DW)
  | quireRamp (p : Fin 11) (up : Bool)
  | tempSample (compute spine io : BitVec 16)
  | pwrTrigShort (out : Fin 9)
  | trigShortClear (out : Fin 9)
  | volumeResetDone
  | moverResetDone (m : Fin 8)
  | partitionSampleDone (p : Fin 11)
  | canBusOffRecovery (n : Fin 4)
  | pcieConfigWrite (func : Func) (numVfs : Nat) (vfEnable busMaster : Bool)
  | msixVectorUnmask (func : Func) (vec : Fin 64)
  | svcLinkChange (up : Bool)
  | ptpAnnounceTimeout (port : Fin 8)
  deriving DecidableEq, Repr

end Sys2Proof
end

