-- ==== Sys2Proof/Decode.lean ====
section
/-! DEFINITION. Reading a command from a word of the opcode table. The table gives no row any bits: a command is an event, not a word. -/

namespace Sys2Proof

/-- The command a word spells: none, for every row of the table. -/
def decodeTableWord (_nbits _w : Nat) : Option Instr := none

end Sys2Proof
end

