-- ==== Sys2Proof/Config.lean ====
section
/-! DEFINITION. What the spec leaves open: uninterpreted functions, none with a body. -/

namespace Sys2Proof.Config

/-- The free byte the model draws at a count: contents the spec calls undefined or does not state. -/
opaque freeByte : Nat → BitVec 8
/-- A value an operation's chapter leaves open, by what determines its results (R22) and its place among them. -/
opaque openValue : List Nat → Nat → BitVec 64
/-- A byte an operation's chapter leaves open, likewise. -/
opaque openByte : List Nat → Nat → BitVec 8
/-- The free 64-bit value the model draws at a count: a value the spec does not state. -/
opaque freeValue : Nat → BitVec 64
/-- The VOUT_COMMAND word for a voltage in mV, in the format the board's regulator reports (R380). -/
opaque voutWord : Nat → BitVec 16
/-- Random nonces of debug challenges and of hedged signing (R353, R372). -/
opaque freeDigest : Nat → BitVec 256
/-- ML-DSA verification (R353, FIPS 204): key, digest, context string, signature. -/
opaque mldsaVerify : List (BitVec 8) → BitVec 256 → List (BitVec 8) → List (BitVec 8) → Bool
/-- ML-DSA-44 signing by the identity key: digest, context string, hedging randomness. -/
opaque mldsaSign : BitVec 256 → List (BitVec 8) → BitVec 256 → List (BitVec 8)
/-- The staging window this device advertises in ROLE: its base, its bytes and its rkey (chapter 13). -/
opaque stagingBase : BitVec 64
opaque stagingBytes : BitVec 32
opaque stagingRkey : BitVec 32

end Sys2Proof.Config
end

