-- ==== Sys2Proof/Machine/Fp.lean ====
section
/-! DEFINITION. Exact dyadic numbers, rounding half to even, and the floating formats built on them: FP32, FP16, BF16,
FP8 and the MX elements (R193–R198, R219). -/

namespace Sys2Proof.Machine

/-! ## Integers -/

/-- `n / d` rounded half to even, for `d > 0` (`rdiv` of chapter 07). -/
def rdiv (n : Int) (d : Nat) : Int :=
  let q := n.fdiv d
  let r := (n - q * d) * 2
  if r > d ∨ (r = d ∧ q % 2 ≠ 0) then q + 1 else q

/-- Arithmetic right shift with round half to even. -/
def rshr (n : Int) (sh : Nat) : Int := rdiv n (2 ^ sh)

/-- Arithmetic right shift: rounds toward minus infinity. -/
def asr (n : Int) (sh : Nat) : Int := n.fdiv (2 ^ sh : Nat)

/-- Clamp to a range. -/
def clampI (x lo hi : Int) : Int := if x < lo then lo else if x > hi then hi else x

/-- Saturate to a signed width. -/
def satS (w : Nat) (x : Int) : Int := clampI x (-(2 ^ (w - 1) : Nat)) ((2 ^ (w - 1) : Nat) - 1)

/-- One step of the bitwise square root: the largest root with the bits from `k` down tried in turn. -/
def isqrtGo (n : Nat) : Nat → Nat → Nat
  | 0, r => r
  | k + 1, r =>
    let t := r + 2 ^ k
    isqrtGo n k (if t * t ≤ n then t else r)

/-- The integer square root, rounded down. -/
def isqrt (n : Nat) : Nat := isqrtGo n (n.log2 / 2 + 1) 0

/-- Bits 0 and up: the trailing-zero count of a positive number below 2^fuel, else `fuel`. -/
def ctz (n : Nat) : Nat → Nat
  | 0 => 0
  | fuel + 1 => if n % 2 = 1 then 0 else ctz (n / 2) fuel + 1

/-! ## Dyadics -/

/-- An exact value `m × 2^e`. -/
structure Dy where
  m : Int
  e : Int
  deriving DecidableEq, Repr

/-- `2^k` as a natural multiplier, 1 for a negative exponent. -/
def pow2 (k : Int) : Nat := 2 ^ k.toNat

/-- Exact sum. -/
def Dy.add (a b : Dy) : Dy :=
  if a.e ≤ b.e then ⟨a.m + b.m * pow2 (b.e - a.e), a.e⟩ else ⟨a.m * pow2 (a.e - b.e) + b.m, b.e⟩

/-- Exact product. -/
def Dy.mul (a b : Dy) : Dy := ⟨a.m * b.m, a.e + b.e⟩

/-- Exact negation. -/
def Dy.neg (a : Dy) : Dy := ⟨-a.m, a.e⟩

/-- Exact difference. -/
def Dy.sub (a b : Dy) : Dy := a.add b.neg

/-- Zero. -/
def Dy.zero : Dy := ⟨0, 0⟩

/-- Exact sum of a list. -/
def Dy.sum (l : List Dy) : Dy := l.foldl Dy.add Dy.zero

/-- Exact comparison. -/
def Dy.lt (a b : Dy) : Bool := decide ((a.sub b).m < 0)

/-- Exact comparison. -/
def Dy.le (a b : Dy) : Bool := decide ((a.sub b).m ≤ 0)

/-- The greater of two values. -/
def Dy.max (a b : Dy) : Dy := if a.lt b then b else a

/-- Round to an integer multiple of `2^q`, half to even. -/
def Dy.round (a : Dy) (q : Int) : Int :=
  if a.e ≥ q then a.m * pow2 (a.e - q) else rdiv a.m (pow2 (q - a.e))

/-- The quotient of two dyadics, rounded to a multiple of `2^q`, half to even; the divisor is not zero. -/
def Dy.divRound (a b : Dy) (q : Int) : Int :=
  let k := a.e - b.e - q
  let n := if b.m < 0 then -a.m else a.m
  if k ≥ 0 then rdiv (n * pow2 k) b.m.natAbs else rdiv n (b.m.natAbs * pow2 (-k))

/-- The square root of a non-negative dyadic, rounded to a multiple of `2^q`, half to even. A root is never a tie of
an odd multiple of half a unit unless it is exact, which the doubled root shows. -/
def Dy.sqrtRound (a : Dy) (q : Int) : Int :=
  -- scaled to units of 2^(2q - 2): its root is twice the wanted number
  let k := a.e - 2 * q + 2
  let n := a.m.toNat
  let s := if k ≥ 0 then n * pow2 k else n / pow2 (-k)
  let exact := if k ≥ 0 then true else decide (n % pow2 (-k) = 0)
  let r := isqrt s
  let tie := r % 2 = 1 ∧ r * r = s ∧ exact
  if r % 2 = 0 then (r / 2 : Nat)
  else if tie then (if (r / 2) % 2 = 0 then (r / 2 : Nat) else (r / 2 + 1 : Nat))
  else (r / 2 + 1 : Nat)

/-! ## Floating values and formats -/

/-- A decoded floating value. Zero is `fin neg 0 e`. -/
inductive Fv where
  | nan
  | inf (neg : Bool)
  | fin (neg : Bool) (m : Nat) (e : Int)
  deriving DecidableEq, Repr

/-- A binary format: significand bits with the hidden one, exponent of the least subnormal bit, and the code (without
sign) of infinity or, where the format has none, the first code that is not a number. -/
structure Fmt where
  p    : Nat
  qmin : Int
  top  : Nat
  deriving DecidableEq, Repr

def fp32 : Fmt := ⟨24, -149, 0x7F800000⟩
def fp16 : Fmt := ⟨11, -24, 0x7C00⟩
def bf16 : Fmt := ⟨8, -133, 0x7F80⟩

/-- The magnitude code of `m × 2^e` (plus less than one unit of `m` when `sticky`) in a format, rounded half to even
and not yet limited. -/
def Fmt.code (f : Fmt) (m : Nat) (e : Int) (sticky : Bool) : Nat :=
  if m = 0 then 0 else
    let q := max (e + m.log2 - (f.p - 1)) f.qmin
    let sh := q - e
    let r := if sh ≤ 0 then m * pow2 (-sh) else
      let d := pow2 sh
      let lo := m % d * 2
      let up := lo > d ∨ (lo = d ∧ (sticky ∨ m / d % 2 = 1))
      m / d + (if up then 1 else 0)
    ((q - f.qmin).toNat) * 2 ^ (f.p - 1) + r

/-- The exact value of a magnitude code. -/
def Fmt.value (f : Fmt) (c : Nat) : Nat × Int :=
  let x := c / 2 ^ (f.p - 1)
  let r := c % 2 ^ (f.p - 1)
  if x = 0 then (r, f.qmin) else (r + 2 ^ (f.p - 1), f.qmin + (x - 1 : Nat))

/-- Decode FP32. -/
def fdec (w : DW) : Fv :=
  let n := w.toNat
  let c := n % 0x80000000
  let s := decide (n ≥ 0x80000000)
  if c > 0x7F800000 then .nan else if c = 0x7F800000 then .inf s
  else let v := fp32.value c; .fin s v.1 v.2

/-- The canonical FP32 NaN. -/
def qnan : DW := 0x7FC00000

/-- Encode into FP32 after one rounding. -/
def fround (neg : Bool) (m : Nat) (e : Int) (sticky : Bool) : DW :=
  BitVec.ofNat 32 (min (fp32.code m e sticky) fp32.top + (if neg then 0x80000000 else 0))

/-- Encode a value that needs at most one rounding. -/
def fenc : Fv → DW
  | .nan => qnan
  | .inf s => if s then 0xFF800000 else 0x7F800000
  | .fin s m e => fround s m e false

/-- Exact value of a finite float. -/
def Fv.dy? : Fv → Option Dy
  | .fin s m e => some ⟨if s then -(m : Int) else m, e⟩
  | _ => none

/-- A dyadic rounded to FP32; zero takes the sign given. -/
def fofDy (d : Dy) (zneg : Bool) : DW :=
  if d.m = 0 then (if zneg then 0x80000000 else 0) else fround (decide (d.m < 0)) d.m.natAbs d.e false

/-- The sum of two decoded values, exact but for infinities. -/
def fsumV (a b : Fv) : DW :=
  match a, b with
  | .nan, _ => qnan
  | _, .nan => qnan
  | .inf s, .inf t => if s = t then fenc (.inf s) else qnan
  | .inf s, .fin .. => fenc (.inf s)
  | .fin .., .inf t => fenc (.inf t)
  | .fin s m e, .fin t n g =>
    fofDy (Dy.add ⟨if s then -(m : Int) else m, e⟩ ⟨if t then -(n : Int) else n, g⟩) (s && t)

/-- The exact product of two decoded values. -/
def fmulV (a b : Fv) : Fv :=
  match a, b with
  | .nan, _ => .nan
  | _, .nan => .nan
  | .inf s, .inf t => .inf (s != t)
  | .inf s, .fin t n _ => if n = 0 then .nan else .inf (s != t)
  | .fin s m _, .inf t => if m = 0 then .nan else .inf (s != t)
  | .fin s m e, .fin t n g => .fin (s != t) (m * n) (e + g)

def fadd (a b : DW) : DW := fsumV (fdec a) (fdec b)
def fneg (a : DW) : DW := a ^^^ 0x80000000
def fsub (a b : DW) : DW := fadd a (fneg b)
def fmul (a b : DW) : DW := fenc (fmulV (fdec a) (fdec b))
/-- a·b + c, rounded once. -/
def ffma (a b c : DW) : DW := fsumV (fmulV (fdec a) (fdec b)) (fdec c)
def fabs (a : DW) : DW := a &&& 0x7FFFFFFF

/-- Correctly rounded quotient. -/
def fdiv (a b : DW) : DW :=
  match fdec a, fdec b with
  | .nan, _ => qnan
  | _, .nan => qnan
  | .inf _, .inf _ => qnan
  | .inf s, .fin t .. => fenc (.inf (s != t))
  | .fin s .., .inf t => if s != t then 0x80000000 else 0
  | .fin s m e, .fin t n g =>
    if n = 0 then (if m = 0 then qnan else fenc (.inf (s != t)))
    else if m = 0 then (if s != t then 0x80000000 else 0)
    else
      let k := 30 + n.log2
      let x := m * 2 ^ k
      fround (s != t) (x / n) (e - g - k) (decide (x % n ≠ 0))

/-- Correctly rounded square root. -/
def fsqrt (a : DW) : DW :=
  match fdec a with
  | .nan => qnan
  | .inf s => if s then qnan else fenc (.inf false)
  | .fin s m e =>
    if m = 0 then a else if s then qnan else
      let k : Nat := if (e % 2 = 0) then 60 else 61
      let x := m * 2 ^ k
      let r := isqrt x
      fround false r ((e - k) / 2) (decide (r * r ≠ x))

/-- An integer times `2^k`, rounded to FP32: R219 converts first, and a power of two scales exactly. -/
def fofInt (n : Int) (k : Int) : DW := fofDy ⟨n, k⟩ false

/-- A float times `2^k`, rounded half to even to an integer; `none` for a NaN, infinities give a value beyond any range. -/
def ftoInt (a : DW) (k : Int) : Option Int :=
  match fdec a with
  | .nan => none
  | .inf s => some (if s then -(2 ^ 300 : Nat) else (2 ^ 300 : Nat))
  | .fin s m e => some (Dy.round ⟨if s then -(m : Int) else m, e + k⟩ 0)

/-- Round to fixed point and saturate to a signed width: the value, and whether it saturated (R219); `nan` is what a NaN,
whose result is not stated, gives. -/
def ftoFix (nan : Int) (a : DW) (k : Int) (w : Nat) : Int × Bool :=
  match ftoInt a k with
  | none => (satS w nan, false)
  | some v => (satS w v, decide (satS w v ≠ v))

def fisNan (a : DW) : Bool := decide ((a &&& 0x7FFFFFFF).toNat > 0x7F800000)
def fisFinite (a : DW) : Bool := decide ((a &&& 0x7FFFFFFF).toNat < 0x7F800000)

/-- An ordering key of FP32 values: −0 and +0 equal, NaN below everything (chapter 08). -/
def fkey (a : DW) : Int :=
  if fisNan a then -(2 ^ 40 : Nat)
  else let c : Int := (a &&& 0x7FFFFFFF).toNat
       if a.toNat ≥ 0x80000000 then -c else c

/-- IEEE comparisons: false with a NaN. -/
def fLt (a b : DW) : Bool := !fisNan a && !fisNan b && decide (fkey a < fkey b)
def fLe (a b : DW) : Bool := !fisNan a && !fisNan b && decide (fkey a ≤ fkey b)

/-- Convert to a narrower IEEE format (FP16 or BF16): code, canonical NaN, infinity on overflow (R197). -/
def fnarrow (f : Fmt) (signBit : Nat) (nanCode : Nat) (a : DW) : Nat :=
  match fdec a with
  | .nan => nanCode
  | .inf s => f.top + (if s then signBit else 0)
  | .fin s m e => min (f.code m e false) f.top + (if s then signBit else 0)

def toBf16 (a : DW) : Nat := fnarrow bf16 0x8000 0x7FC0 a
def toFp16 (a : DW) : Nat := fnarrow fp16 0x8000 0x7E00 a

/-- Decode an IEEE format with infinities and NaN from `top` up. -/
def decIeee (f : Fmt) (signBit : Nat) (n : Nat) : Fv :=
  let c := n % signBit
  let s := decide (n ≥ signBit)
  if c > f.top then .nan else if c = f.top then .inf s else let v := f.value c; .fin s v.1 v.2

/-- Decode a format with no infinity, whose codes from `top` up are NaN. -/
def decSat (f : Fmt) (signBit : Nat) (n : Nat) : Fv :=
  let c := n % signBit
  let s := decide (n ≥ signBit)
  if c ≥ f.top then .nan else let v := f.value c; .fin s v.1 v.2

/-- OCP FP8 E4M3: bias 7, one NaN code, no infinity. -/
def e4m3 : Fmt := ⟨4, -9, 0x7F⟩
/-- OCP FP8 E5M2. -/
def e5m2 : Fmt := ⟨3, -16, 0x7C⟩
/-- MX element formats FP6 and FP4 (no NaN, no infinity). -/
def e2m3 : Fmt := ⟨4, -3, 0x20⟩
def e3m2 : Fmt := ⟨3, -4, 0x20⟩
def e2m1 : Fmt := ⟨2, -1, 8⟩

/-! ## The canonical chunked reduction (R25) -/

/-- The binary tree over partials: neighbours combined, an odd last one carried up. -/
def treePass {α : Type} (add : α → α → α) : List α → List α
  | a :: b :: r => add a b :: treePass add r
  | l => l

/-- The tree repeated until one partial is left. -/
def treeFold {α : Type} (add : α → α → α) (zero : α) : Nat → List α → α
  | _, [] => zero
  | _, [a] => a
  | 0, a :: _ => a
  | k + 1, l => treeFold add zero k (treePass add l)

/-- The partials of a term list: chunks of 256 in index order, each summed from zero in ascending order. -/
def chunkSums {α τ : Type} (add : α → τ → α) (zero : α) : Nat → List τ → List α
  | 0, _ => []
  | _, [] => []
  | k + 1, l => (l.take 256).foldl add zero :: chunkSums add zero k (l.drop 256)

/-- The canonical sum: `add` takes a term into an accumulator, `comb` joins two partials. -/
def canonReduce {α τ : Type} (add : α → τ → α) (comb : α → α → α) (zero : α) (l : List τ) : α :=
  treeFold comb zero (l.length.log2 + 1) (chunkSums add zero (l.length / 256 + 1) l)

/-- A canonical FP32 sum of FP32 terms. -/
def fsum (l : List DW) : DW := canonReduce fadd fadd 0 l

/-- A canonical FP32 sum of exact products (R195): a term enters with one rounding of the sum. -/
def fsumExact (l : List Fv) : DW := canonReduce (fun a t => fsumV (fdec a) t) fadd 0 l

end Sys2Proof.Machine
end

