-- ==== Sys2Proof/Machine/State.lean ====
section
/-! DEFINITION. The state of the block as plain data, one record for each part of the spec, the faults and refusals a
command may end in, and the state after reset. -/

namespace Sys2Proof.Machine

/-- Why the machine stops with a fault. -/
inductive Fault where
  /-- Raised by RAIL_OUT_OF_RANGE: a rail beyond its absolute maximum, after which the operation of the device is
  undefined (R375). Safe: the model stops where the spec gives no effect. -/
  | overstress
  deriving DecidableEq, Repr

/-- Why a command has no meaning. -/
inductive Refusal where
  /-- Raised by an arm of `exec` that has no meaning yet. Safe: the model stops. -/
  | notModelled (mnemonic : String)
  deriving DecidableEq, Repr

/-- The three variants (R1, R394). -/
inductive Variant where
  | bl6480 | bl6460 | bl6440
  deriving DecidableEq, Repr

/-- Completion status codes (chapter 03, status table). -/
inductive Status where
  | done | doneTimeCut | doneDegraded
  | bouncedRoleStale | refusedDisabled | refusedUnitAbsent | refusedPort | refusedQuota
  | refusedMalformed | refusedContextGone
  | abortedFence | abortedReset | abortedTeardown
  | failedTimeout | failedUncorrectable | failedCheck | failedRange
  deriving DecidableEq, Repr

/-- Memory: strictly rising addresses, no listed byte equal to zero; an unlisted address reads as zero. -/
abbrev Mem := List Host.Cell

/-- What leaves the block: messages, levels and transfers an observer outside sees, oldest first. -/
inductive Out where
  /-- one MSI-X message of a function's vector (R95) -/
  | msix (func vec : Nat)
  /-- the value a register read returned -/
  | readData (value : QW)
  /-- a pin driven to a level: 0–8 trigger outputs, 9 FAULT_N, 10 THERMTRIP_N (R142, R376, R385), and in reset 11–14 CANn_TX, 15–18
  SPIn_CS_N, 19–22 SPIn_SCLK, 23 XSPI_CS_N (R378) -/
  | pin (n : Nat) (level : Bool)
  /-- a service response: status, tag, result, data (R98) -/
  | service (st : Status) (tag : BitVec 16) (result : QW) (data : Bytes)
  /-- dump data on endpoint 2 IN (R99) -/
  | dump (data : Bytes)
  /-- a mirror message sent on a port, its transport queue pair and the PSN of its first packet (R310, R311) -/
  | mirror (port qpn : Nat) (psn : BitVec 24) (msg : Bytes)
  /-- a mirror message written into the partner's staging window with RDMA WRITE, and the immediate value that ends it (R320) -/
  | mirrorWrite (port qpn : Nat) (psn : BitVec 24) (rkey : DW) (addr : QW) (imm : DW) (msg : Bytes)
  /-- a PTP message sent on a port (R135) -/
  | ptp (port : Nat) (m : PtpMsg)
  /-- a CAN acknowledgement, an SPI transaction start (R110, R111) -/
  | canAck (n : Nat)
  | canError (n : Nat) (passive : Bool)
  | spiStart (n : Nat) (cmd : Bytes)
  /-- a PMBus transaction: the regulator's address, the command code and the word written, none for a read (R380) -/
  | pmbus (addr : Nat) (code : Byte) (word : Option (BitVec 16))
  deriving DecidableEq, Repr

/-! ## Gatherings and units (chapter 01) -/

/-- Partition rules (BIND table). -/
inductive Rule where
  | batch | rows | channels | replicate
  deriving DecidableEq, Repr

/-- One gathering slot (R29, R31). -/
structure Gath where
  gen     : Byte
  bound   : Bool
  role    : BitVec 4
  rule    : Rule
  members : List (BitVec 24)
  ctx     : Nat
  ctxGen  : Byte
  deriving DecidableEq, Repr

/-- A running UNIT_DISABLE: the descriptor that asked, the end of its drain, the descriptors it waits for (R101). -/
structure Drain where
  owner   : Nat
  index   : Nat
  until_  : Nat
  waits   : List Nat
  aborted : Nat
  deriving DecidableEq, Repr

/-! ## Contexts and descriptors (chapter 03) -/

/-- Context states (R78). -/
inductive CtxSt where
  | closed | opened | tearing
  deriving DecidableEq, Repr

/-- An entry fetched from a ring, waiting for acceptance. -/
structure Fetched where
  ring : Nat
  w    : DescWords
  deriving DecidableEq, Repr

/-- A teardown in progress (R103–R105). `owner` is the CTX_TEARDOWN that asked for it. -/
structure Tear where
  cause  : Nat
  owner  : Option Nat
  silent : Bool
  deriving DecidableEq, Repr

/-- One submission ring as opened. -/
structure Ring where
  base : Nat
  size : Nat
  head : DW
  tail : DW
  deriving DecidableEq, Repr

/-- One context (R78–R87). -/
structure Ctx where
  st     : CtxSt
  gen    : Byte
  rings  : Nat
  sq     : Vector Ring 4
  cqBase : Nat
  cqSize : Nat
  cqHead : DW
  cqTail : DW
  eqBase : Nat
  eqSize : Nat
  eqHead : DW
  eqTail : DW
  /-- fetched (or presented) and not completed, SCH_ARM credits included (R83, R295) -/
  owed   : Nat
  /-- fetched and not accepted, per ring in count order -/
  held   : List Fetched
  tear   : Option Tear
  /-- set while an FLR of PF0 is in progress and this context is to reopen (R106) -/
  reopen : Bool
  deriving DecidableEq, Repr

/-- Where a descriptor came from. -/
inductive Origin where
  | ring (n : Nat)
  | plan (slot stage : Nat)
  deriving DecidableEq, Repr

/-- Where a part stands on its leaf (R33). -/
inductive PartSt where
  | waiting | running | finished
  deriving DecidableEq, Repr

/-- The range a part covers on each axis a rule may cut: first and count (R36). -/
structure Box where
  batch    : Nat × Nat
  rows     : Nat × Nat
  channels : Nat × Nat
  deriving DecidableEq, Repr

/-- A REPLICATE gathering a part has come through: its handle, the position of the member among those in service, and that member's
handle (R39). -/
structure RepStep where
  node   : Nat
  pos    : Nat
  member : Nat
  deriving DecidableEq, Repr

/-- One part of a cut descriptor: the REPLICATE gatherings it came through, outermost first, and when it finished (R41). -/
structure Part where
  leaf   : Nat
  reps   : List RepStep
  box    : Box
  st     : PartSt
  crcXor : DW
  fin    : Nat
  deriving DecidableEq, Repr

/-- What an accepted descriptor waits for. -/
inductive Await where
  /-- an engine or mover operation: its tokens, then its parts -/
  | run
  /-- BIND or UNBIND: the descriptors accepted under the old generation (R34) -/
  | rebind (olds : List Nat)
  /-- SHEET_FREE: the earlier descriptors that name the sheet (R53) -/
  | free (sheet : Nat) (olds : List Nat)
  /-- UNIT_DISABLE: its drain; UNIT_ENABLE: the incident (R101, R348) -/
  | drain
  | enable (index : Nat)
  /-- CTX_TEARDOWN of a context (R103) -/
  | teardown (c : Nat)
  /-- a promotion or eviction of a copy (R66, R68) -/
  | copy (id : Nat) (evict : Bool)
  /-- SCH_ARM while armed; SCH_DISARM until its SCH_ARM has completed (R295, R296) -/
  | armed (slot : Nat)
  | disarm (slot armId : Nat)
  /-- TB_STEP at the next PPS edge (R133) -/
  | pps (delta : BitVec 64) (limit : Nat)
  /-- PLG_SWAP until every channel has switched (R160) -/
  | swap
  /-- FLT_RESTORE until the partition reset is done (R351) -/
  | restore (p : Nat)
  /-- SEC_INSTALL STAGE_FW until the slot is read back (R362) -/
  | stage
  /-- MIR_RESYNC until the slot is synced (R323) -/
  | resync (slot : Nat)
  deriving DecidableEq, Repr

/-- Where an accepted descriptor stands. -/
inductive Phase where
  | waiting | dispatched | finished | held | replaying
  deriving DecidableEq, Repr

/-- One sensor or plough selector of a descriptor, recto view resolved (R119), with the landed units or the plough record
counts it holds once closed (R120–R123, R162). -/
structure SelMatch where
  sensor : Nat
  plough : Bool
  latest : Bool
  max    : Nat
  start  : Nat
  stop   : Nat
  waitUs : Nat
  closed : Bool
  units  : List Nat
  deriving DecidableEq, Repr

/-- An accepted descriptor. `id` rises in acceptance order (R85). -/
structure Desc where
  id      : Nat
  ctx     : Nat
  ctxGen  : Byte
  origin  : Origin
  w       : DescWords
  /-- the jobs of a list, read at acceptance, each in the descriptor's place (R167); else the descriptor alone -/
  jobs    : List DescWords
  /-- the bound gatherings its target reached at acceptance (R34) -/
  gaths   : Tab Gath
  level   : Nat
  cls     : Nat
  start   : Nat
  tmoUs   : Nat
  phase   : Phase
  await_  : Await
  parts   : List Part
  flags   : BitVec 16
  /-- a status already fixed (doomed input, abort) -/
  doom    : Option Status
  /-- the T1 copies it awaits or reads: home index and copy id (R65) -/
  copies  : List (Nat × Nat)
  stallAt : Option Nat
  sels    : List SelMatch
  r4      : DW
  r5      : DW
  /-- plan period number at injection (R297) -/
  period  : Nat
  /-- iterations after which a DEADLINE cut it, whether within one, and when (PRS_DEADLINE_HIT) -/
  cutAt   : Option (Nat × Bool × Nat)
  deriving DecidableEq, Repr

/-- Interrupt state of one vector of one function (R95). -/
structure Vec where
  masked  : Bool
  pending : Bool
  /-- end of the open coalescing window -/
  window  : Option Nat
  deriving DecidableEq, Repr

/-! ## Sheets, copies, movers (chapter 02) -/

/-- Writer token states. -/
inductive Tok where
  | empty | held | set | void
  deriving DecidableEq, Repr

/-- Where a queued request stands (R54, R55). -/
inductive ReqSt where
  | onWrite (id : Nat)
  | onFirst
  | ready
  | granted
  | doomed (st : Status)
  deriving DecidableEq, Repr

/-- One request of a sheet's queue, in acceptance order. -/
structure Req where
  desc  : Nat
  write : Bool
  st    : ReqSt
  /-- of a write on a ribbon: the readers matched to its frame (R58) -/
  matched : Nat
  deriving DecidableEq, Repr

/-- A sheet, free or live (R48–R58). Cells of a ribbon sheet are addressed by frame row. -/
structure Sheet where
  live    : Bool
  gen     : Byte
  tier    : Nat
  place   : Nat
  part    : Nat
  access  : Nat
  ribbon  : Bool
  pin     : Bool
  zp      : Bool
  ctx     : Nat
  ctxGen  : Byte
  size    : Nat
  rowBytes : Nat
  rows    : Nat
  readers : Nat
  host    : Nat
  /-- SHEET_FREE accepted, space not yet returned -/
  freeing : Bool
  tok     : Tok
  round   : BitVec 16
  void    : Status
  q       : List Req
  cells   : Mem
  /-- stored words whose syndrome is not zero (R329): word index, syndrome -/
  synd    : Tab Byte
  /-- ribbon: readers matched to the current frame, rows of it written; per reader descriptor, rows it has been granted (R58) -/
  matched : Nat
  rowsDone : Nat
  rowRel  : Tab Nat
  deriving DecidableEq, Repr

/-- States of a copy. -/
inductive CopySt where
  | waiting | promoting | present | draining
  deriving DecidableEq, Repr

/-- A copy of a home sheet (R64–R68, R402). -/
structure Copy where
  home    : Nat
  tier    : Nat
  st      : CopySt
  /-- the ROUND of the home content it holds (R402) -/
  round   : BitVec 16
  owner   : Option Nat
  /-- the other contexts that use it: the time of each one's first use and its ID, oldest first, ties to the lower ID -/
  refs    : List (Nat × Nat)
  pins    : List Nat
  stamp   : Nat
  /-- when it became PRESENT (R72) -/
  presentAt : Nat
  /-- bytes charged, and bytes of the plain content -/
  charge  : Nat
  size    : Nat
  cells   : Mem
  synd    : Tab Byte
  /-- descriptors matched to it and not completed -/
  users   : List Nat
  /-- evictions that wait for PRESENT: context, descriptor if any (R68) -/
  evicts  : List (Nat × Option Nat)
  /-- catchword holds: plan slot, the plan's context, and the layer whose completion ends the hold (R70) -/
  heldFor : List (Nat × Nat × Nat)
  mover   : Nat
  cls     : Nat
  order   : Nat
  deriving DecidableEq, Repr

/-- One piece of mover work: a descriptor, or the promotion of a copy. -/
inductive MoveOf where
  | desc (id : Nat)
  | copy (id : Nat)
  deriving DecidableEq, Repr

/-- Queued or running mover work (R61, R305). -/
structure MoveJob where
  own   : MoveOf
  cls   : Nat
  order : Nat
  segs  : Nat
  running : Bool
  deriving DecidableEq, Repr

/-- A mover (R61, R340). -/
structure Mover where
  oos     : Bool
  resetAt : Option Nat
  jobs    : List MoveJob
  deriving DecidableEq, Repr

/-! ## Plans (chapter 12) -/

/-- An armed plan slot (R295–R304). -/
structure Plan where
  armId    : Nat
  ctx      : Nat
  ctxGen   : Byte
  tag      : BitVec 16
  mirrored : Bool
  evt      : Bool
  prio     : Nat
  stages   : List (List DescWords)
  cw       : List (DW × Nat × Nat)
  look     : Nat
  slackUs  : Nat
  periodUs : Nat
  t0       : Nat
  epoch    : BitVec 64
  records  : DW
  ringN    : Nat
  waitUs   : Nat
  next     : Nat
  running  : Bool
  rAt      : Nat
  sAt      : Nat
  cAt      : Nat
  debt     : Nat
  debtIn   : Nat
  level    : Nat
  /-- SCH_DEBT_HIGH has been raised since the debt was last 0 -/
  high     : Bool
  diverged : Bool
  missed   : Bool
  refused  : Bool
  recs     : List (Nat × Vector DW 8)
  firings  : Nat
  stopping : Bool
  /-- layers of the running firing whose first part has been dispatched (R70) -/
  cwDone   : List Nat
  /-- the partner's debts received for firings yet to start: period number, D (R304) -/
  peer     : List (BitVec 64 × Nat)
  deriving DecidableEq, Repr

/-! ## Incidents (chapter 14) -/

/-- Where a partition stands in an incident. -/
inductive PartPhase where
  | draining (since : Nat)
  | sampling
  | resetting (since : Nat)
  | ready
  deriving DecidableEq, Repr

/-- The expiry a partition's sample names: target, TAG and context of its trigger, and its time; a watchdog has no trigger (R343). -/
structure Mark where
  target : BitVec 24
  tag    : BitVec 16
  ctx    : Nat
  at_    : Nat
  deriving DecidableEq, Repr

/-- A running incident (R341–R348). -/
structure Incident where
  parts    : List (Nat × PartPhase)
  /-- partitions whose sequencer was silent (R352) -/
  watch    : List Nat
  /-- by partition, the expiry it is drained and sampled for -/
  marks    : Tab Mark
  t0       : Nat
  held     : List Nat
  replay   : Option Nat
  /-- the head of the replay queue: a replay that was stopped (R342) -/
  front    : Option Nat
  /-- descriptors whose replay timed out, until the further reset is done (R346) -/
  guilty   : List Nat
  replayed : Nat
  timedOut : Bool
  deriving DecidableEq, Repr

/-- A store of protected words that the scrubber patrols: a sheet, a copy, or the free space of a tier. -/
inductive Store where
  | sheet (i : Nat)
  | copy (k : Nat)
  | free
  deriving DecidableEq, Repr

/-- The control state the device holds in protected words (R335). -/
inductive CtlWord where
  | handle (i : Nat)
  | sheet (i : Nat)
  | token (i : Nat)
  | ctx (c : Nat)
  | plan (slot : Nat)
  | mirror (slot : Nat)
  deriving DecidableEq, Repr

/-- Fault and recovery state (chapter 14). -/
structure Flt where
  incidents : List Incident
  /-- partitions out of service (R350) -/
  partOos   : List Nat
  /-- reset times per partition, newest first (R350) -/
  resetsAt  : Tab (List Nat)
  /-- running resets asked for by FLT_RESTORE: partition, start, descriptor (R351) -/
  restores  : List (Nat × Nat × Nat)
  /-- a running compute-volume reset and its start (R349) -/
  volAt     : Option Nat
  volTimes  : List Nat
  devOos    : Bool
  samples   : Nat
  /-- parts stopped in execution, by leaf, until the leaf is reset: opcode, TAG, context (R342, R343) -/
  stopped   : Tab (Nat × BitVec 16 × Nat)
  /-- correction events: time of the last FLT_ECC_CE per tier, corrections since -/
  ceAt      : Tab Nat
  ceSince   : Tab Nat
  /-- queue of lines to scrub: store and line (R332, R336) -/
  hints     : List (Store × Nat)
  /-- by tier, the word the patrol read last, and a word of a channel under reset where it stopped (R336) -/
  patrol    : Tab (Store × Nat)
  skipped   : Tab (Store × Nat)
  /-- by tier, words of its free space whose syndrome is not zero (R336) -/
  loose     : Tab (Tab Byte)
  /-- by leaf, the words of its margin the model knows: word index, data and check bits (R12) -/
  margins   : Tab (Tab (QW × Byte))
  /-- control words whose syndrome is not zero (R335) -/
  ctl       : List (CtlWord × Byte)
  /-- by sensor port (0–7 CSI-2, 8–13 T1, 14–17 CAN, 18–21 SPI), syndromes of the words in its I/O buffer that are not clean, for the unit
  that lands next (R331, R334) -/
  ioBuf     : Tab (List Byte)
  /-- units of the CRC pool at work, and the descriptor each serves (R337) -/
  crcBusy   : List (Nat × Nat)
  deriving DecidableEq, Repr

/-! ## Sensors (chapter 04) -/

/-- A landed unit and its arrival record (R112, R123). -/
structure LUnit where
  sensor  : Nat
  seq     : Nat
  record  : Vector DW 16
  mapped  : Nat
  bad     : Bool
  suspect : Bool
  sheet   : Nat
  slot    : Nat
  held    : List Nat
  deriving DecidableEq, Repr

/-- The open frame of a CSI-2 port and virtual channel (R115, R116). -/
structure Frame where
  cam     : Nat
  dropped : Bool
  sheet   : Nat
  number  : BitVec 16
  lines   : Nat
  trunc   : Bool
  crcBad  : Bool
  emb     : Bytes
  deriving DecidableEq, Repr

/-- Landing state of one sensor: current packed sheet, fill, drops since the last landed unit, error runs. -/
structure Landing where
  sheet   : Option Nat
  fill    : Nat
  landed  : Nat
  drops   : Nat
  badRun  : Bool
  perrRun : Bool
  /-- a CAN frame or an IMU edge was lost since the last landed unit -/
  ovr     : Bool
  /-- greatest MAPPED of a unit landed or dropped (R121) -/
  lastMapped : Nat
  /-- edges of the capture pin since the last landed unit, newest first (R140) -/
  edges   : List Nat
  deriving DecidableEq, Repr

/-- An SPI controller: running transaction, samples of the block being filled (R111). -/
structure Spi where
  running : Option Nat
  stamps  : List Nat
  raw     : List Bytes
  parsed  : List (List (BitVec 32))
  crcBad  : Bool
  unchecked : Bool
  perr    : Option Nat
  /-- SENSOR_STAMP of the first sample, and edges missed in the running transaction -/
  sstamp  : QW
  missed  : Nat
  deriving DecidableEq, Repr

/-- Sensor-port state (chapter 04). -/
structure Sns where
  units    : Tab LUnit
  nextUnit : Nat
  frames   : Tab Frame
  landing  : Tab Landing
  spi      : Vector Spi 4
  csiUp    : List Nat
  canStart : Tab Nat
  /-- receive error counters of the CAN controllers (R110) -/
  canRec   : Tab Nat
  deriving DecidableEq, Repr

/-! ## Timebase (chapter 05) -/

/-- A trigger schedule (R141). -/
structure Sched where
  mode   : Nat
  low    : Bool
  start  : Nat
  period : Nat
  width  : Nat
  deriving DecidableEq, Repr

/-- A schedule waiting for installation: its descriptor if any, and the earliest install time (R142, R143). -/
structure TrigWait where
  owner : Option Nat
  sched : Sched
  at_   : Nat
  deriving DecidableEq, Repr

/-- One trigger output. -/
structure Trig where
  cur    : Sched
  /-- next leading edge, none when there is none -/
  next   : Option Nat
  /-- end of the running pulse -/
  pulse  : Option Nat
  level  : Bool
  queue  : List TrigWait
  deriving DecidableEq, Repr

/-- One capture pin (R139). -/
structure Cap where
  count : BitVec 24
  ovr   : Byte
  last  : QW
  any   : Bool
  deriving DecidableEq, Repr

/-- Mapper states (R145). -/
inductive MapperSt where
  | acquiring | locked | quarantined
  deriving DecidableEq, Repr

/-- A per-sensor clock mapper (R145). -/
structure Mapper where
  hasRef   : Bool
  refNs    : QW
  refTick  : QW
  rate     : Int
  cnt      : Nat
  st       : MapperSt
  residual : Int
  deriving DecidableEq, Repr

/-- PTP port states. -/
inductive PtpSt where
  | disabled | master | slave | passive
  deriving DecidableEq, Repr

/-- A PTP port (R135, R136). Times ns; ratio is the neighbour rate ratio minus one in 2^-32. -/
structure PtpPort where
  st        : PtpSt
  /-- best Announce received, its sender and arrival -/
  best      : Option (PtpPrio × PtpId × Nat)
  seqSync   : BitVec 16
  seqPd     : BitVec 16
  /-- own Pdelay_Req on the way: sequence, t1 once stamped -/
  reqSeq    : BitVec 16
  t1        : Option Nat
  t4        : Option Nat
  t2        : Option Nat
  lastT3T4  : Option (Nat × Nat)
  ratio     : Int
  meanDelay : Option Int
  /-- two-step Sync waiting for its Follow_Up: sequence, receive stamp, correction -/
  sync      : Option (BitVec 16 × Nat × Int)
  lastSync  : Option Nat
  /-- intervals the neighbour has asked for (Signaling); TB_PORT's where it has not -/
  logSync   : Option Int
  logPd     : Option Int
  /-- the neighbour's Pdelay_Req to answer: sequence, sender, receive stamp -/
  reqRx     : Option (BitVec 16 × PtpId × Nat)
  /-- when the port became SLAVE -/
  slaveAt   : Nat
  /-- when it last sent Sync, Pdelay_Req and Announce, and the numbers of the general messages -/
  syncAt    : Option Nat
  pdAt      : Option Nat
  annAt     : Option Nat
  seqAnn    : BitVec 16
  seqSig    : BitVec 16
  deriving DecidableEq, Repr

/-- Timebase state (chapter 05). -/
structure Tb where
  time    : QW
  sub     : DW
  hiLatch : DW
  frLatch : BitVec 16
  freq    : Int
  rate    : Int
  valid   : Bool
  holdover : Bool
  txOvf   : Bool
  sat     : Bool
  offset  : Int
  stepCnt : DW
  txDrop  : DW
  stepped : Bool
  good    : Nat
  lastMeas : Option Nat
  /-- an offset left by a holdover is removed by slew, never by a step (R132) -/
  slewOnly : Bool
  /-- the last PPS_IN edge that marked a second, device reset before the first (R132) -/
  ppsLast : Nat
  caps    : Vector Cap 9
  trigs   : Vector Trig 9
  maps    : Tab Mapper
  ports   : Vector PtpPort 8
  txq     : List (BitVec 16 × Nat × Nat)
  deriving DecidableEq, Repr

/-! ## Plough (chapter 06) -/

/-- The history of one half-band stage. -/
structure HbStage where
  x : List Int
  j : Nat
  deriving DecidableEq, Repr

/-- A sample held for a channel: value (none where one was missed), stamp, cause of the miss (R151, R153). -/
structure PSample where
  value : Option Int
  stamp : Nat
  cause : Nat
  deriving DecidableEq, Repr

/-- A plough channel. `n` counts inputs since the last history reset. -/
structure PlgCh where
  cfg     : DW
  staged  : Option DW
  /-- switched by the pending swap -/
  switched : Bool
  /-- coefficient bank in use -/
  bank    : Bool
  stages  : List HbStage
  n       : Nat
  prev    : Int
  prevStamps : List Nat
  pend    : List PSample
  /-- the ring of 1,024 stamps (R156), newest first: stamp, saturated, inserted -/
  hist    : List (Nat × Bool × Bool)
  /-- current SCS block: inputs and stamps, newest first -/
  block   : List (Int × Nat)
  /-- a stage saturated since the last record was formed -/
  satPend : Bool
  lastRec : Option Nat
  outSeq  : BitVec 16
  satRun  : Bool
  gapRun  : Bool
  deriving DecidableEq, Repr

/-- A plough log: records written; the descriptors that hold a record, by its count (R162). -/
structure PlgLog where
  sheet  : DW
  live   : Bool
  count  : Nat
  holds  : Tab (List Nat)
  lostRun : Bool
  /-- greatest STAMP of a record written or dropped (R121) -/
  lastStamp : Nat
  deriving DecidableEq, Repr

/-- A swap that is loaded or armed (R159–R161). -/
structure PlgSwap where
  owner   : Option Nat
  at_     : Nat
  applyCh : Bool
  chans   : List DW
  switchedOn : Nat
  deriving DecidableEq, Repr

/-- Plough state (chapter 06). -/
structure Plg where
  en     : Bool
  active : Bool
  /-- bank 0 then bank 1: 5 stages of 16 coefficient words, side by side -/
  banks  : Vector (Tab DW) 2
  chans  : Vector PlgCh 32
  logs   : Vector PlgLog 8
  swap   : Option PlgSwap
  waiting : List Nat
  deriving DecidableEq, Repr

/-! ## Mirror (chapter 13) -/

/-- A mirror queue pair on one link (R310, R314): SEQ of the next message each way, PSN of the next packet sent, rate in hundredths of line
rate percent, and until when the traffic queued on it takes to send. -/
structure QPair where
  tx   : BitVec 16
  rx   : BitVec 16
  psn  : BitVec 24
  rate : Nat
  busy : Nat
  err  : Bool
  deriving DecidableEq, Repr

/-- What a ROLE message said of the partner (R308, R309). -/
structure PeerRole where
  verso  : Bool
  colophon : DW
  meas   : Digest
  config : Digest
  ident  : Digest
  rkey   : DW
  base   : QW
  bytes  : DW
  deriving DecidableEq, Repr

/-- One mirror link. -/
structure Link where
  up     : Bool
  paired : Bool
  peer   : Option PeerRole
  reason : Nat
  sentAt : Nat
  lastHb : Option Nat
  qps    : Vector QPair 4
  deriving DecidableEq, Repr

/-- A delta record (R315). -/
structure DeltaRec where
  sheet  : DW
  stage  : Nat
  offset : Nat
  data   : Bytes
  deriving DecidableEq, Repr

/-- A DIGEST of one firing (R317). -/
structure Dig where
  period : BitVec 64
  digest : Digest
  count  : DW
  bytes  : QW
  fault  : Bool
  deriving DecidableEq, Repr

/-- The partner's plan of a slot (R327). -/
structure PeerPlan where
  armed : Bool
  ctx   : Nat
  gen   : Byte
  ident : Digest
  deriving DecidableEq, Repr

/-- Sync states (R318). -/
inductive Sync where
  | synced | repair | bulk | diverged | unpaired
  deriving DecidableEq, Repr

/-- A running bulk resync (R321, R323). -/
structure Bulk where
  /-- the period it starts at, and the last one whose pieces this device has done -/
  since : Nat
  done  : Option Nat
  pos   : Nat
  lines : Nat
  doneSending : Bool
  owner : Option Nat
  overridden : Bool
  deriving DecidableEq, Repr

/-- Mirror state of a plan slot (R315–R328). -/
structure MirSlot where
  sync    : Sync
  adopt   : Bool
  tracked : List DW
  ident   : Option Digest
  peer    : Option PeerPlan
  /-- lines written by the running firing: sheet index, line, stage -/
  lines   : List (Nat × Nat × Nat)
  cur     : List DeltaRec
  /-- delta of the firing whose digest is not yet final -/
  own     : List DeltaRec
  /-- this device's recent periods, newest first: DIGEST and delta; the partner's deltas as received, and its DIGESTs -/
  owns    : List (Dig × List DeltaRec)
  theirs  : List (Nat × List DeltaRec)
  peerDigs : List Dig
  compared : Option (BitVec 64)
  /-- FILL lines received, each with its period -/
  fill    : List (Nat × DeltaRec)
  fillFor : Option (BitVec 64)
  fillEnd : Bool
  bulk    : Option Bulk
  /-- firing whose digest is not yet sent: period, fault -/
  unsent  : Option (BitVec 64 × Bool)
  /-- FAULT of recto's last DIGEST before the partner was lost (R325) -/
  lossFault : Bool
  /-- DIVERGED when the slot became UNPAIRED: it is so again once it pairs (R319) -/
  wasDiv  : Bool
  /-- SPLIT: no matching period since the mode was left -/
  stale   : Bool
  /-- the partner was lost: the next matching PLAN starts a bulk resync (R325) -/
  resume  : Bool
  deriving DecidableEq, Repr

/-- A unit waiting to be forwarded, and since when (R124, R326). -/
structure FwdWait where
  unit  : Nat
  since : Nat
  deriving DecidableEq, Repr

/-- A forwarded unit being received: fragments so far (R313). -/
structure RxUnit where
  sensor  : Nat
  record  : Bytes
  total   : Nat
  data    : Bytes
  dropped : Bool
  /-- the landing sheet taken at the first fragment, and where in it the unit starts -/
  sheet   : Nat
  off     : Nat
  deriving DecidableEq, Repr

/-- Mirror state (chapter 13). -/
structure Mir where
  verso   : Bool
  state   : Nat
  reason  : Nat
  configDiff : Bool
  links   : Vector Link 2
  slots   : Vector MirSlot 16
  /-- when the pair last came up, when a partner was last lost, and the last HEARTBEAT on any link -/
  upAt    : Option Nat
  lostAt  : Option Nat
  lastHb  : Option Nat
  hbDue   : Nat
  fwd     : List FwdWait
  /-- forwarded units being received, and the last SEQ received, by own sensor ID of the partner -/
  rx      : Tab RxUnit
  rxSeq   : Tab DW
  seen    : List (Nat × BitVec 64 × Nat)
  staging : Mem
  /-- where in the partner's staging window the next message goes (R320) -/
  fillAt  : Nat
  /-- split mode: since when QP2 and QP3 have stayed below 1 ms of traffic -/
  quiet   : Option Nat
  plgFwd  : List (Nat × Bytes)
  deriving DecidableEq, Repr

/-! ## Security and boot (chapter 15) -/

/-- The owner configuration record in force (R360). -/
structure OwnerRec where
  svn     : DW
  minMap  : DW
  vendorDebug : Bool
  debugKey : Digest
  digest  : Digest
  deriving DecidableEq, Repr

/-- One copy of the MRAM state record (R359). -/
structure StateRec where
  seq       : DW
  ownerKey  : Option Digest
  rollback  : DW
  preferred : Bool
  bootCnt   : DW
  deriving DecidableEq, Repr

/-- What lives in MRAM, flash and ROM, and so outlives a reset (R354, R358–R360, R364). -/
structure Vault where
  /-- the two copies of the state record; none is a copy whose digest is not correct (R359) -/
  stateA    : Option StateRec
  stateB    : Option StateRec
  romDigest : Digest
  rootKey   : Digest
  debugKey  : Digest
  vendorOk  : Bool
  vendorDigest : Digest
  openClaim : Bool
  idDigest  : Digest
  /-- the owner configuration record in force since the last boot (R360) -/
  owner     : Option OwnerRec
  /-- the two copies of the installed owner record with their SEQ; none is an empty or corrupt copy (R359) -/
  ownerA    : Option (DW × OwnerRec)
  ownerB    : Option (DW × OwnerRec)
  flashA    : Bytes
  flashB    : Bytes
  deriving DecidableEq, Repr

/-- A running firmware installation (R362). -/
structure Staging where
  slotB : Bool
  image : Bytes
  owner : Option Nat
  tag   : BitVec 16
  deriving DecidableEq, Repr

/-- Security state since the last boot. -/
structure Sec where
  slotB    : Bool
  fallback : Bool
  fbEvent  : Bool
  recovery : Bool
  /-- the vendor record failed: no firmware, no PCIe link (R358) -/
  dead     : Bool
  /-- Request Retry Status still answered (R356, R357) -/
  rrs      : Bool
  bootAt   : Nat
  idOk     : Bool
  staged   : Bool
  mapStaged : Bool
  tampered : Bool
  runSvn   : DW
  meas     : Digest
  log      : List Bytes
  chain    : Digest
  staging  : Option Staging
  challenge : Option (Bytes × Nat)
  lockedTo : Option Nat
  unlocked : Bool
  svcLink  : Bool
  /-- a STAGE_MAP that waits for the staging sheet's writer token: request, TAG, archive (R371) -/
  mapWait  : Option (Nat × BitVec 16 × Bytes)
  deriving DecidableEq, Repr

/-! ## Power (chapter 16) -/

/-- Power, reset and thermal state (chapter 16). -/
structure Pwr where
  perst    : Bool
  /-- every volume is held in reset until the next deassertion of PERST_N -/
  off      : Bool
  /-- a rail left its band while the device ran, and every rail has not yet been back for 1 ms (R376) -/
  brown    : Bool
  rails    : Vector Nat 9
  faultN   : Bool
  therm    : Bool
  setMv    : Nat
  measMv   : Nat
  stepAt   : Nat
  pmbFault : Bool
  retries  : Nat
  status   : BitVec 16
  lowVout  : Bool
  cap      : Nat
  underMs  : Nat
  limit    : Bool
  mw       : Vector DW 3
  temps    : Vector Int 3
  tjMax    : Int
  warn     : Bool
  hot      : Bool
  warnLow  : Option Nat
  hotLow   : Option Nat
  /-- running ramps: quire, start, up; waiting ramps: quire, time of the request, up -/
  ramps    : List (Nat × Nat × Bool)
  rampQ    : List (Nat × Nat × Bool)
  rates    : Vector Nat 11
  short    : List Nat
  deriving DecidableEq, Repr

/-! ## Press images (chapter 10): the layout of an image in its sheet is not given, so its content is held as data -/

/-- A variable of a structure image, in elimination order (R248). -/
structure PVar where
  var : Nat
  dim : Nat
  ex  : Int
  eg  : Int
  ey  : Int
  deriving DecidableEq, Repr

/-- A BFX32 block: exponent and row-major mantissas (R245). -/
structure Bfx where
  exp  : Int
  rows : Nat
  cols : Nat
  m    : List Int
  deriving DecidableEq, Repr

/-- A block of the pattern: block row, block column, H, and the initial exponent of L. -/
structure PBlk where
  i : Nat
  j : Nat
  h : Bfx
  el : Int
  deriving DecidableEq, Repr

/-- A structure image (R248, R249). -/
structure PImage where
  vars : List PVar
  blks : List PBlk
  b    : List Bfx
  pcgOnly  : Bool
  conflict : Bool
  degraded : Bool
  rangeSat : Bool
  deriving DecidableEq, Repr

/-! ## Maps (chapter 11): slots not listed are EMPTY, nodes not listed are unused -/

/-- A ledger entry (R272). -/
structure LEntry where
  key : BitVec 64
  ins : Nat
  del : Nat
  pay : BitVec 128
  deriving DecidableEq, Repr

/-- A search node (chapter 11, node record). -/
structure Node where
  adj   : List DW
  ins   : Nat
  del   : Nat
  label : DW
  level : Nat
  gen   : Nat
  upper : Nat
  codes : List Nat
  vec   : Bytes
  deriving DecidableEq, Repr

/-- A search index of a map. -/
structure MIdx where
  dim   : Nat
  m     : Nat
  s16   : Bool
  metric : Nat
  efBuild : Nat
  maxNodes : Nat
  seed  : DW
  hCb   : DW
  hNodes : DW
  hUpper : DW
  hVecs : DW
  /-- slots written since they were last marked for the mirror: region and slot (R315) -/
  wrote : List (DW × Nat)
  book  : Bytes
  nodes : Tab Node
  /-- generation of each slot ever used, and the slots freed -/
  gens  : Tab Nat
  freed : List Nat
  upper : Tab (List DW)
  entry : DW
  prev  : DW
  deriving DecidableEq, Repr

/-- A live map (R266–R281). -/
structure MapSt where
  create : Bytes
  log2   : Nat
  seed   : DW
  vox0   : Nat
  hBody  : DW
  hOvf   : DW
  hCache : DW
  c      : Nat
  f      : Nat
  body   : Tab LEntry
  ovf    : Tab LEntry
  high   : Bool
  cacheSets : Nat
  /-- per set, its ways most recently used first: way, bucket -/
  cache  : Tab (List (Nat × Nat))
  /-- slots of BODY and OVF written since they were last marked for the mirror (R315) -/
  wrote  : List (DW × Nat)
  idx    : List MIdx
  deriving DecidableEq, Repr

/-! ## The device and the state -/

/-- Facts of the board (R1, R3, R308): they are strapped, installed or recorded, not written by the device. -/
structure Board where
  variant : Variant
  letter  : BitVec 4
  number  : BitVec 4
  t3Gib   : Nat
  deriving DecidableEq, Repr

/-- PCIe configuration of the functions (R80, R105). -/
structure Pcie where
  numVfs : Nat
  vfEn   : Bool
  bme    : List Nat
  deriving DecidableEq, Repr

/-- The whole device. -/
structure Dev where
  board  : Board
  /-- RWL register words the device itself never changes, where they differ from reset -/
  setup  : Tab DW
  /-- every other register word, where it differs from reset -/
  regs   : Tab DW
  locked : Bool
  pcie   : Pcie
  vecs   : Tab Vec
  host   : Mem
  ctxs   : Vector Ctx 64
  /-- context served last by the round robin (R85) -/
  rr     : Nat
  nextId : Nat
  descs  : List Desc
  gaths  : Tab Gath
  disabled : List Nat
  drains : List Drain
  sheets : Tab Sheet
  copies : Tab Copy
  nextCopy : Nat
  movers : Vector Mover 8
  plans  : Tab Plan
  flt    : Flt
  sns    : Sns
  tb     : Tb
  plg    : Plg
  mir    : Mir
  vault  : Vault
  sec    : Sec
  pwr    : Pwr
  press  : Tab PImage
  maps   : Tab MapSt
  /-- model's own: free values drawn so far -/
  free   : Nat
  out    : List Out
  deriving DecidableEq, Repr

/-- The state: the device, and the commands that wait, first in, first out. -/
structure State where
  dev     : Dev
  pending : List Instr
  deriving DecidableEq, Repr

/-! ## Reset -/

/-- An absent or zero-length ring. -/
def Ring.reset : Ring := { base := 0, size := 64, head := 0, tail := 0 }

/-- A context after device reset: CLOSED with generation 0x01 (R78). -/
def Ctx.reset : Ctx :=
  { st := .closed, gen := 1, rings := 1, sq := Vector.replicate 4 Ring.reset, cqBase := 0, cqSize := 64, cqHead := 0,
    cqTail := 0, eqBase := 0, eqSize := 64, eqHead := 0, eqTail := 0, owed := 0, held := [], tear := none,
    reopen := false }

/-- A free sheet index after device reset (R48). -/
def Sheet.reset : Sheet :=
  { live := false, gen := 1, tier := 0, place := 0, part := 0, access := 0, ribbon := false, pin := false, zp := false,
    ctx := 0, ctxGen := 0, size := 0, rowBytes := 0, rows := 0, readers := 0, host := 0, freeing := false, tok := .empty,
    round := 0, void := .done, q := [], cells := [], synd := [], matched := 0, rowsDone := 0, rowRel := [] }

/-- A free gathering slot after device reset (R29). -/
def Gath.reset : Gath :=
  { gen := 1, bound := false, role := 0, rule := .batch, members := [], ctx := 0, ctxGen := 0 }

/-- An idle mover. -/
def Mover.reset : Mover := { oos := false, resetAt := none, jobs := [] }

/-- Fault state after device reset. -/
def Flt.reset : Flt :=
  { incidents := [], partOos := [], resetsAt := [], restores := [], volAt := none, volTimes := [], devOos := false,
    samples := 0, stopped := [], ceAt := [], ceSince := [], hints := [], patrol := [], skipped := [], loose := [], margins := [], ctl := [],
    ioBuf := [], crcBusy := [] }

/-- An idle SPI controller. -/
def Spi.reset : Spi :=
  { running := none, stamps := [], raw := [], parsed := [], crcBad := false, unchecked := false, perr := none,
    sstamp := 0, missed := 0 }

/-- Sensor ports after device reset. -/
def Sns.reset : Sns :=
  { units := [], nextUnit := 0, frames := [], landing := [], spi := Vector.replicate 4 Spi.reset, csiUp := [],
    canStart := [], canRec := [] }

/-- A landing state before the first unit. -/
def Landing.reset : Landing :=
  { sheet := none, fill := 0, landed := 0, drops := 0, badRun := false, perrRun := false, ovr := false, lastMapped := 0, edges := [] }

/-- A trigger output after reset: OFF, driven low. -/
def Trig.reset : Trig :=
  { cur := { mode := 0, low := false, start := 0, period := 0, width := 0 }, next := none, pulse := none,
    level := false, queue := [] }

/-- A capture pin that has seen no edge. -/
def Cap.reset : Cap := { count := 0, ovr := 0, last := 0, any := false }

/-- A mapper after reset: ACQUIRING without a reference (R145). -/
def Mapper.reset : Mapper :=
  { hasRef := false, refNs := 0, refTick := 0, rate := 0, cnt := 0, st := .acquiring, residual := 0 }

/-- A PTP port that is disabled. -/
def PtpPort.reset : PtpPort :=
  { st := .disabled, best := none, seqSync := 0, seqPd := 0, reqSeq := 0, t1 := none, t4 := none, t2 := none,
    lastT3T4 := none, ratio := 0, meanDelay := none, sync := none, lastSync := none, logSync := none, logPd := none,
    reqRx := none, slaveAt := 0, syncAt := none, pdAt := none, annAt := none, seqAnn := 0, seqSig := 0 }

/-- The timebase after device reset. -/
def Tb.reset : Tb :=
  { time := 0, sub := 0, hiLatch := 0, frLatch := 0, freq := 0, rate := 0, valid := false, holdover := false,
    txOvf := false, sat := false, offset := 0, stepCnt := 0, txDrop := 0, stepped := false, good := 0, lastMeas := none, slewOnly := false,
    ppsLast := 0,
    caps := Vector.replicate 9 Cap.reset, trigs := Vector.replicate 9 Trig.reset, maps := [],
    ports := Vector.replicate 8 PtpPort.reset, txq := [] }

/-- A plough channel after device reset: disabled, empty history. -/
def PlgCh.reset : PlgCh :=
  { cfg := 0, staged := none, switched := false, bank := false, stages := [], n := 0, prev := 0, prevStamps := [],
    pend := [], hist := [], block := [], satPend := false, lastRec := none, outSeq := 0, satRun := false,
    gapRun := false }

/-- A log that is not registered. -/
def PlgLog.reset : PlgLog := { sheet := 0, live := false, count := 0, holds := [], lostRun := false, lastStamp := 0 }

/-- The plough after device reset; a bank lists only the words that differ from the defaults of R155. -/
def Plg.reset : Plg :=
  { en := false, active := false, banks := Vector.replicate 2 [], chans := Vector.replicate 32 PlgCh.reset,
    logs := Vector.replicate 8 PlgLog.reset, swap := none, waiting := [] }

/-- A queue pair in its starting state (R310); the full line rate is 10000 hundredths of a percent. -/
def QPair.reset : QPair := { tx := 0, rx := 0, psn := 0, rate := 10000, busy := 0, err := false }

/-- A mirror link that is down. -/
def Link.reset : Link :=
  { up := false, paired := false, peer := none, reason := 1, sentAt := 0, lastHb := none,
    qps := Vector.replicate 4 QPair.reset }

/-- A plan slot the mirror knows nothing of. -/
def MirSlot.reset : MirSlot :=
  { sync := .synced, adopt := false, tracked := [], ident := none, peer := none, lines := [], cur := [], own := [],
    owns := [], theirs := [], peerDigs := [], compared := none, fill := [], fillFor := none,
    fillEnd := false, bulk := none, unsent := none, lossFault := false, wasDiv := false, stale := false, resume := false }

/-- The mirror after device reset: DOWN for want of a link (MIR_STATUS). -/
def Mir.reset : Mir :=
  { verso := false, state := 0, reason := 1, configDiff := false, links := Vector.replicate 2 Link.reset,
    slots := Vector.replicate 16 MirSlot.reset, upAt := none, lostAt := none, lastHb := none,
    hbDue := 0, fwd := [], rx := [], rxSeq := [], seen := [], staging := [], fillAt := 0, quiet := none, plgFwd := [] }

/-- MRAM, flash and ROM of the board (DESIGN CHOICE, log 5): a checked vendor record, no owner, empty flash. -/
def Vault.reset : Vault :=
  { stateA := some { seq := 1, ownerKey := none, rollback := 0, preferred := false, bootCnt := 1 }, stateB := none,
    romDigest := 0, rootKey := 0, debugKey := 0, vendorOk := true, vendorDigest := 0, openClaim := true, idDigest := 0,
    owner := none, ownerA := none, ownerB := none, flashA := [], flashB := [] }

/-- Security state after a boot that started firmware; `log` and `chain` are those of R365 for the board of log 5. -/
def Sec.reset (log : List Bytes) (chain : Digest) : Sec :=
  { slotB := false, fallback := false, fbEvent := false, recovery := false, dead := false, rrs := false, bootAt := 0,
    idOk := true, staged := false, mapStaged := false, tampered := false, runSvn := 0, meas := 0, log := log,
    chain := chain, staging := none, challenge := none, lockedTo := none, unlocked := false, svcLink := false,
    mapWait := none }

/-- Power state after reset: rails at their nominal millivolts, VDD_C at 720 mV (PWR table). -/
def Pwr.reset : Pwr :=
  { perst := false, off := false, brown := false, rails := #v[720, 750, 1100, 600, 750, 1200, 1800, 3300, 500],
    faultN := false, therm := false, setMv := 720, measMv := 0, stepAt := 0, pmbFault := false, retries := 0,
    status := 0, lowVout := false, cap := 0, underMs := 0, limit := false, mw := Vector.replicate 3 0,
    temps := Vector.replicate 3 0, tjMax := 0, warn := false, hot := false, warnLow := none, hotLow := none,
    ramps := [], rampQ := [], rates := Vector.replicate 11 0, short := [] }

/-- A boot log entry of a zero digest: KIND and INDEX in the first two words (R365). -/
def bootEntry (k : Nat) : Bytes := BitVec.ofNat 8 k :: 0 :: 0 :: 0 :: BitVec.ofNat 8 k :: List.replicate 59 0

/-- The chain value after the four boot entries of the board of log 5 (R365). -/
def bootChain : Digest := 0xc5fd55e6f0118b62678d834fe937444f1913e388103a0479674a79c7e20eccf9

/-- The device after reset for a board, a vault kept over it, and the boot's log and chain value. -/
def Dev.fresh (b : Board) (p : Pcie) (v : Vault) (sec : Sec) (pwr : Pwr) (verso : Bool) (host : Mem) (free : Nat)
    (out : List Out) : Dev :=
  { board := b, setup := [], regs := [], locked := false, pcie := p, vecs := [], host := host,
    ctxs := Vector.replicate 64 Ctx.reset, rr := 63, nextId := 0, descs := [], gaths := [], disabled := [], drains := [],
    sheets := [], copies := [], nextCopy := 0, movers := Vector.replicate 8 Mover.reset, plans := [], flt := Flt.reset,
    sns := Sns.reset, tb := Tb.reset, plg := Plg.reset, mir := { Mir.reset with verso := verso }, vault := v, sec := sec,
    pwr := pwr, press := [], maps := [], free := free, out := out }

/-- The board of the model (DESIGN CHOICE, log 1): a BL-6480 at stepping A0 with 64 GiB of LPDDR5X. -/
def Board.reset : Board := { variant := .bl6480, letter := 1, number := 0, t3Gib := 64 }

/-- Functions after reset (PRESUMED, log 4, the reset values of PCI Express): no VF, no bus master. -/
def Pcie.reset : Pcie := { numVfs := 0, vfEn := false, bme := [] }

/-- The machine right after reset: firmware running, every register at its reset value, nothing listed in memory, no
command waiting. -/
def State.reset : State :=
  { dev := Dev.fresh Board.reset Pcie.reset Vault.reset
      (Sec.reset [bootEntry 0, bootEntry 1, bootEntry 2, bootEntry 3] bootChain) Pwr.reset false [] 0 [],
    pending := [] }

end Sys2Proof.Machine
end

