-- ==== Sys2Proof/Machine/Ops.lean ====
section
/-! DEFINITION. Tables keyed by number, memory as canonical cells, little-endian packing (R5), bit fields, and how a
command's effect becomes an outcome. -/

namespace Sys2Proof.Machine

/-! ## Tables -/

/-- Look a key up. -/
def Tab.get? {α : Type} : Tab α → Nat → Option α
  | [], _ => none
  | (j, a) :: t, k => if j = k then some a else Tab.get? t k

/-- Look a key up with a default. -/
def Tab.getD {α : Type} (t : Tab α) (k : Nat) (d : α) : α := (Tab.get? t k).getD d

/-- Set a key, keeping the keys strictly rising. -/
def Tab.set {α : Type} : Tab α → Nat → α → Tab α
  | [], k, v => [(k, v)]
  | (j, a) :: t, k, v =>
    if k < j then (k, v) :: (j, a) :: t else if k = j then (k, v) :: t else (j, a) :: Tab.set t k v

/-- Remove a key. -/
def Tab.del {α : Type} (t : Tab α) (k : Nat) : Tab α := t.filter (fun p => p.1 ≠ k)

/-- Set a key of a table in which a default value is not listed. -/
def Tab.put {α : Type} [DecidableEq α] (d : α) (t : Tab α) (k : Nat) (v : α) : Tab α :=
  if v = d then Tab.del t k else Tab.set t k v

/-- Keys strictly rising. -/
def Tab.wf {α : Type} : Tab α → Bool
  | [] => true
  | [_] => true
  | (j, _) :: (k, b) :: t => decide (j < k) && Tab.wf ((k, b) :: t)

/-! ## Memory -/

/-- What an address nothing has written reads as. -/
def Mem.unlisted : Byte := 0

/-- Read one byte. -/
def Mem.get (m : Mem) (a : Nat) : Byte := Tab.getD m a Mem.unlisted

/-- Write one byte, keeping the canonical form. -/
def Mem.set (m : Mem) (a : Nat) (b : Byte) : Mem := Tab.put Mem.unlisted m a b

/-- The canonical form: addresses strictly rising, no listed byte equal to what an unlisted address reads as. -/
abbrev Mem.wf (m : Mem) : Bool := Tab.wf m && m.all (fun p => p.2 ≠ Mem.unlisted)

/-- Read `n` bytes from an address. -/
def Mem.read (m : Mem) (a : Nat) : Nat → Bytes
  | 0 => []
  | n + 1 => Mem.get m a :: Mem.read m (a + 1) n

/-- Write bytes from an address on. -/
def Mem.write (m : Mem) (a : Nat) : Bytes → Mem
  | [] => m
  | b :: t => Mem.write (Mem.set m a b) (a + 1) t

/-! ## Little-endian packing (R5) -/

/-- The number a byte string spells, first byte least significant. -/
def leNat : Bytes → Nat
  | [] => 0
  | b :: t => b.toNat + 256 * leNat t

/-- The low `n` bytes of a number, least significant first. -/
def toLe (v : Nat) : Nat → Bytes
  | 0 => []
  | n + 1 => BitVec.ofNat 8 v :: toLe (v / 256) n

/-- A word as four bytes. -/
def le32 (w : DW) : Bytes := toLe w.toNat 4

/-- A 64-bit word as eight bytes. -/
def le64 (q : QW) : Bytes := toLe q.toNat 8

/-- Several words as bytes. -/
def leWords (l : List DW) : Bytes := (l.map le32).flatten

/-- `n` bytes of a string from an offset, zero beyond its end. -/
def bslice (b : Bytes) (o n : Nat) : Bytes := let t := (b.drop o).take n; t ++ List.replicate (n - t.length) 0

/-- A little-endian field of a byte string. -/
def bnat (b : Bytes) (o n : Nat) : Nat := leNat ((b.drop o).take n)

/-- Word `n` of a byte string. -/
def bw (b : Bytes) (n : Nat) : DW := BitVec.ofNat 32 (bnat b (4 * n) 4)

/-- The signed value of the low `w` bits of a number. -/
def sext (w : Nat) (n : Nat) : Int :=
  let m := n % 2 ^ w
  if m ≥ 2 ^ (w - 1) then (m : Int) - (2 ^ w : Nat) else m

/-- An integer as a word, wrapping. -/
def dwI (n : Int) : DW := BitVec.ofInt 32 n

/-- A natural as a word, wrapping. -/
def dwN (n : Nat) : DW := BitVec.ofNat 32 n

/-- Pad to a multiple with zero bytes. -/
def padTo (k : Nat) (b : Bytes) : Bytes := b ++ List.replicate ((k - b.length % k) % k) 0

/-- Round up to a multiple. -/
def alignUp (n k : Nat) : Nat := (n + k - 1) / k * k

/-- Quotient rounded up. -/
def cdiv (n k : Nat) : Nat := (n + k - 1) / k

/-- Bits `[hi:lo]` of a word. -/
def bits (w : DW) (hi lo : Nat) : Nat := w.toNat / 2 ^ lo % 2 ^ (hi + 1 - lo)

/-- One bit of a word. -/
def bitOf (w : DW) (i : Nat) : Bool := decide (w.toNat / 2 ^ i % 2 = 1)

/-- A Bool as a bit. -/
def b2n (b : Bool) : Nat := if b then 1 else 0

/-- A string of 32-bit words zero? -/
def allZero (l : List DW) : Bool := l.all (· = 0)

/-! ## List helpers -/

/-- Replace the elements that satisfy a test. -/
def mapIf {α : Type} (p : α → Bool) (f : α → α) (l : List α) : List α := l.map (fun a => if p a then f a else a)

/-- Insert into a list ordered by a key, after equal keys. -/
def insertBy {α : Type} (le : α → α → Bool) (a : α) : List α → List α
  | [] => [a]
  | b :: t => if le b a then b :: insertBy le a t else a :: b :: t

/-- Stable insertion sort by a key. -/
def sortBy {α : Type} (le : α → α → Bool) (l : List α) : List α := l.foldl (fun acc a => insertBy le a acc) []

/-- The least element by a strict test, the earliest on ties. -/
def bestBy {α : Type} (lt : α → α → Bool) : List α → Option α
  | [] => none
  | a :: t => some (t.foldl (fun b x => if lt x b then x else b) a)

/-- Left fold with the position. -/
def foldIdx {α β : Type} (f : Nat → β → α → β) : Nat → β → List α → β
  | _, b, [] => b
  | i, b, a :: t => foldIdx f (i + 1) (f i b a) t

/-- Repeat a state change `n` times, the step given how many are done. -/
def iter {β : Type} (f : Nat → β → β) (n : Nat) (b : β) : β := (List.range n).foldl (fun acc i => f i acc) b

/-! ## Outcomes -/

/-- No volume is held in reset (R376, R378, R385). -/
def Dev.alive (d : Dev) : Bool := !d.pwr.perst && !d.pwr.off

/-- Firmware runs: the device is out of reset and neither in recovery nor without a vendor record (R357, R358). -/
def Dev.running (d : Dev) : Bool := d.alive && !d.sec.recovery && !d.sec.dead

/-- What no command but a register write or a device reset changes, framed by construction: the setup words and their
lock (R9, R100), the role (R308), the ROM (R354), and the board. -/
def Dev.framed (old new : Dev) : Dev :=
  { new with
    setup := old.setup
    locked := old.locked
    board := old.board
    mir := { new.mir with verso := old.mir.verso }
    vault := { new.vault with romDigest := old.vault.romDigest, rootKey := old.vault.rootKey, debugKey := old.vault.debugKey } }

/-- The effect of a command that needs running firmware and writes no setup register. A device held in reset or in
recovery does not act on it. -/
def State.run (s : State) (f : Dev → Dev) : Host.Outcome State Fault Refusal :=
  .next (if s.dev.running then { s with dev := s.dev.framed (f s.dev) } else s)

/-- The effect of a register write: as `run`, and setup words may change. -/
def State.runSetup (s : State) (f : Dev → Dev) : Host.Outcome State Fault Refusal :=
  .next (if s.dev.running then
    let d := f s.dev
    { s with dev := { s.dev.framed d with setup := d.setup, locked := d.locked } }
  else s)

/-- The effect of a command that also acts in recovery: the service port and the clocks of the I/O volume. -/
def State.runAlive (s : State) (f : Dev → Dev) : Host.Outcome State Fault Refusal :=
  .next (if s.dev.alive then { s with dev := s.dev.framed (f s.dev) } else s)

/-- The effect of a pin or rail, which acts in every state of the device. -/
def State.runRaw (s : State) (f : Dev → Dev) : Host.Outcome State Fault Refusal := .next { s with dev := f s.dev }

/-- The copy of the state record with the higher SEQ among those whose digest is correct; with none the record is taken as
cleared: no owner key, slot A preferred (R359). -/
def Vault.record (v : Vault) : StateRec := match v.stateA, v.stateB with
  | some a, some b => if a.seq.toNat < b.seq.toNat then b else a
  | some a, none => a
  | none, some b => b
  | none, none => { seq := 0, ownerKey := none, rollback := 0, preferred := false, bootCnt := 0 }

/-- The fields of the state record in force. -/
def Vault.ownerKey (v : Vault) : Option Digest := v.record.ownerKey
def Vault.rollback (v : Vault) : DW := v.record.rollback
def Vault.preferred (v : Vault) : Bool := v.record.preferred
def Vault.bootCnt (v : Vault) : DW := v.record.bootCnt

/-- Update the state record: the copy that is not in force is written with SEQ + 1 (R359). -/
def Vault.update (v : Vault) (f : StateRec → StateRec) : Vault :=
  let n := { f v.record with seq := v.record.seq + 1 }
  if v.stateA = some v.record then { v with stateB := some n } else { v with stateA := some n }

/-- The installed owner record: the copy with the higher SEQ. -/
def Vault.installedSeq (v : Vault) : Option (DW × OwnerRec) := match v.ownerA, v.ownerB with
  | some a, some b => if a.1.toNat < b.1.toNat then some b else some a
  | some a, none => some a
  | none, b => b

/-- Record something that leaves the block. -/
def Dev.emitOut (d : Dev) (o : Out) : Dev := { d with out := d.out ++ [o] }

/-- Draw a free value: the count at which it is drawn. -/
def Dev.draw (d : Dev) : Nat × Dev := (d.free, { d with free := d.free + 1 })

/-- Observed device time in ns (R21, R128). -/
def Dev.now (d : Dev) : Nat := d.tb.time.toNat

end Sys2Proof.Machine
end

