-- ==== Sys2Proof/Machine/Crc.lean ====
section
/-! DEFINITION. The four CRC algorithms of chapter 14 and the Hsiao SEC-DED code (R329). -/

namespace Sys2Proof.Machine

/-! ## CRC -/

/-- One step of a reflected CRC register of 32 bits. -/
def crcStepR (poly : BitVec 32) (c : BitVec 32) : BitVec 32 := if c.getLsbD 0 then (c >>> 1) ^^^ poly else c >>> 1

/-- One byte into a reflected 32-bit register. -/
def crcByteR (poly c : BitVec 32) (b : Byte) : BitVec 32 := iter (fun _ x => crcStepR poly x) 8 (c ^^^ b.setWidth 32)

/-- A reflected 32-bit CRC with initial value and final XOR of all ones. -/
def crcR (poly : BitVec 32) (l : Bytes) : BitVec 32 := ~~~ (l.foldl (crcByteR poly) 0xFFFFFFFF)

/-- One byte into a register of `w` bits, most significant bit first. -/
def crcByteM (w : Nat) (poly c : BitVec w) (b : Byte) : BitVec w :=
  iter (fun _ x => if x.msb then (x <<< 1) ^^^ poly else x <<< 1) 8 (c ^^^ (b.setWidth w <<< (w - 8)))

/-- CRC-32C: polynomial 0x1EDC6F41, reflected. -/
def crc32c (l : Bytes) : BitVec 32 := crcR 0x82F63B78 l
/-- CRC-32/ISO-HDLC: polynomial 0x04C11DB7, reflected. -/
def crc32 (l : Bytes) : BitVec 32 := crcR 0xEDB88320 l
/-- CRC-16/IBM-3740. -/
def crc16 (l : Bytes) : BitVec 16 := l.foldl (crcByteM 16 0x1021) 0xFFFF
/-- CRC-8/SAE-J1850. -/
def crc8 (l : Bytes) : BitVec 8 := (l.foldl (crcByteM 8 0x1D) 0xFF) ^^^ 0xFF

/-- The CRC of a POLY code as a 32-bit word; 0 for the codes that name no algorithm. -/
def crcOf (poly : Nat) (l : Bytes) : DW :=
  if poly = 1 then crc32c l else if poly = 2 then crc32 l else if poly = 3 then (crc16 l).setWidth 32
  else if poly = 4 then (crc8 l).setWidth 32 else 0

/-- Width in bytes of a POLY code's value. -/
def crcBytes (poly : Nat) : Nat := if poly = 1 ∨ poly = 2 then 4 else if poly = 3 then 2 else if poly = 4 then 1 else 0

/-! ## The integrity code -/

/-- Set bits of a byte. -/
def popc (v : Nat) : Nat := (List.range 8).foldl (fun n i => n + v / 2 ^ i % 2) 0

/-- The 64 parity-check columns, by data bit (R329). -/
def eccCols : List Nat :=
  ((List.range 256).filter (fun v => popc v = 3)) ++ (((List.range 256).filter (fun v => popc v = 5)).take 8)

/-- Check bits of a data word. -/
def eccCheck (d : QW) : Byte :=
  foldIdx (fun i c k => if d.getLsbD i then c ^^^ BitVec.ofNat 8 k else c) 0 0 eccCols

/-- What a decode finds. -/
inductive EccRes where
  | clean | corrected | poison | uncorrectable
  deriving DecidableEq, Repr

/-- Decode a word by its syndrome: what was found, and the word to use. -/
def eccSynd (d : QW) (s : Byte) : EccRes × QW :=
  if s = 0 then (.clean, d) else if s = 0xFF then (.poison, d)
  else if popc s.toNat = 1 then (.corrected, d)
  else match eccCols.idxOf? s.toNat with
    | some i => (.corrected, d ^^^ BitVec.ofNat 64 (2 ^ i))
    | none => (.uncorrectable, d)

/-- Decode a word with its stored check bits. -/
def eccDecode (d : QW) (c : Byte) : EccRes × QW := eccSynd d (eccCheck d ^^^ c)

end Sys2Proof.Machine
end

