-- ==== Sys2Proof/Machine/Regs.lean ====
section
/-! DEFINITION. The BAR0 register file (R391, R392, R395, R396): the RWL fields of every register, their range rules and
reset values, and reading and writing register words. -/

namespace Sys2Proof.Machine

/-- A writable field of a register word: place, width, and the values a write may take (R396). -/
structure Fld where
  lo : Nat
  w  : Nat
  ok : Nat → Bool

/-- A field that takes every value. -/
def anyF (lo w : Nat) : Fld := { lo := lo, w := w, ok := fun _ => true }
/-- A field with a range; other values written are ignored. -/
def rngF (lo w a b : Nat) : Fld := { lo := lo, w := w, ok := fun v => decide (a ≤ v ∧ v ≤ b) }
/-- A field with a list of values. -/
def setF (lo w : Nat) (l : List Nat) : Fld := { lo := lo, w := w, ok := fun v => l.contains v }
/-- A whole word that takes every value. -/
def wordF : List Fld := [anyF 0 32]

/-- Sensor IDs of own sensors (sensor ID table, R107). -/
def ownSensor (s : Nat) : Bool :=
  decide (s < 16) || decide (0x20 ≤ s ∧ s ≤ 0x27) || decide (0x30 ≤ s ∧ s ≤ 0x33) || decide (0x40 ≤ s ∧ s ≤ 0x43) ||
    s == 0x50 || s == 0x51
/-- Sensor IDs of the whole table, forwarded ones included. -/
def knownSensor (s : Nat) : Bool := ownSensor s || decide (0x80 ≤ s ∧ s ≤ 0xFF)

/-- The offset lies in a repeated array: base, stride, count. -/
def inArr (off base stride n : Nat) : Bool := decide (base ≤ off ∧ off < base + stride * n)
/-- Its index and the offset inside the element. -/
def arrIdx (off base stride : Nat) : Nat × Nat := ((off - base) / stride, (off - base) % stride)

/-- RWL fields of the HST block (chapter 03), offset absolute. -/
def rwlHst (off : Nat) : List Fld :=
  if off = 0x1000 then [anyF 0 7, anyF 8 6]
  else if off = 0x1004 then [anyF 0 1]
  else if inArr off 0x1400 64 64 then
    let (_, o) := arrIdx off 0x1400 64
    if o = 0 then [anyF 0 6, rngF 8 3 1 4]
    else if o = 4 then (List.range 6).map (fun i => rngF (4 * i) 4 0 10)
    else if o = 8 then [anyF 0 6, anyF 8 6, anyF 16 8]
    else if o = 12 then [anyF 0 2]
    else if o ≥ 0x10 then (if o % 8 = 0 then [anyF 12 20] else wordF)
    else []
  else []

/-- RWL fields of the SPN block (chapter 02). -/
def rwlSpn (v : Variant) (off : Nat) : List Fld :=
  if off = 0x3008 then [rngF 0 4 1 8]
  else if off = 0x300C then [rngF 0 8 0 (if v = .bl6440 then 48 else 96)]
  else if inArr off 0x3100 16 64 then
    let (_, o) := arrIdx off 0x3100 16
    if o = 0 ∨ o = 4 then wordF else if o = 8 ∧ v ≠ .bl6440 then wordF else []
  else []

/-- RWL fields of the SNS block (chapter 04). -/
def rwlSns (off : Nat) : List Fld :=
  if off = 0x4000 then [anyF 0 1]
  else if inArr off 0x4100 8 16 then
    let (_, o) := arrIdx off 0x4100 8
    if o = 0 then [anyF 0 7, setF 8 6 [0x2A, 0x2B, 0x2C, 0x1E, 0x1F], anyF 14 1]
    else if o = 4 then [rngF 0 16 64 8192, rngF 16 16 16 8192] else []
  else if inArr off 0x4180 4 8 then (if off % 4 = 0 then [setF 0 3 [1, 2, 4], anyF 3 1] else [])
  else if inArr off 0x4200 16 6 then
    let (_, o) := arrIdx off 0x4200 16
    if o = 0 then [anyF 0 2] else if o = 4 then wordF else if o = 8 then [anyF 0 16] else []
  else if inArr off 0x4300 16 16 then
    let (_, o) := arrIdx off 0x4300 16
    if o = 0 then [anyF 0 20] else if o = 4 then [anyF 0 17] else if o = 8 then wordF
    else if o = 12 then [setF 0 8 [0x20, 0x21, 0x22, 0x23, 0x24, 0x25, 0x26, 0x27, 0x50, 0x51]] else []
  else if inArr off 0x5000 0x100 16 then
    let (_, o) := arrIdx off 0x5000 0x100
    if o = 0 then [anyF 0 1, anyF 16 16] else if o = 4 then [anyF 0 16, rngF 16 16 0 4096]
    else if o = 8 then [rngF 0 3 0 4, anyF 3 1, anyF 16 12]
    else if 0x10 ≤ o ∧ o < 0x90 then (if o % 8 = 0 then wordF else [anyF 0 30]) else []
  else if inArr off 0x6000 0x200 4 then
    let (_, o) := arrIdx off 0x6000 0x200
    if o = 0 then [anyF 0 2] else if o = 4 ∨ o = 8 then wordF
    else if 0x100 ≤ o ∧ o < 0x200 then (if o % 8 = 0 then [anyF 0 31] else wordF) else []
  else if inArr off 0x6800 0x40 4 then
    let (_, o) := arrIdx off 0x6800 0x40
    if o = 0 then [anyF 0 3, rngF 8 8 10 250, rngF 16 6 1 32, rngF 22 6 1 63] else if 0x20 ≤ o then wordF else []
  else if inArr off 0x7000 16 0x52 then
    let (s, o) := arrIdx off 0x7000 16
    if !ownSensor s then []
    else if o = 0 then [anyF 0 2, anyF 4 4, rngF 8 8 1 255, rngF 16 10 1 1000] else if o = 4 then wordF else []
  else []

/-- RWL fields of the TB block (chapter 05). `LOG_SYNC` and `LOG_PDELAY` are s8. -/
def rwlTb (v : Variant) (off : Nat) : List Fld :=
  if off = 0x8000 then [rngF 0 2 0 2, anyF 2 1]
  else if off = 0x8008 then [rngF 0 9 1 500, rngF 16 16 16 65535]
  else if off = 0x800C then [rngF 0 16 10 60000]
  else if off = 0x8034 then [anyF 0 25]
  else if inArr off 0x8040 8 8 then
    let (p, o) := arrIdx off 0x8040 8
    if p = 7 ∧ v = .bl6440 then []
    else if o = 0 then
      [anyF 0 1, rngF 1 2 0 2, { lo := 8, w := 8, ok := fun x => decide (x = 0 ∨ 0xF9 ≤ x) },
        { lo := 16, w := 8, ok := fun x => decide (x ≤ 3 ∨ 0xFD ≤ x) }]
    else if o = 4 then wordF else []
  else if inArr off 0x8080 16 9 then
    if off % 16 = 0 then [anyF 0 3, { lo := 8, w := 8, ok := fun s => knownSensor s }] else []
  else if inArr off 0x8200 32 9 then
    let (_, o) := arrIdx off 0x8200 32
    if o = 0 then [anyF 0 3] else if o = 8 ∨ o = 12 ∨ o = 16 ∨ o = 20 then wordF else []
  else if inArr off 0x8400 32 0x52 then
    let (s, o) := arrIdx off 0x8400 32
    if !ownSensor s then []
    else if o = 0 then [anyF 0 1, rngF 4 4 1 8, rngF 8 4 4 12, rngF 16 14 1 10000]
    else if o = 4 then [rngF 0 32 1 0xFFFFFFFF] else if o = 8 then wordF
    else if o = 12 ∨ o = 16 then [rngF 0 20 1 1000000] else []
  else []

/-- A PLG_CH configuration word takes TAPS without the code 3 (chapter 06). -/
def tapsOk (x : Nat) : Bool := (List.range 5).all (fun s => decide (x / 4 ^ s % 4 ≠ 3))

/-- RWL fields of the PLG block (chapter 06). -/
def rwlPlg (off : Nat) : List Fld :=
  if off = 0x9000 then [anyF 0 1]
  else if off = 0x9008 ∨ off = 0x900C then wordF
  else if off = 0x9010 then [anyF 0 2]
  else if inArr off 0x9040 8 8 then (if off % 8 = 0 then wordF else [])
  else if inArr off 0x9100 8 32 then
    if off % 8 = 0 then [anyF 0 2, rngF 3 3 0 5, { lo := 6, w := 10, ok := tapsOk }, rngF 16 4 0 8] else []
  else if inArr off 0x9400 0x200 2 then
    let (_, o) := arrIdx off 0x9400 0x200
    if o < 0x140 ∧ o % 0x40 < 56 then [anyF 0 24] else []
  else []

/-- RWL fields of the VIS, TEN and FUS blocks (chapters 07 to 09). -/
def rwlEng (off : Nat) : List Fld :=
  if off = 0xA000 then [rngF 0 32 1 0xFFFFFFFF]
  else if inArr off 0xA040 16 4 then
    let (_, o) := arrIdx off 0xA040 16
    if o = 0 then wordF else if o = 4 then [anyF 0 16] else if o = 8 then [rngF 0 7 0 100] else []
  else if off = 0xB000 then [anyF 0 2]
  else if off = 0xC000 then [anyF 0 1, anyF 16 16]
  else if off = 0xC004 then [anyF 0 16]
  else if off = 0xC008 ∨ off = 0xC00C ∨ off = 0xC010 then wordF
  else if inArr off 0xC040 8 12 then
    (if off % 8 = 0 then [rngF 0 6 1 63] else wordF)
  else if inArr off 0xC100 32 8 then
    let (_, o) := arrIdx off 0xC100 32
    if o = 0 then [anyF 0 18] else if o ≤ 24 then wordF else []
  else if inArr off 0xC400 64 32 then
    let (_, o) := arrIdx off 0xC400 64
    if o = 0 then [anyF 0 2] else if o ≤ 48 then wordF else []
  else if inArr off 0xCC00 64 2 then
    let (_, o) := arrIdx off 0xCC00 64
    if o = 0 then [anyF 0 9] else if o ≤ 36 then wordF else []
  else if inArr off 0xD000 32 256 then
    let (s, o) := arrIdx off 0xD000 32
    if knownSensor s ∧ o ≤ 24 then wordF else []
  else []

/-- RWL fields of the PRS, SRC, LDG, MIR, FLT, CRC, SEC and PWR blocks (chapters 10 to 16). -/
def rwlRest (v : Variant) (off : Nat) : List Fld :=
  if off = 0x10000 then [anyF 0 3]
  else if off = 0x11000 then [rngF 0 4 1 15]
  else if off = 0x12000 then [rngF 0 7 1 100]
  else if off = 0x14000 then [rngF 0 9 5 500, rngF 16 10 1 1000]
  else if off = 0x14004 then [anyF 0 2]
  else if off = 0x14008 then [rngF 0 16 0 10000, rngF 16 16 100 20000]
  else if inArr off 0x14100 32 2 then
    let (m, o) := arrIdx off 0x14100 32
    if m = 1 ∧ v = .bl6440 then []
    else if o = 0 then [anyF 0 10] else if o = 4 ∨ o = 8 ∨ o = 12 ∨ o = 20 then wordF
    else if o = 16 ∨ o = 24 then [anyF 0 16] else []
  else if off = 0x15000 then [rngF 0 4 1 15, rngF 4 12 1 3600, anyF 16 1]
  else if off = 0x15004 then wordF
  else if off = 0x1500C then [rngF 0 16 100 10000]
  else if off = 0x15010 ∨ off = 0x15014 then [rngF 0 17 60 86400]
  else if inArr off 0x15044 4 9 then [rngF 0 32 1 0xFFFFFFFF]
  else if off = 0x16000 then [anyF 0 1]
  else if off = 0x17010 then wordF
  else if off = 0x18000 then [anyF 0 2, anyF 8 7, rngF 16 8 80 115]
  else if off = 0x1800C then [rngF 0 8 20 58]
  else []

/-- The RWL fields of the register word at an offset; none for an offset that is reserved (R392, R395). -/
def rwlAt (v : Variant) (off : Nat) : List Fld :=
  if off % 4 ≠ 0 then []
  else if off < 0x3000 then rwlHst off
  else if off < 0x4000 then rwlSpn v off
  else if off < 0x8000 then rwlSns off
  else if off < 0x9000 then rwlTb v off
  else if off < 0xA000 then rwlPlg off
  else if off < 0x10000 then rwlEng off
  else rwlRest v off

/-- RWL words that act when written or that the device itself may change; they live outside `setup`. -/
def ownWord (off : Nat) : Bool :=
  off == 0x1004 || (inArr off 0x1400 64 64 && (off - 0x1400) % 64 == 12) || inArr off 0x8200 32 9 || off == 0x9000 ||
    off == 0x9010 || inArr off 0x9040 8 8 || inArr off 0x9100 8 32 || inArr off 0x9400 0x200 2 || off == 0x15004 ||
    off == 0x17010

/-- Reset values of the words that do not reset to zero (the chapters' register tables). -/
def resetWord (v : Variant) (off : Nat) : DW :=
  if inArr off 0x1400 64 64 ∧ (off - 0x1400) % 64 = 0 then 0x100
  else if off = 0x3008 then 2
  else if off = 0x300C then (if v = .bl6440 then 24 else 48)
  else if inArr off 0x4180 4 8 then 4
  else if inArr off 0x6800 0x40 4 ∧ (off - 0x6800) % 0x40 = 0 then dwN (250 * 2 ^ 8 + 1 * 2 ^ 16 + 32 * 2 ^ 22)
  else if inArr off 0x7000 16 0x52 ∧ ownSensor ((off - 0x7000) / 16) then
    (if off % 16 = 0 then dwN (2 + 16 * 2 ^ 8 + 20 * 2 ^ 16) else if off % 16 = 4 then 1000 else 0)
  else if off = 0x8008 then dwN (250 + 1000 * 2 ^ 16)
  else if off = 0x800C then 1000
  else if off = 0x8034 then dwN (248 * 2 ^ 8 + 248 * 2 ^ 16)
  else if inArr off 0x8040 8 8 ∧ off % 8 = 0 ∧ ¬ (off = 0x8078 ∧ v = .bl6440) then 0xFD00
  else if inArr off 0x8080 16 9 ∧ off % 16 = 0 then 0xFF00
  else if inArr off 0x8400 32 0x52 ∧ ownSensor ((off - 0x8400) / 32) then
    (if off % 32 = 0 then dwN (4 * 2 ^ 4 + 8 * 2 ^ 8 + 1000 * 2 ^ 16) else if off % 32 = 4 then 1000
      else if off % 32 = 12 then 100000 else if off % 32 = 16 then 1000 else 0)
  else if off = 0xA000 then 0x64800001
  else if inArr off 0xA040 16 4 then
    (if off % 16 = 0 then 200000 else if off % 16 = 4 then 2560 else if off % 16 = 8 then 24 else 0)
  else if off = 0xB000 then 3
  else if off = 0xC000 then dwN (2000 * 2 ^ 16)
  else if off = 0xC004 then 410
  else if off = 0xC010 then 0xC11CE80A
  else if inArr off 0xC040 8 12 ∧ off % 8 = 0 then
    (if off = 0xC090 then 0x1C else if off = 0xC098 then 0x38 else 0x3F)
  else if inArr off 0xCC00 64 2 ∧ (off - 0xCC00) % 64 = 24 then 0x40000000
  else if inArr off 0xD000 32 256 ∧ knownSensor ((off - 0xD000) / 32) ∧ off % 32 = 0 then 0x40000000
  else if off = 0x10000 then 7
  else if off = 0x11000 then 8
  else if off = 0x12000 then 75
  else if off = 0x14000 then dwN (20 + 10 * 2 ^ 16)
  else if off = 0x14008 then dwN (1000 + 2000 * 2 ^ 16)
  else if inArr off 0x14100 32 2 ∧ (off - 0x14100) % 32 = 0 ∧ ¬ (off = 0x14120 ∧ v = .bl6440) then
    dwN (3 * 2 + 26 * 2 ^ 4)
  else if off = 0x15000 then dwN (4 + 60 * 2 ^ 4 + 2 ^ 16)
  else if off = 0x1500C then 1000
  else if off = 0x15010 then 600
  else if off = 0x15014 then 3600
  else if inArr off 0x15044 4 9 then
    let k := (off - 0x15040) / 4
    if k = 1 ∨ k = 3 then 50000 else if k = 8 ∨ k = 9 then 100000 else 20000
  else if off = 0x16000 then 1
  else if off = 0x18000 then dwN (0x40 * 2 ^ 8 + 110 * 2 ^ 16)
  else if off = 0x1800C then 58
  else 0

/-- The mask of a list of fields. -/
def fldMask (l : List Fld) : Nat := l.foldl (fun m f => m ||| ((2 ^ f.w - 1) * 2 ^ f.lo)) 0

/-- A write field by field: a field whose range rule refuses the value keeps what it holds (R9, R396). -/
def fldWrite (l : List Fld) (old new : DW) : DW :=
  l.foldl (fun acc f =>
    let x := new.toNat / 2 ^ f.lo % 2 ^ f.w
    if f.ok x then
      (acc &&& ~~~ (dwN ((2 ^ f.w - 1) * 2 ^ f.lo))) ||| dwN (x * 2 ^ f.lo)
    else acc) old

/-- Every offset at which an RWL field may stand, ascending. -/
def rwlOffsets (v : Variant) : List Nat :=
  ((List.range (0x18010 / 4)).map (· * 4)).filter (fun o => !(rwlAt v o).isEmpty)

/-! ## The stored words -/

/-- A setup word: what was written, else its reset value. -/
def Dev.reg (d : Dev) (off : Nat) : DW := Tab.getD d.setup off (resetWord d.board.variant off)

/-- A field of a setup word. -/
def Dev.regF (d : Dev) (off hi lo : Nat) : Nat := bits (d.reg off) hi lo

/-- A word the device keeps: counters, loss and latch bits. -/
def Dev.own (d : Dev) (off : Nat) : DW := Tab.getD d.regs off 0

/-- Set a word the device keeps. -/
def Dev.setOwn (d : Dev) (off : Nat) (w : DW) : Dev := { d with regs := Tab.put 0 d.regs off w }

/-- Add to a wrapping counter. -/
def Dev.count (d : Dev) (off : Nat) (n : Nat := 1) : Dev := d.setOwn off (d.own off + dwN n)

/-- Set a setup word. -/
def Dev.setReg (d : Dev) (off : Nat) (w : DW) : Dev :=
  { d with setup := Tab.put (resetWord d.board.variant off) d.setup off w }

/-! ## Counters by name -/

abbrev cEvtLostLo := 0x1010
abbrev cEvtDrop := 0x1018
abbrev cDbErr := 0x101C
abbrev cRefusePort := 0x1020
abbrev cSvcRefuse := 0x1024
abbrev cTestRefuse := 0x1028
abbrev cPromote := 0x3900
abbrev cDemand := 0x3904
abbrev cEvict := 0x3908
abbrev cLate := 0x390C
abbrev cZpFail := 0x3910
abbrev cEthDrop := 0x4010
abbrev cFcs := 0x4014
abbrev cCsiDrop := 0x4018
abbrev cCsiEcc := 0x401C
abbrev cCanFilt := 0x4020
abbrev cSpiOvr := 0x4024
abbrev cPoolDrop := 0x4028
abbrev cPlgSat := 0x9020
abbrev cPlgGap := 0x9024
abbrev cPlgLogDrop := 0x9028
abbrev cPlgSwap := 0x902C
abbrev cVisNoFrame := 0xA004
abbrev cVisCheck := 0xA008
abbrev cTenNonfinite := 0xB004
abbrev cTenSat := 0xB008
abbrev cTenCheck := 0xB00C
abbrev cTenSkip := 0xB010
abbrev cTenStall := 0xB014
abbrev cFusSkip := 0xC014
abbrev cFusDropPt := 0xC018
abbrev cFusSat := 0xC01C
abbrev cPrsPivot := 0x10004
abbrev cPrsSat := 0x10008
abbrev cPrsRescale := 0x1000C
abbrev cPrsCut := 0x10010
abbrev cPrsSkip := 0x10014
abbrev cPrsCheck := 0x10018
abbrev cPrsSolve := 0x1001C
abbrev cSrcQuery := 0x11004
abbrev cSrcExpand := 0x11008
abbrev cSrcLate := 0x1100C
abbrev cSrcInsert := 0x11010
abbrev cSrcLost := 0x11014
abbrev cSrcReclaim := 0x11018
abbrev cLdgKick := 0x12008
abbrev cLdgOvf := 0x1200C
abbrev cLdgFull := 0x12010
abbrev cLdgVersion := 0x12014
abbrev cLdgHit := 0x12018
abbrev cLdgMiss := 0x1201C
abbrev cLdgCommit := 0x12020
abbrev cLdgReclaim := 0x12024
abbrev cSchFiring := 0x13000
abbrev cSchLate := 0x13004
abbrev cSchSyncMiss := 0x13008
abbrev cSchRefused := 0x1300C
abbrev cMirDrop := 0x14200
abbrev cMirCrc := 0x14204
abbrev cMirStale := 0x14208
abbrev cMirCnp := 0x1420C
abbrev cMirFwd := 0x14210
abbrev cMirRepair := 0x14214
abbrev cMirBulk := 0x14218
abbrev cMirHbMiss := 0x1421C
abbrev cFltSample := 0x15020
abbrev cFltSampleLost := 0x15024
abbrev cFltHintDrop := 0x15028
abbrev cFltMoverReset := 0x1502C
abbrev cCrcMismatch := 0x16004
abbrev cCrcJob := 0x16008
abbrev cSecVerify := 0x17060
abbrev cSecUnlock := 0x17064
abbrev cSecQuote := 0x17068
abbrev cPwrThrottle := 0x180A0
abbrev cPwrPmbErr := 0x180A4
abbrev cPwrLimit := 0x180A8
abbrev cPwrRampWait := 0x180AC

end Sys2Proof.Machine
end

