-- ==== Sys2Proof/Machine/Flags.lean ====
section
/-! DEFINITION. Status codes and their precedence (chapter 03 status table, R41, R55), result flags, lateness (R93). -/

namespace Sys2Proof.Machine

/-- The code of a status in a completion record. -/
def Status.code : Status → Nat
  | .done => 0x00 | .doneTimeCut => 0x01 | .doneDegraded => 0x02
  | .bouncedRoleStale => 0x08 | .refusedDisabled => 0x09 | .refusedUnitAbsent => 0x0A | .refusedPort => 0x0B
  | .refusedQuota => 0x0C | .refusedMalformed => 0x0D | .refusedContextGone => 0x0E
  | .abortedFence => 0x10 | .abortedReset => 0x11 | .abortedTeardown => 0x12
  | .failedTimeout => 0x18 | .failedUncorrectable => 0x19 | .failedCheck => 0x1A | .failedRange => 0x1B

/-- The statuses that leave output writer tokens SET (status table, R54). -/
def Status.ok : Status → Bool
  | .done | .doneTimeCut | .doneDegraded => true
  | _ => false

/-- What a reader of a VOID sheet completes with (R55). -/
def Status.passed : Status → Status
  | .failedTimeout => .abortedFence
  | s => s

/-- Place in the precedence of R41, 0 highest. -/
def Status.rank : Status → Nat
  | .failedUncorrectable => 0 | .failedCheck => 1 | .failedRange => 2 | .failedTimeout => 3
  | .abortedReset => 4 | .abortedFence => 5 | .abortedTeardown => 6 | .refusedQuota => 7 | .refusedDisabled => 8
  | .bouncedRoleStale => 9 | .refusedUnitAbsent => 10 | .refusedPort => 11 | .refusedMalformed => 12
  | .refusedContextGone => 13 | .doneTimeCut => 20 | .doneDegraded => 21 | .done => 22

/-- The status of higher precedence (R41). -/
def Status.join (a b : Status) : Status := if b.rank < a.rank then b else a

/-! ## Result flags -/

abbrev fPivotReg : BitVec 16 := 0x001
abbrev fRangeSat : BitVec 16 := 0x002
abbrev fConflict : BitVec 16 := 0x004
abbrev fTimeSuspect : BitVec 16 := 0x008
abbrev fPrefetchLate : BitVec 16 := 0x010
abbrev fEccCorrected : BitVec 16 := 0x020
abbrev fDiverged : BitVec 16 := 0x040
abbrev fTimeCut : BitVec 16 := 0x080
abbrev fLedgerFull : BitVec 16 := 0x100
abbrev fNotConverged : BitVec 16 := 0x200

/-- A flag when a condition holds. -/
def flagIf (c : Bool) (f : BitVec 16) : BitVec 16 := if c then f else 0

/-- LATENESS of a completion: ceil of microseconds past the DEADLINE, saturated to s32; 0 without a DEADLINE (R93). -/
def lateness (finish deadline : Nat) : DW :=
  if deadline = 0 then 0
  else
    let d : Int := (finish : Int) - deadline
    dwI (satS 32 (-((-d) / 1000)))

/-- The 48-bit comparison of short time (R134). -/
def tbReached (now target : Nat) : Bool := decide ((now + 2 ^ 48 - target % 2 ^ 48) % 2 ^ 48 < 2 ^ 47)

/-- A device-time target is acceptable: not more than 2^47 ns ahead (R134). -/
def targetOk (now target : Nat) : Bool := decide (target ≤ now + 2 ^ 47)

end Sys2Proof.Machine
end

