-- ==== Sys2Proof/Machine/Operands.lean ====
section
/-! DEFINITION. The operand forms of a descriptor: header fields, unit handles (R14), sheet handles, and what an operation
reads and writes. -/

namespace Sys2Proof

open Machine

/-! ## Descriptor header (chapter 03) -/

/-- Word `i` of a descriptor. -/
def DescWords.dw (w : DescWords) (i : Nat) : DW := w.getD i 0
/-- Bits of word `i`. -/
def DescWords.f (w : DescWords) (i hi lo : Nat) : Nat := bits (w.dw i) hi lo
/-- Words `i` and `i + 1` of a descriptor as one 64-bit field. -/
def DescWords.q (w : DescWords) (i : Nat) : Nat := (w.getD i 0).toNat + 2 ^ 32 * (w.getD (i + 1) 0).toNat
/-- Opcode. -/
def DescWords.opc (w : DescWords) : Nat := w.f 0 7 0
/-- FENCE_BEFORE. -/
def DescWords.fenceBefore (w : DescWords) : Bool := bitOf (w.dw 0) 8
/-- CHAIN. -/
def DescWords.chain (w : DescWords) : Bool := bitOf (w.dw 0) 9
/-- IRQ_ON_DONE. -/
def DescWords.irqOnDone (w : DescWords) : Bool := bitOf (w.dw 0) 10
/-- PERIODIC. -/
def DescWords.periodic (w : DescWords) : Bool := bitOf (w.dw 0) 11
/-- OPTIONAL. -/
def DescWords.optional (w : DescWords) : Bool := bitOf (w.dw 0) 12
/-- TAG. -/
def DescWords.tag (w : DescWords) : BitVec 16 := BitVec.ofNat 16 (w.f 0 31 16)
/-- TARGET handle. -/
def DescWords.target (w : DescWords) : Nat := w.f 1 23 0
/-- MAX_SHRINK. -/
def DescWords.maxShrink (w : DescWords) : Nat := w.f 1 31 24
/-- TIMEOUT_US. -/
def DescWords.timeoutUs (w : DescWords) : Nat := (w.dw 2).toNat
/-- DEADLINE. -/
def DescWords.deadline (w : DescWords) : Nat := w.q 4
/-- Words `lo` to `hi` are all zero. -/
def DescWords.zero (w : DescWords) (lo hi : Nat) : Bool :=
  (List.range (hi + 1 - lo)).all (fun k => w.dw (lo + k) = 0)
/-- A word has no bit outside a mask. -/
def DescWords.within (w : DescWords) (i mask : Nat) : Bool := (w.dw i).toNat &&& (2 ^ 32 - 1 - mask) == 0
/-- A word with one replaced. -/
def DescWords.put (w : DescWords) (i : Nat) (x : DW) : DescWords := w.setIfInBounds i x

end Sys2Proof

namespace Sys2Proof.Machine

/-! ## Unit handles (R14) -/

/-- INDEX of a unit handle. -/
def uIdx (h : Nat) : Nat := h % 2 ^ 12
/-- KIND of a unit handle. -/
def uKind (h : Nat) : Nat := h / 2 ^ 12 % 16
/-- GEN of a unit handle. -/
def uGen (h : Nat) : Nat := h / 2 ^ 16 % 256

/-- KIND recorded for a fixed index (R14); none for a reserved range. Gathering slots are kind 0. -/
def kindOf (i : Nat) : Option Nat :=
  if i < 0x100 then some 1 else if i < 0x102 then some 2 else if i < 0x104 then some 3 else if i < 0x108 then some 4
  else if i < 0x10C then some 6 else if i < 0x10E then some 5 else if i < 0x112 then some 7 else if i < 0x114 then some 8
  else if i < 0x120 then none else if i < 0x16A then some 13 else if i < 0x170 then none else if i < 0x17B then some 14
  else if i < 0x180 then none else if i < 0x188 then some 9 else if i = 0x188 then some 10 else if i = 0x189 then some 11
  else if i < 0x18C then some 12 else if i < 0x200 then none else some 0

/-- Number of tensor quires (variant table). -/
def Variant.quires : Variant → Nat
  | .bl6480 => 8 | .bl6460 => 6 | .bl6440 => 4

/-- The unit of an index is present on the variant (R15, R394). -/
def present (v : Variant) (i : Nat) : Bool :=
  if i < 0x100 then decide (i < 32 * v.quires)
  else if i = 0x102 ∨ i = 0x103 ∨ i = 0x161 then v != .bl6440
  else if i = 0x110 ∨ i = 0x111 ∨ i = 0x168 then v != .bl6440
  else if i = 0x113 ∨ i = 0x18B then v != .bl6440
  else if 0x120 ≤ i ∧ i < 0x160 then decide (i - 0x120 < 8 * v.quires)
  else if 0x170 ≤ i ∧ i < 0x178 then decide (i - 0x170 < v.quires)
  else true

/-- The partition of a leaf: 0–7 QT0–QT7, 8 QV, 9 QE, 10 QM. -/
def partOf (leaf : Nat) : Nat :=
  if leaf < 0x100 then leaf / 32 else if leaf < 0x108 then 8 else if leaf < 0x10E then 9 else 10

/-- Handle of a built leaf. -/
def leafHandle (i : Nat) : Nat := (kindOf i).getD 0 * 2 ^ 12 + i

/-- The partition is present on the variant. -/
def partPresent (v : Variant) (p : Nat) : Bool := decide (8 ≤ p ∧ p ≤ 10) || decide (p < v.quires)

/-- Members of a built folio or quire: folios hold leaves, quires hold folios (chapter 01). -/
def builtMembers (i : Nat) : List Nat :=
  if 0x120 ≤ i ∧ i < 0x160 then (List.range 4).map (fun l => (i - 0x120) * 4 + l)
  else if i = 0x160 then [0x100, 0x101] else if i = 0x161 then [0x102, 0x103] else if i = 0x162 then [0x104, 0x105]
  else if i = 0x163 then [0x106, 0x107] else if i = 0x164 then [0x108, 0x109] else if i = 0x165 then [0x10A, 0x10B]
  else if i = 0x166 then [0x10C, 0x10D] else if i = 0x167 then [0x10E, 0x10F] else if i = 0x168 then [0x110, 0x111]
  else if i = 0x169 then [0x112, 0x113]
  else if 0x170 ≤ i ∧ i < 0x178 then (List.range 8).map (fun f => 0x120 + (i - 0x170) * 8 + f)
  else if i = 0x178 then [0x160, 0x161, 0x162, 0x163] else if i = 0x179 then [0x164, 0x165, 0x166]
  else if i = 0x17A then [0x167, 0x168, 0x169] else []

/-- Built partition rule (chapter 01). -/
def builtRule (i : Nat) : Rule := if i < 0x160 ∨ (0x170 ≤ i ∧ i < 0x178) then .rows else .batch

/-- The timebase and plough handles. -/
abbrev hTimebase := 0x00B189
abbrev hPlough := 0x00A188

/-! ## Sheet handles (chapter 02) -/

/-- INDEX of a sheet handle. -/
def shIdx (h : DW) : Nat := bits h 21 0
/-- TIER of a sheet handle. -/
def shTier (h : DW) : Nat := bits h 23 22
/-- GEN of a sheet handle. -/
def shGen (h : DW) : Nat := bits h 31 24
/-- A sheet handle from its fields. -/
def shMake (gen : Byte) (tier idx : Nat) : DW := dwN (gen.toNat * 2 ^ 24 + tier % 4 * 2 ^ 22 + idx % 2 ^ 22)

/-- One sheet an operation names: its handle, and whether it is written. `leaf` marks access by a leaf that reaches
T1 only (R43). -/
structure Use where
  h     : DW
  write : Bool
  leaf  : Bool
  deriving DecidableEq, Repr

/-- A read, and a write, by such a leaf. -/
def Use.rd (h : DW) : Use := { h := h, write := false, leaf := true }
def Use.wr (h : DW) : Use := { h := h, write := true, leaf := true }
/-- A read, and a write, by an engine or mover that reaches every tier itself. -/
def Use.rdAny (h : DW) : Use := { h := h, write := false, leaf := false }
def Use.wrAny (h : DW) : Use := { h := h, write := true, leaf := false }

/-- Advance a generation: 0xFF wraps to 0x01 (R29, R48, R78). -/
def genNext (g : Byte) : Byte := if g = 0xFF then 1 else g + 1

end Sys2Proof.Machine
end

