-- ==== Sys2Proof/Machine/Records.lean ====
section
/-! DEFINITION. Completion and event records, interrupts, and the accessors of contexts and descriptors (chapter 03,
R91–R95). -/

namespace Sys2Proof.Machine

/-! ## Accessors -/

/-- A context. -/
def Dev.ctx (d : Dev) (c : Nat) : Ctx := d.ctxs.getD c Ctx.reset
/-- Replace a context. -/
def Dev.setCtx (d : Dev) (c : Nat) (x : Ctx) : Dev := { d with ctxs := d.ctxs.setIfInBounds c x }
/-- Change a context. -/
def Dev.modCtx (d : Dev) (c : Nat) (f : Ctx → Ctx) : Dev := d.setCtx c (f (d.ctx c))
/-- The function of a context (R79). -/
def Dev.func (d : Dev) (c : Nat) : Nat := d.regF (0x1400 + 64 * c) 4 0
/-- A context on PF0 is of class OWNER (R79). -/
def Dev.owner (d : Dev) (c : Nat) : Bool := d.func c == 0
/-- Live at a generation (R78). -/
def Dev.live (d : Dev) (c : Nat) (g : Byte) : Bool := (d.ctx c).st == .opened && (d.ctx c).gen == g
/-- The function of a context is under reset: no request is issued to it (R105). -/
def Dev.silent (d : Dev) (c : Nat) : Bool := ((d.ctx c).tear.map (fun (t : Tear) => t.silent)).getD false
/-- The function may issue requests: a VF within NumVFs with VF Enable, and Bus Master Enable set (R80). -/
def Dev.funcOn (d : Dev) (f : Nat) : Bool :=
  (f == 0 || (d.pcie.vfEn && decide (f ≤ d.pcie.numVfs))) && d.pcie.bme.contains f
/-- The context that receives device-wide events. -/
def Dev.sysCtx (d : Dev) : Nat := d.regF 0x1000 13 8
/-- An accepted descriptor by id. -/
def Dev.desc? (d : Dev) (id : Nat) : Option Desc := d.descs.find? (fun x => x.id == id)
/-- Change an accepted descriptor. -/
def Dev.modDesc (d : Dev) (id : Nat) (f : Desc → Desc) : Dev := { d with descs := mapIf (fun x => x.id == id) f d.descs }

/-! ## Interrupts (R95) -/

/-- A vector after reset: masked, as the MSI-X mechanism resets it (log 3). -/
def Vec.reset : Vec := { masked := true, pending := false, window := none }

/-- Send a vector's message now, or set its pending bit while it is masked. -/
def Dev.sendVec (d : Dev) (f v : Nat) : Dev :=
  let x := Tab.getD d.vecs (64 * f + v) Vec.reset
  if x.masked then { d with vecs := Tab.put Vec.reset d.vecs (64 * f + v) { x with pending := true, window := none } }
  else { d with vecs := Tab.put Vec.reset d.vecs (64 * f + v) { x with window := none } }.emitOut (.msix f v)

/-- A record of context `c` raises a vector of its function: at once, or at the end of the coalescing window that the
first record opens (R95). A context with COALESCE_US = 0 sends at once on a vector whose window another context has opened, which
closes it (DESIGN CHOICE, log 89). -/
def Dev.raiseVec (d : Dev) (c v : Nat) : Dev :=
  let k := d.regF (0x1408 + 64 * c) 23 16
  let f := d.func c
  if k = 0 then d.sendVec f v
  else
    let x := Tab.getD d.vecs (64 * f + v) Vec.reset
    match x.window with
    | some _ => d
    | none => { d with vecs := Tab.put Vec.reset d.vecs (64 * f + v) { x with window := some (d.now + k * 1000) } }

/-! ## Records (R91, R94) -/

/-- The last word of record `n` of a ring: PHASE and SEQ (R91). -/
def recWord7 (n : DW) (size : Nat) : DW := dwN ((1 - n.toNat / size % 2) + 2 * (n.toNat % 2 ^ 31))

/-- An event: code, TAG, related unit, related context, detail, and the time where it is not the present. -/
structure Ev where
  code : Nat
  tag  : BitVec 16 := 0
  unit : Nat := 0
  ctx  : Option Nat := none
  d4   : DW := 0
  d5   : DW := 0
  d6   : DW := 0
  time : Option Nat := none

/-- The codes that go to the system event ring although they name a context: HST_CTX_OPENED, HST_CTX_TORN_DOWN,
HST_DMA_FAULT, FLT_GUILTY, FLT_ECC_UE (R94). -/
def Ev.toSys (e : Ev) : Bool := [0x01, 0x02, 0x04, 0xC5, 0xC1].contains e.code

/-- The context whose event ring takes an event (R94). -/
def Dev.evDest (d : Dev) (e : Ev) : Nat :=
  match e.ctx with
  | some c => if e.toSys then d.sysCtx else c
  | none => d.sysCtx

/-- The 32 bytes of an event record. -/
def Ev.bytes (e : Ev) (now : Nat) (w7 : DW) : Bytes :=
  leWords [dwN (e.code + e.tag.toNat * 2 ^ 16), dwN (e.unit % 2 ^ 24 + (e.ctx.getD 0) * 2 ^ 24),
    dwN (e.time.getD now), dwN ((e.time.getD now) / 2 ^ 32), e.d4, e.d5, e.d6, w7]

/-- Raise an event: one record in its ring, or dropped and counted (R94). -/
def Dev.event (d : Dev) (e : Ev) : Dev :=
  let c := d.evDest e
  let x := d.ctx c
  if x.st ≠ .opened then d.count cEvtDrop
  else if (x.eqTail - x.eqHead).toNat ≥ x.eqSize then
    let off := cEvtLostLo + 4 * (c / 32)
    (d.count cEvtDrop).setOwn off (d.own off ||| dwN (2 ^ (c % 32)))
  else
    let a := x.eqBase + 32 * (x.eqTail.toNat % x.eqSize)
    let d := { d with host := Mem.write d.host a (e.bytes d.now (recWord7 x.eqTail x.eqSize)) }
    (d.setCtx c { x with eqTail := x.eqTail + 1 }).raiseVec c (d.regF (0x1408 + 64 * c) 13 8)

/-- Several events in order. -/
def Dev.events (d : Dev) (l : List Ev) : Dev := l.foldl Dev.event d

/-- What a completion carries beside its descriptor's words. -/
structure Fin_ where
  st    : Status
  flags : BitVec 16 := 0
  shrink : Nat := 0
  r4    : DW := 0
  r5    : DW := 0
  /-- when it finished, where that is not the present (R41) -/
  finish : Option Nat := none

/-- NOP, CTX_OPEN and CTX_TEARDOWN have no target (R89). -/
def noTarget (opc : Nat) : Bool := opc == 0x00 || opc == 0x03 || opc == 0x04

/-- UNIT of a completion record: KIND and INDEX of the target; zero for opcodes without one, and for a target of the reserved kind 0xF,
which the device never produces (R8, DESIGN CHOICE, log 82). -/
def compUnit (w : DescWords) : Nat := if noTarget w.opc ∨ uKind w.target = 0xF then 0 else w.target % 2 ^ 16

/-- The 32 bytes of a completion record but its last word. -/
def compHead (w : DescWords) (r : Fin_) (finish : Nat) : List DW :=
  [dwN (r.st.code + r.shrink * 2 ^ 8 + w.tag.toNat * 2 ^ 16), dwN (r.flags.toNat + compUnit w * 2 ^ 16),
    dwN finish, dwN (finish / 2 ^ 32), r.r4, r.r5, lateness finish w.deadline]

/-- Write one completion record of a context (R91–R93) and raise its interrupt; nothing while the context is CLOSED or
under a function level reset (R105). `owed` falls by one. -/
def Dev.complete (d : Dev) (c : Nat) (w : DescWords) (r : Fin_) : Dev :=
  let x := d.ctx c
  let d := if r.st = .refusedPort then d.count cRefusePort else d
  if x.st = .closed then d
  else if d.silent c then d.setCtx c { x with owed := x.owed - 1 }
  else
    let a := x.cqBase + 32 * (x.cqTail.toNat % x.cqSize)
    let b := leWords (compHead w r (r.finish.getD d.now) ++ [recWord7 x.cqTail x.cqSize])
    let d := { d with host := Mem.write d.host a b }
    let d := d.setCtx c { x with cqTail := x.cqTail + 1, owed := x.owed - 1 }
    if w.irqOnDone then d.raiseVec c (d.regF (0x1408 + 64 * c) 5 0) else d

/-- IRQ_COALESCE_EXPIRY (R95): the window of a vector has ended; one message is sent for all its records. -/
def irqCoalesceExpiry (f v : Nat) (d : Dev) : Dev :=
  let x := Tab.getD d.vecs (64 * f + v) Vec.reset
  match x.window with
  | some t => if t ≤ d.now then d.sendVec f v else d
  | none => d

/-- MSIX_VECTOR_UNMASK (R95): the vector is unmasked and a pending message is sent. -/
def msixVectorUnmask (f v : Nat) (d : Dev) : Dev :=
  let x := Tab.getD d.vecs (64 * f + v) Vec.reset
  let d := { d with vecs := Tab.put Vec.reset d.vecs (64 * f + v) { x with masked := false, pending := false } }
  if x.pending then d.emitOut (.msix f v) else d

end Sys2Proof.Machine
end

