-- ==== Sys2Proof/Machine/Regions.lean ====
section
/-! DEFINITION. The regions of a map as bytes: ledger entries, nodes, UPPER rows, vectors and codebooks at their slots
(chapter 11, layout tables). -/

namespace Sys2Proof.Machine

/-- An entry as its 32 bytes. -/
def LEntry.bytes (x : LEntry) : Bytes := le64 x.key ++ toLe x.ins 4 ++ toLe x.del 4 ++ toLe x.pay.toNat 16
/-- An EMPTY slot (R272). -/
def emptySlot : Bytes := List.replicate 8 0xFF ++ List.replicate 24 0
/-- The entry in 32 bytes, none for EMPTY. -/
def LEntry.parse (b : Bytes) : Option LEntry :=
  if b = emptySlot then none
  else some { key := BitVec.ofNat 64 (bnat b 0 8), ins := bnat b 8 4, del := bnat b 12 4, pay := BitVec.ofNat 128 (bnat b 16 16) }

/-- Element bytes. -/
def MIdx.eb (x : MIdx) : Nat := if x.s16 then 2 else 1
/-- The stride of a vector. -/
def MIdx.stride (x : MIdx) : Nat := alignUp (x.dim * x.eb) 64
/-- NS, the bytes of a node record. -/
def MIdx.ns (x : MIdx) : Nat := alignUp (144 + x.m) 64

/-- Bytes of a codebook. -/
def MIdx.bookLen (x : MIdx) : Nat := x.m * 256 * (x.dim / x.m) * x.eb

/-- A record that is a node: one that has a generation and an interval. Another is what a resync has written of a slot so far. -/
def Node.real (n : Node) : Bool := n.gen != 0 && !(n.ins == 0 && n.del == 0)

/-- A slot of NODES and VECS before anything is written to it. -/
def MIdx.blank (x : MIdx) : Node :=
  { adj := List.replicate 32 0, ins := 0, del := 0, label := 0, level := 0, gen := 0, upper := 0, codes := List.replicate x.m 0,
    vec := List.replicate x.stride 0 }

/-- A byte of a slot that holds no node: zero where none ever was (MAP_CREATE), open after its node was freed (R290, log 60). -/
def MIdx.restByte (x : MIdx) (s k : Nat) : Byte :=
  match Tab.get? x.gens s with
  | none => 0
  | some g => Config.openByte [s, g] k

/-- A node record; a slot whose node was freed keeps its generation, and an interval in which nothing lives (log 60). -/
def MIdx.nodeBytes (x : MIdx) (s : Nat) : Bytes :=
  match Tab.get? x.nodes s with
  | some n => bslice (leWords n.adj ++ toLe n.ins 4 ++ toLe n.del 4 ++ le32 n.label ++ toLe (n.level + 8 * n.gen) 1 ++
      toLe n.upper 3 ++ n.codes.map (BitVec.ofNat 8)) 0 x.ns
  | none =>
    (List.range x.ns).map (fun k =>
      if 128 ≤ k ∧ k < 136 then 0 else if k = 140 then BitVec.ofNat 8 (8 * Tab.getD x.gens s 0 + (x.restByte s k).toNat % 8)
      else x.restByte s k)

/-- A row of UPPER; one whose node was freed is listed empty, and its bytes are open (log 60). -/
def MIdx.upperBytes (x : MIdx) (s : Nat) : Bytes :=
  match Tab.get? x.upper s with
  | none => List.replicate 128 0
  | some [] => (List.range 128).map (Config.openByte [s])
  | some l => leWords l

/-- The vector of a slot. -/
def MIdx.vecBytes (x : MIdx) (s : Nat) : Bytes :=
  match Tab.get? x.nodes s with
  | some n => bslice n.vec 0 x.stride
  | none => (List.range x.stride).map (fun k => x.restByte s (x.ns + k))

/-- The slot size of a region and the bytes of each slot; none for CACHE, whose layout is not given. -/
def MapSt.slots (m : MapSt) (h : DW) : Option (Nat × (Nat → Bytes)) :=
  let led (t : Tab LEntry) : Nat × (Nat → Bytes) := (32, fun s => ((Tab.get? t s).map LEntry.bytes).getD emptySlot)
  if h = m.hBody then some (led m.body)
  else if h = m.hOvf then some (led m.ovf)
  else m.idx.findSome? (fun x =>
    if h = x.hCb then some (64, fun s => bslice x.book (64 * s) 64)
    else if h = x.hNodes then some (x.ns, x.nodeBytes)
    else if h = x.hUpper then some (128, x.upperBytes)
    else if h = x.hVecs then some (x.stride, x.vecBytes)
    else none)

/-- Handles of every region. -/
def MapSt.regions (m : MapSt) : List DW :=
  [m.hBody, m.hOvf] ++ (if m.hCache = 0 then [] else [m.hCache]) ++
    m.idx.flatMap (fun x => [x.hCb, x.hNodes, x.hUpper, x.hVecs])

/-- Bytes of a region. -/
def MapSt.regionRead (m : MapSt) (h : DW) (off n : Nat) : Option Bytes :=
  (m.slots h).map (fun p =>
    let k := off / p.1
    bslice (((List.range (cdiv (off + n) p.1 - k)).map (fun j => p.2 (k + j))).flatten) (off - k * p.1) n)

/-- A slot with nothing in it is not listed. -/
def MIdx.setNode (x : MIdx) (s : Nat) (n : Node) : MIdx :=
  { x with
    nodes := if n = x.blank then Tab.del x.nodes s else Tab.set x.nodes s n
    freed := if n.real then x.freed.filter (· ≠ s)
      else if (Tab.get? x.gens s).isSome ∧ ¬ x.freed.contains s then x.freed.filter (· < s) ++ s :: x.freed.filter (s < ·) else x.freed }

/-- A node record stored in a slot, its vector as it is. -/
def MIdx.putNode (x : MIdx) (s : Nat) (b : Bytes) : MIdx :=
  let gen := bnat b 140 1 / 8
  let n : Node :=
    { adj := (List.range 32).map (bw b), ins := bnat b 128 4, del := bnat b 132 4, label := bw b 34, level := bnat b 140 1 % 8,
      gen := gen, upper := bnat b 141 3, codes := (List.range x.m).map (fun k => bnat b (144 + k) 1), vec := x.vecBytes s }
  { x with gens := if gen = 0 then x.gens else Tab.set x.gens s gen }.setNode s n

/-- A vector stored in a slot, its record as it is. -/
def MIdx.putVec (x : MIdx) (s : Nat) (b : Bytes) : MIdx :=
  match Tab.get? x.nodes s with
  | some n => x.setNode s { n with vec := b }
  | none => let y := x.putNode s (x.nodeBytes s); y.setNode s { (Tab.getD y.nodes s x.blank) with vec := b }

/-- Replace a slot of a region. -/
def MapSt.putSlot (m : MapSt) (h : DW) (s : Nat) (b : Bytes) : MapSt :=
  let led (t : Tab LEntry) : Tab LEntry := match LEntry.parse b with
    | some x => Tab.set t s x
    | none => Tab.del t s
  if h = m.hBody then { m with body := led m.body }
  else if h = m.hOvf then { m with ovf := led m.ovf }
  else
    { m with idx := m.idx.map (fun x =>
      if h = x.hCb then { x with book := bslice (x.book.take (64 * s) ++ b ++ x.book.drop (64 * s + 64)) 0 x.book.length }
      else if h = x.hNodes then x.putNode s b
      else if h = x.hUpper then { x with upper := Tab.set x.upper s ((List.range 32).map (bw b)) }
      else if h = x.hVecs then
        x.putVec s b
      else x) }

/-- Bytes written into a region, slot by slot. -/
def MapSt.regionWrite (m : MapSt) (h : DW) (off : Nat) (b : Bytes) : MapSt :=
  match m.slots h with
  | none => m
  | some (sz, get) =>
    let k := off / sz
    (List.range (cdiv (off + b.length) sz - k)).foldl (fun m j =>
      let o := (k + j) * sz
      let old := get (k + j)
      let new := (List.range sz).map (fun i => if off ≤ o + i ∧ o + i < off + b.length then b.getD (o + i - off) 0 else old.getD i 0)
      m.putSlot h (k + j) new) m

/-- Index `i` of a create block, empty. -/
def createIdx (b : Bytes) (i : Nat) : MIdx :=
  let w (k : Nat) : DW := bw b (16 + 16 * i + k)
  { dim := bits (w 0) 10 0, m := bits (w 0) 18 11, s16 := bitOf (w 0) 19, metric := bits (w 0) 21 20, efBuild := bits (w 1) 10 0,
    maxNodes := bits (w 2) 27 0, seed := w 3, hCb := w 4, hNodes := w 5, hUpper := w 6, hVecs := w 7, wrote := [], book := [], nodes := [],
    gens := [], freed := [], upper := [], entry := 0, prev := 0 }

/-! ## The header of a map -/

/-- Bytes of a header that hold something: the create block, and the line after it. -/
abbrev headLen := 384

/-- What a header holds behind the create block, where the spec gives it no layout (log 106): C, F, then ENTRY and PREV_ENTRY of each index. -/
def MapSt.headTail (m : MapSt) : Bytes :=
  bslice (toLe m.c 4 ++ toLe m.f 4 ++ m.idx.flatMap (fun x => le32 x.entry ++ le32 x.prev)) 0 64

/-- An index with the words of a create block, and ENTRY and PREV_ENTRY of a header. -/
def MIdx.ofHeader (x : MIdx) (i : Nat) (b : Bytes) : MIdx :=
  let y := createIdx b i
  { y with book := x.book, nodes := x.nodes, gens := x.gens, freed := x.freed, upper := x.upper, entry := bw b (82 + 2 * i),
           prev := bw b (83 + 2 * i) }

/-- A map as its header describes it, its tables as they were. -/
def MapSt.ofHeader (m : MapSt) (b : Bytes) : MapSt :=
  { m with create := b.take 320, log2 := bits (bw b 1) 4 0, seed := bw b 2, vox0 := bits (bw b 3) 15 0, hBody := bw b 4, hOvf := bw b 5,
           hCache := bw b 6, c := bnat b 320 4, f := bnat b 324 4, idx := m.idx.zipIdx.map (fun p => p.1.ofHeader p.2 b) }

/-- The map and region a sheet index belongs to. -/
def Dev.regionOf (d : Dev) (i : Nat) : Option (Nat × DW × MapSt) :=
  d.maps.findSome? (fun p => (p.2.regions.find? (fun h => shIdx h == i)).map (fun h => (p.1, h, p.2)))

/-- Every region but CACHE with its bytes (region table): what MAP_CREATE writes. -/
def MapSt.extents (m : MapSt) : List (DW × Nat × Nat) :=
  [(m.hBody, 0, 2 ^ m.log2 * 128), (m.hOvf, 0, 2 ^ 25)] ++
    m.idx.flatMap (fun x => [(x.hCb, 0, x.bookLen), (x.hNodes, 0, x.maxNodes * x.ns), (x.hUpper, 0, cdiv x.maxNodes 8 * 128),
      (x.hVecs, 0, x.maxNodes * x.stride)])

/-- Slots written since they were last marked, as byte ranges. -/
def MapSt.written (m : MapSt) : List (DW × Nat × Nat) :=
  (m.wrote ++ m.idx.flatMap (·.wrote)).filterMap (fun p => (m.slots p.1).map (fun s => (p.1, p.2 * s.1, s.1)))

/-- The map with nothing left to mark. -/
def MapSt.marked (m : MapSt) : MapSt := { m with wrote := [], idx := m.idx.map (fun x => { x with wrote := [] }) }

/-- Slots that differ between two states of a map, as byte ranges; freeing a node writes nothing (log 60). -/
def MapSt.diff (a b : MapSt) : List (DW × Nat × Nat) :=
  let keys {α : Type} (s t : Tab α) : List Nat := s.map (·.1) ++ t.map (·.1)
  let part (h : DW) (ks : List Nat) : List (DW × Nat × Nat) :=
    match a.slots h, b.slots h with
    | some (sz, f), some (_, g) => (ks.filter (fun k => f k != g k)).map (fun k => (h, k * sz, sz))
    | _, _ => []
  part b.hBody (keys a.body b.body) ++ part b.hOvf (keys a.ovf b.ovf) ++
    (a.idx.zip b.idx).flatMap (fun p => part p.2.hNodes (p.2.nodes.map (·.1)) ++
      part p.2.hUpper ((p.2.upper.filter (fun r => !r.2.isEmpty)).map (·.1)) ++ part p.2.hVecs (p.2.nodes.map (·.1)))

end Sys2Proof.Machine
end

