-- ==== Sys2Proof/Machine/Sheets.lean ====
section
/-! DEFINITION. Sheets: handles and access (R48–R50), space and charges (R46, R52, R64, R73), the request queue and writer
token of a sheet (R54–R58), and reading and writing sheet content with its integrity code (R331–R333). -/

namespace Sys2Proof.Machine

/-! ## Lookup and access -/

/-- The record of an index nothing has written: free, or the arrival log of a sensor (chapter 04, Landing). -/
def sheetAt (i : Nat) : Sheet :=
  if 0x3FFF00 ≤ i ∧ i < 0x400000 ∧ knownSensor (i - 0x3FFF00) then
    { Sheet.reset with live := true, access := 2, size := 65536 }
  else Sheet.reset

/-- The sheet record of an index, free or live. -/
def Dev.sheet (d : Dev) (i : Nat) : Sheet := Tab.getD d.sheets i (sheetAt i)
/-- Replace a sheet record. -/
def Dev.setSheet (d : Dev) (i : Nat) (s : Sheet) : Dev := { d with sheets := Tab.put (sheetAt i) d.sheets i s }
/-- Change a sheet record. -/
def Dev.modSheet (d : Dev) (i : Nat) (f : Sheet → Sheet) : Dev := d.setSheet i (f (d.sheet i))

/-- The sheet a handle names: live, current generation, recorded tier. -/
def Dev.sheetOf (d : Dev) (h : DW) : Option Sheet :=
  let s := d.sheet (shIdx h)
  if s.live ∧ ¬ s.freeing ∧ s.gen.toNat = shGen h ∧ s.tier = shTier h then some s else none

/-- Landing sheets and arrival logs have indices 0x3F0000–0x3FFFFF and belong to the sensor ports (R51, R113). -/
def isLanding (i : Nat) : Bool := decide (0x3F0000 ≤ i)

/-- Context `c` may read the sheet (R50). -/
def Dev.mayRead (d : Dev) (c i : Nat) (s : Sheet) : Bool :=
  isLanding i || s.access == 2 || (s.ctx == c && s.ctxGen == (d.ctx c).gen) ||
    (s.access == 1 && d.func s.ctx == d.func c)

/-- Context `c` may write the sheet: its owner only (R50). -/
def Dev.mayWrite (d : Dev) (c i : Nat) (s : Sheet) : Bool :=
  !isLanding i && s.ctx == c && s.ctxGen == (d.ctx c).gen

/-- Items 1 and 2 of R49. -/
def Dev.handleStatus (d : Dev) (h : DW) : Option Status :=
  if shTier h = 2 ∧ d.board.variant = .bl6440 then some .refusedUnitAbsent
  else if (d.sheetOf h).isNone then some .refusedMalformed else none

/-- A sheet no descriptor names as an ordinary input or output: a registered plough log (R162), a region of a live map (R266). -/
def Dev.setApart (d : Dev) (h : DW) : Bool :=
  d.plg.logs.toList.any (fun l => l.live && l.sheet == h) || d.maps.any (fun p => p.2.regions.contains h)

/-- The checks of R49 on a sheet an operation of context `c` uses; `also` is a second context whose ownership of an
output counts (R61). -/
def Dev.useStatus (d : Dev) (c : Nat) (also : Option Nat) (u : Use) : Option Status :=
  match d.handleStatus u.h with
  | some st => some st
  | none =>
    let i := shIdx u.h
    let s := d.sheet i
    let ok := if u.write then d.mayWrite c i s || (also.map (fun o => d.mayWrite o i s)).getD false
      else d.mayRead c i s
    if !ok then some .refusedPort
    else if d.setApart u.h then some .refusedMalformed
    -- a T2–T4 output of a leaf that reaches T1 only (R43)
    else if u.write && u.leaf && s.tier != 0 then some .refusedMalformed
    else none

/-! ## Space and charges -/

/-- Granule of a tier in bytes: 4 KiB in T1, 64 KiB in T2 and T3. -/
def granule (tier : Nat) : Nat := if tier = 0 then 4096 else 65536

/-- Charge in granules of a size in a tier; T4 is not charged (R51). -/
def chargeOf (tier size : Nat) : Nat := if tier ≥ 3 then 0 else cdiv size (granule tier)

/-- Charge of a sheet in granules. -/
def Sheet.charge (s : Sheet) : Nat := chargeOf s.tier s.size

/-- T1 in MiB, T2 in GiB (variant table). -/
def t1Mib (v : Variant) : Nat := if v = .bl6440 then 96 else 192
def t2Gib (v : Variant) : Nat := if v = .bl6440 then 8 else 16

/-- Sheets counted by tier: live ones of that tier outside the sensor pool. -/
def Dev.homes (d : Dev) (tier : Nat) : List (Nat × Sheet) :=
  d.sheets.filter (fun p => p.2.live && p.2.tier == tier && !isLanding p.1)

/-- Sum over a list. -/
def sumBy {α : Type} (f : α → Nat) (l : List α) : Nat := l.foldl (fun n a => n + f a) 0

/-- Granules of a tier held by copies in any state, in granules. -/
def Dev.copySpace (d : Dev) (tier : Nat) : Nat :=
  sumBy (fun p => if p.2.tier = tier ∧ p.2.st ≠ .waiting then chargeOf tier p.2.charge else 0) d.copies

/-- Size of a tier in granules available to sheets and copies; T1 less the sensor pool (R73), T3 8/9 of installed. -/
def Dev.tierSize (d : Dev) (tier : Nat) : Nat :=
  if tier = 0 then t1Mib d.board.variant * 256 - d.regF 0x300C 7 0 * 256
  else if tier = 1 then t2Gib d.board.variant * 16384
  else if d.board.variant = .bl6440 then 0
  else d.board.t3Gib * 2 ^ 30 * 8 / 9 / 65536

/-- Free granules of a tier, as SPN_T1_FREE to SPN_T3_FREE report. -/
def Dev.tierFree (d : Dev) (tier : Nat) : Nat :=
  d.tierSize tier - (sumBy (fun p => p.2.charge) (d.homes tier) + d.copySpace tier)

/-- Channels of a channel group (chapter 02); group 11 is CGS. -/
def groupChans (v : Variant) (g : Nat) : List Nat :=
  match v with
  | .bl6440 =>
    if g < 4 then (List.range 6).map (· + 6 * g) else if 8 ≤ g ∧ g ≤ 10 then (List.range 2).map (· + 24 + 2 * (g - 8))
    else if g = 11 then [30, 31] else []
  | _ =>
    if g < v.quires then (List.range 6).map (· + 6 * g)
    else if 8 ≤ g ∧ g ≤ 10 then (List.range 4).map (· + 48 + 4 * (g - 8))
    else if g = 11 then (if v = .bl6460 then (List.range 12).map (· + 36) else []) ++ [60, 61, 62, 63] else []

/-- All channels of the variant. -/
def chanCount (v : Variant) : Nat := if v = .bl6440 then 32 else 64

/-- 4 KiB units of a size interleaved over all channels that fall on the channels of a list (R46). -/
def allShare (v : Variant) (chans : List Nat) (charge64k : Nat) : Nat :=
  let u := charge64k * 16
  sumBy (fun j => (u + chanCount v - 1 - j) / chanCount v) chans

/-- Free 4 KiB units of a channel group: its capacity less PRIVATE or CGS sheets in it and its share of every ALL sheet
and of copies in T2 (R46). -/
def Dev.groupFree (d : Dev) (g : Nat) : Nat :=
  let ch := groupChans d.board.variant g
  let used := sumBy (fun p =>
    let s := p.2
    if (s.place = 0 ∧ s.part = g) ∨ (s.place = 1 ∧ g = 11) then s.charge * 16
    else if s.place = 2 then allShare d.board.variant ch s.charge else 0) (d.homes 1)
  let cp := sumBy (fun p => if p.2.tier = 1 ∧ p.2.st ≠ .waiting
    then allShare d.board.variant ch (chargeOf 1 p.2.charge) else 0) d.copies
  ch.length * 65536 - (used + cp)

/-- Every channel group of the variant. -/
def groupsOf (v : Variant) : List Nat := (List.range v.quires) ++ [8, 9, 10, 11]

/-- A T2 placement of some granules fits (R46). -/
def Dev.t2Fits (d : Dev) (place part charge : Nat) : Bool :=
  if place = 0 then decide (charge * 16 ≤ d.groupFree part)
  else if place = 1 then decide (charge * 16 ≤ d.groupFree 11)
  else (groupsOf d.board.variant).all (fun g =>
    decide (allShare d.board.variant (groupChans d.board.variant g) charge ≤ d.groupFree g))

/-- A context's charge in a tier, in granules: its home sheets and the copies it owns (R64). -/
def Dev.useOf (d : Dev) (c tier : Nat) : Nat :=
  sumBy (fun p => if p.2.ctx = c then p.2.charge else 0) (d.homes tier) +
    sumBy (fun p => if p.2.owner = some c ∧ p.2.tier = tier ∧ p.2.st ≠ .waiting then chargeOf tier p.2.charge else 0)
      d.copies

/-- A context's quota in a tier, in granules. -/
def Dev.quota (d : Dev) (c tier : Nat) : Nat :=
  if tier ≥ 3 then 0 else (d.reg (0x3100 + 16 * c + 4 * tier)).toNat

/-- The lowest index not live (R48), below the landing indices. -/
def lowestFree : Tab Sheet → Nat → Nat
  | [], n => n
  | (i, s) :: t, n => if n < i then n else if s.live then lowestFree t (i + 1) else n

/-! ## Content -/

/-- Where byte A of usable T3 lies in LPDDR5X (R330): group A / 64 takes 72 bytes, its eight data words first. -/
def t3Data (a : Nat) : Nat := 72 * (a / 64) + a % 64
/-- Where the check bits of the data word that holds byte A lie: byte i of the group's check word for its word i. -/
def t3Check (a : Nat) : Nat := 72 * (a / 64) + 64 + a % 64 / 8

/-- Raw bytes of a sheet; a T4 sheet's content is host memory, a map region's is the map's. Nothing is read from a function under reset: the
bytes are open (R105, DEDUCED, log 92). -/
def Dev.rawRead (d : Dev) (i off n : Nat) : Bytes :=
  let s := d.sheet i
  match (d.regionOf i).bind (fun p => p.2.2.regionRead p.2.1 off n) with
  | some b => b
  | none =>
    if s.tier ≠ 3 then Mem.read s.cells off n
    else if d.silent s.ctx then (List.range n).map (fun k => Config.openByte [i] (off + k))
    else Mem.read d.host (s.host + off) n

/-- Drop the syndromes of the words a write covers. -/
def syndDrop (t : Tab Byte) (off n : Nat) : Tab Byte := t.filter (fun p => !(decide (off / 8 ≤ p.1 ∧ p.1 * 8 < off + n)))

/-- Write bytes into a sheet; words written are encoded afresh (R331). Nothing is written into a function under reset (R105). -/
def Dev.rawWrite (d : Dev) (i off : Nat) (b : Bytes) : Dev :=
  let s := d.sheet i
  if s.tier = 3 then (if d.silent s.ctx then d else { d with host := Mem.write d.host (s.host + off) b })
  else d.setSheet i { s with cells := Mem.write s.cells off b, synd := syndDrop s.synd off b.length }

/-- The copy through which a descriptor reads a home sheet, if it reads one (R65). -/
def Dev.viaCopy (d : Dev) (x : Desc) (i : Nat) : Option Copy :=
  match x.copies.find? (fun p => p.1 == i) with
  | some (_, k) => Tab.get? d.copies k
  | none => none

/-- Stored bytes a descriptor reads from a sheet, through its copy where it has one. -/
def Dev.view (d : Dev) (x : Desc) (h : DW) (off n : Nat) : Bytes :=
  match d.viaCopy x (shIdx h) with
  | some c => Mem.read c.cells off n
  | none => d.rawRead (shIdx h) off n

/-- Syndromes of the words a descriptor reads from a sheet. -/
def Dev.viewSynd (d : Dev) (x : Desc) (h : DW) : Tab Byte :=
  match d.viaCopy x (shIdx h) with
  | some c => c.synd
  | none => (d.sheet (shIdx h)).synd

/-- Stored bytes with the words that decode CORRECTED put right (R329, R332). -/
def eccFix (synd : Tab Byte) (raw : Nat → Nat → Bytes) (off n : Nat) : Bytes :=
  synd.foldl (fun b p =>
    if decide (off / 8 ≤ p.1) && decide (p.1 * 8 < off + n) then
      let w : QW := BitVec.ofNat 64 (leNat (raw (p.1 * 8) 8))
      let w' := (eccSynd w p.2).2
      if w' = w then b
      else
        let t := le64 w'
        (List.range b.length).map (fun k =>
          let a := off + k
          if a / 8 = p.1 then t.getD (a % 8) 0 else b.getD k 0)
    else b) (raw off n)

/-- The bytes a consumer uses: corrected words corrected, others as stored (R332, R333). -/
def Dev.rd (d : Dev) (x : Desc) (h : DW) (off n : Nat) : Bytes := eccFix (d.viewSynd x h) (d.view x h) off n

/-- Bytes read at fetch or acceptance, without a reader token. -/
def Dev.plainRead (d : Dev) (i off n : Nat) : Bytes := eccFix (d.sheet i).synd (d.rawRead i) off n

/-- A range of a sheet holds a word that cannot be used (R333). -/
def Dev.badIn (d : Dev) (i off n : Nat) : Bool :=
  (d.sheet i).synd.any (fun p => decide (off / 8 ≤ p.1) && decide (p.1 * 8 < off + n) &&
    (match (eccSynd 0 p.2).1 with
      | .poison | .uncorrectable => true
      | _ => false))

/-- Word `k` of a sheet as a descriptor reads it. -/
def Dev.rdW (d : Dev) (x : Desc) (h : DW) (off : Nat) : DW := bw (d.rd x h off 4) 0

/-- Plain length of a ZERO-PACK stream from its header. -/
def zpLen (b : Bytes) : Nat := bnat b 4 4

/-- The length a reader sees: a copy's, the plain length of a ZERO-PACK home, or the size (R403). -/
def Dev.lenOf (d : Dev) (x : Desc) (h : DW) : Nat :=
  match d.viaCopy x (shIdx h) with
  | some c => c.size
  | none => (d.sheet (shIdx h)).size

/-! ## CRC mismatches (R337) -/

/-- A CRC unit found a mismatch: counted in all and for the unit, and reported while EVT_EN is set (R337). -/
def Dev.crcMismatch (d : Dev) (unit poly : Nat) (exp got : DW) (tag : BitVec 16 := 0) (target : Nat := 0) (c : Option Nat := none) : Dev :=
  let o := 0x16040 + 4 * unit
  let d := (d.count cCrcMismatch).count o (2 ^ 16)
  if bitOf (d.reg 0x16000) 0 then
    d.event { code := 0xD0, tag := tag, unit := target, ctx := c, d4 := dwN (unit + poly * 2 ^ 4), d5 := exp, d6 := got }
  else d

/-! ## Requests (R54) -/

/-- Count one more reader of the frame of a write that is still queued (R58). -/
def matchTo (w : Nat) (q : List Req) : List Req :=
  mapIf (fun r => r.write && r.desc == w) (fun r => { r with matched := r.matched + 1 }) q

/-- A sheet's queue after the acceptance of a read by a descriptor (R54 item 1, R55): it is matched to the latest write accepted
before it, doomed where that write has already failed. A reader beyond MAX_READERS of a ribbon's frame waits for the next one
(R58). -/
def Sheet.addRead (s : Sheet) (id : Nat) : Sheet :=
  let put (s : Sheet) (st : ReqSt) : Sheet := { s with q := s.q ++ [{ desc := id, write := false, st := st, matched := 0 }] }
  let full (n : Nat) : Bool := s.ribbon && decide (s.readers ≤ n)
  match (s.q.filter (·.write)).getLast? with
  | some w =>
    match w.st with
    | .doomed st => put s (.doomed st.passed)
    | _ => if full w.matched then put s .onFirst else put { s with q := matchTo w.desc s.q } (.onWrite w.desc)
  | none =>
    match s.tok with
    | .set => if full s.matched then put s .onFirst else put { s with matched := s.matched + 1 } .ready
    | .void => put s (.doomed s.void.passed)
    | _ => put s .onFirst

/-- Match reads that wait for a first write to it, at most some of them: how many, and the queue. -/
def matchFirst (id : Nat) : Nat → List Req → Nat × List Req
  | _, [] => (0, [])
  | 0, l => (0, l)
  | n + 1, r :: t =>
    if r.st = .onFirst then
      let m := matchFirst id n t
      (m.1 + 1, { r with st := .onWrite id } :: m.2)
    else
      let m := matchFirst id (n + 1) t
      (m.1, r :: m.2)

/-- A sheet's queue after the acceptance of a write: reads that wait for the first later write are matched to it, on a
ribbon as many as its frame takes. -/
def Sheet.addWrite (s : Sheet) (id : Nat) : Sheet :=
  let m := matchFirst id (if s.ribbon then s.readers else s.q.length) s.q
  { s with q := m.2 ++ [{ desc := id, write := true, st := .ready, matched := m.1 }] }

/-- A write is grantable: nothing stands before it but reads matched to it or to a later frame (R54 item 3). -/
def writeFree (id : Nat) : List Req → Bool
  | [] => false
  | r :: t => if r.desc = id ∧ r.write then true else (r.st == .onWrite id || r.st == .onFirst) && writeFree id t

/-- The request of a descriptor on a sheet is grantable. A ribbon reader follows the writer of its frame row by row (R58). -/
def Sheet.grantable (s : Sheet) (r : Req) : Bool :=
  match r.st with
  | .ready => !r.write || (writeFree r.desc s.q && s.tok != .held)
  | .onWrite w => s.ribbon && s.q.any (fun x => x.write && x.desc == w && x.st == .granted)
  | _ => false

/-- Mark a request granted; a granted write makes the token HELD and starts a new frame. -/
def Sheet.grant (s : Sheet) (r : Req) : Sheet :=
  let s := { s with q := s.q.map (fun x => if x = r then { x with st := .granted } else x) }
  if r.write then { s with tok := .held, rowsDone := 0, rowRel := [] } else s

/-- The first grantable request in queue order. -/
def Sheet.nextGrant (s : Sheet) : Option Req := s.q.find? (fun r => s.grantable r)

/-- The first failed write of a queue that nothing before it holds back any more, and the queue without it. -/
def purgeQ : List Req → Option (Status × List Req)
  | [] => none
  | r :: t =>
    match r.write, r.st with
    | true, .doomed st => some (st, t)
    | true, _ => none
    | false, .ready => none
    | false, .granted => none
    | false, _ => (purgeQ t).map (fun p => (p.1, r :: p.2))

/-- A write that failed without being granted ends in its place: once every write before it has ended and every read of earlier
content has been released, the token is VOID with its status (R54, R55). -/
def Sheet.purge (s : Sheet) : Sheet :=
  iter (fun _ s => if s.tok = .held then s else
    match purgeQ s.q with
    | some (st, q) => { s with q := q, tok := .void, void := st }
    | none => s) s.q.length s

/-- A descriptor's requests leave a sheet's queue. When it held the write, the write ends with its status: SET with ROUND + 1, or VOID
with it, and reads matched to it become ready or doomed (R54 item 4, R55). A write that fails before it is granted dooms the reads
matched to it and stays in the queue until its place is reached. -/
def Sheet.release (s : Sheet) (id : Nat) (st : Status) : Sheet :=
  let others := s.q.filter (fun r => r.desc != id)
  match s.q.find? (fun r => r.desc == id && r.write) with
  | none => { s with q := others, rowRel := Tab.del s.rowRel id }.purge
  | some w =>
    let pass (ribbon : Bool) (l : List Req) : List Req := l.map (fun x => match x.st with
      | .onWrite k => if k = id then { x with st := if st.ok then .ready else .doomed st.passed } else x
      | .granted => if !x.write && ribbon && !st.ok then { x with st := .doomed st.passed } else x
      | _ => x)
    if w.st = .granted then
      let s := { s with q := pass s.ribbon others, matched := w.matched }
      (if st.ok then { s with tok := .set, round := s.round + 1, void := .done } else { s with tok := .void, void := st }).purge
    else if st.ok then { s with q := pass false others }.purge
    else
      { s with q := pass false (mapIf (fun r => r.desc == id) (fun r => { r with st := .doomed st })
          (s.q.filter (fun r => r.desc != id || r.write))) }.purge

/-- Indices of the sheets on which a descriptor has requests. -/
def Dev.sheetsOf (d : Dev) (id : Nat) : List Nat :=
  (d.sheets.filter (fun p => p.2.q.any (fun r => r.desc == id))).map (·.1)

/-- Release every request of a descriptor with its final status. -/
def Dev.releaseAll (d : Dev) (id : Nat) (st : Status) : Dev :=
  (d.sheetsOf id).foldl (fun d i => d.modSheet i (fun s => s.release id st)) d

/-- A descriptor's own requests are all granted; a doomed one gives its status. -/
def Dev.tokens (d : Dev) (id : Nat) : Option Status × Bool :=
  d.sheets.foldl (fun acc p => p.2.q.foldl (fun (a : Option Status × Bool) r =>
    if r.desc = id then
      match r.st with
      | .doomed st => (some ((a.1.map (Status.join st)).getD st), a.2)
      | .granted => a
      | _ => (a.1, false)
    else a) acc) (none, true)

end Sys2Proof.Machine
end

