-- ==== Sys2Proof/Machine/Gather.lean ====
section
/-! DEFINITION. Gatherings: the handle table (R14–R17), effective leaf sets and depth, units in service, and the cut of a
descriptor into parts (R36–R39); BIND and UNBIND's checks (R31, R32). -/

namespace Sys2Proof.Machine

/-- A gathering slot. -/
def Dev.gath (d : Dev) (i : Nat) : Gath := Tab.getD d.gaths i Gath.reset
/-- Replace a gathering slot. -/
def Dev.setGath (d : Dev) (i : Nat) (g : Gath) : Dev := { d with gaths := Tab.put Gath.reset d.gaths i g }

/-- Deepest nesting of handles: every slot once, then a built quire, folio and leaf. -/
abbrev nestFuel := 3590

/-- Handles of the members of a unit handle; a leaf has none. -/
def Dev.membersOf (d : Dev) (h : Nat) : List Nat :=
  let i := uIdx h
  if i < 0x200 then (builtMembers i).map (fun m => (kindOf m).getD 0 * 2 ^ 12 + m)
  else (d.gath i).members.map (·.toNat)

/-- Partition rule of a unit. -/
def Dev.ruleOf (d : Dev) (h : Nat) : Rule := if uIdx h < 0x200 then builtRule (uIdx h) else (d.gath (uIdx h)).rule

/-- The leaves a unit reaches, at any depth, present on the variant (effective leaf set). -/
def Dev.leavesOf (d : Dev) : Nat → Nat → List Nat
  | 0, _ => []
  | n + 1, h =>
    if uIdx h < 0x114 then (if present d.board.variant (uIdx h) then [uIdx h] else [])
    else (d.membersOf h).flatMap (fun m => d.leavesOf n m)

/-- The effective leaf set of a handle. -/
def Dev.leaves (d : Dev) (h : Nat) : List Nat := d.leavesOf nestFuel h

/-- Depth in dispatch hops (R42). -/
def Dev.depthOf (d : Dev) : Nat → Nat → Nat
  | 0, _ => 0
  | n + 1, h => if uIdx h < 0x114 then 0 else 1 + ((d.membersOf h).map (fun m => d.depthOf n m)).foldl Nat.max 0

/-- A handle is the gathering at an index or contains it. -/
def Dev.contains (d : Dev) (i : Nat) : Nat → Nat → Bool
  | 0, _ => false
  | n + 1, h => uIdx h == i || (decide (0x200 ≤ uIdx h) && (d.membersOf h).any (fun m => d.contains i n m))

/-- Every gathering inside a handle is bound at the generation its member word names (R16 item 3, R35). -/
def Dev.fresh? (d : Dev) : Nat → Nat → Bool
  | 0, _ => true
  | n + 1, h =>
    if uIdx h < 0x200 then uGen h == 0
    else
      let g := d.gath (uIdx h)
      g.bound && g.gen.toNat == uGen h && (d.membersOf h).all (fun m => d.fresh? n m)

/-- Items 1 and 2 of R16: index, kind and presence. -/
def Dev.handleForm (d : Dev) (h : Nat) : Option Status :=
  match kindOf (uIdx h) with
  | none => some .refusedMalformed
  | some k =>
    if k ≠ uKind h then some .refusedMalformed
    else if !present d.board.variant (uIdx h) then some .refusedUnitAbsent else none

/-- The checks of R16 on a target handle. -/
def Dev.checkTarget (d : Dev) (h : Nat) : Option Status :=
  match d.handleForm h with
  | some st => some st
  | none => if d.fresh? nestFuel h then none else some .bouncedRoleStale

/-- R17: a TENANT reaches only gatherings bound to a context of its own function. -/
def Dev.checkTenant (d : Dev) (c h : Nat) : Option Status :=
  if d.owner c then none
  else
    let g := d.gath (uIdx h)
    if uIdx h ≥ 0x200 ∧ g.bound ∧ d.func g.ctx = d.func c then none else some .refusedPort

/-! ## Service state of units -/

/-- State of a partition: 0 in service, 1 fenced, 2 in reset, 3 replaying, 4 out of service (FLT_PART). -/
def Dev.partState (d : Dev) (p : Nat) : Nat :=
  if d.flt.devOos then 4
  else if d.flt.volAt.isSome ∨ d.flt.restores.any (fun r => r.1 == p) then 2
  else if d.flt.partOos.contains p then 4
  else
    match (d.flt.incidents.findSome? (fun (i : Incident) => (i.parts.find? (fun q => q.1 == p)).map (·.2)) : Option PartPhase) with
    | some (.draining _) => 1
    | some .sampling => 1
    | some (.resetting _) => 2
    | some .ready => 3
    | none => 0

/-- Access to an ALL sheet stalls while any partition's channel group is in reset (R47). -/
def Dev.stalled (d : Dev) (i : Nat) : Bool :=
  let s := d.sheet i
  s.tier == 1 && s.place == 2 && (List.range 11).any (fun p => d.partState p == 2)

/-- The folio and the quire that contain a leaf. -/
def folioOf (leaf : Nat) : Nat :=
  if leaf < 0x100 then 0x120 + leaf / 4
  else if leaf < 0x108 then 0x160 + (leaf - 0x100) / 2
  else if leaf < 0x114 then 0x164 + (leaf - 0x108) / 2 else 0
/-- The quire of a leaf. -/
def quireOf (leaf : Nat) : Nat := 0x170 + partOf leaf

/-- A leaf is disabled in its own right or by a folio or quire that contains it (R101). -/
def Dev.leafOff (d : Dev) (l : Nat) : Bool :=
  d.disabled.contains l || d.disabled.contains (folioOf l) || d.disabled.contains (quireOf l)

/-- A leaf is in service for a cut; for a descriptor being replayed the partitions of its incident count (R36, R345). -/
def Dev.leafIn (d : Dev) (replay : List Nat) (l : Nat) : Bool :=
  let p := partOf l
  !d.leafOff l && (d.partState p == 0 || (replay.contains p && d.partState p == 3))

/-- The partition a leaf, folio or quire lies in. -/
def unitPart (i : Nat) : Option Nat :=
  if i < 0x114 then some (partOf i)
  else if 0x120 ≤ i ∧ i < 0x160 then some ((i - 0x120) / 8)
  else if 0x160 ≤ i ∧ i < 0x164 then some 8 else if 0x164 ≤ i ∧ i < 0x167 then some 9
  else if 0x167 ≤ i ∧ i < 0x16A then some 10
  else if 0x170 ≤ i ∧ i < 0x17B then some (i - 0x170) else none

/-- A target that is disabled, fenced or out of service refuses descriptors (R101, R341, R340, R349). -/
def Dev.targetOff (d : Dev) (h : Nat) : Bool :=
  let i := uIdx h
  d.flt.devOos || d.disabled.contains i ||
    (decide (i < 0x114) && d.leafOff i) ||
    (decide (0x120 ≤ i ∧ i < 0x16A) && ((builtMembers i).head?.map (fun l => d.disabled.contains (quireOf l))).getD false) ||
    ((unitPart i).map (fun p => d.partState p != 0)).getD false ||
    (decide (0x180 ≤ i ∧ i < 0x188) && (d.movers.getD (i - 0x180) Mover.reset).oos)

/-! ## The cut (R36–R39) -/

/-- An operation's extent and grain along a rule's axis, when it accepts that rule. -/
abbrev Axes := Rule → Option (Nat × Nat)

/-- An operation that accepts no rule: it runs whole on one leaf (R38). -/
def noAxes : Axes := fun _ => none
/-- An operation that accepts BATCH only. -/
def batchAxes (extent : Nat) : Axes := fun r => if r = .batch then some (extent, 1) else none

/-- REPLICATE is accepted by every operation that accepts a cutting rule (R39). -/
def replicates (ax : Axes) : Bool := (ax .batch).isSome || (ax .rows).isSome || (ax .channels).isSome

/-- The cut of an extent over `n` members: first and count of each (R36). -/
def cutExtent (e n grain : Nat) : List (Nat × Nat) :=
  let units := cdiv e grain
  let base := units / n
  let extra := units % n
  ((List.range n).foldl (fun (acc : Nat × List (Nat × Nat)) i =>
    let u := base + (if i < extra then 1 else 0)
    (acc.1 + u, acc.2 ++ [(acc.1 * grain, Nat.min (u * grain) (e - Nat.min e (acc.1 * grain)))])) (0, [])).2

/-- A leaf, the ranges it executes, and the REPLICATE gatherings that led to it. -/
structure Piece where
  leaf : Nat
  box  : Box
  reps : List RepStep := []
  deriving DecidableEq, Repr

/-- The range of a box a rule cuts. -/
def Box.along (b : Box) : Rule → Nat × Nat
  | .batch => b.batch | .rows => b.rows | .channels => b.channels | .replicate => (0, 1)

/-- A box with its range along a rule replaced. -/
def Box.cutTo (b : Box) (r : Rule) (p : Nat × Nat) : Box :=
  match r with
  | .batch => { b with batch := p } | .rows => { b with rows := p } | .channels => { b with channels := p } | .replicate => b

/-- The whole of an operation: its extent on every axis it can be cut on, 1 on the others. -/
def wholeBox (ax : Axes) : Box :=
  let f (r : Rule) : Nat × Nat := (0, ((ax r).map (·.1)).getD 1)
  { batch := f .batch, rows := f .rows, channels := f .channels }

/-- Leaves of a handle that hold the needed kind and are in service. -/
def Dev.ready (d : Dev) (replay : List Nat) (kind h : Nat) : Bool :=
  (d.leaves h).any (fun l => kindOf l == some kind && d.leafIn replay l)

/-- The parts a unit makes of a box: along its own rule it cuts the box's range over its members in service, each of which
cuts its part by its own rule (R36, R38, R39). -/
def Dev.pieces (d : Dev) (replay : List Nat) (kind : Nat) (ax : Axes) : Nat → Nat → Box → List Piece
  | 0, _, _ => []
  | n + 1, h, b =>
    if uIdx h < 0x114 then [{ leaf := uIdx h, box := b }]
    else
      let ms := (d.membersOf h).filter (fun m => d.ready replay kind m)
      match d.ruleOf h with
      | .replicate =>
        if replicates ax then ms.zipIdx.flatMap (fun m => (d.pieces replay kind ax n m.1 b).map (fun p =>
          { p with reps := { node := h, pos := m.2, member := m.1 } :: p.reps }))
        else (ms.take 1).flatMap (fun m => d.pieces replay kind ax n m b)
      | r =>
        match ax r with
        | some (_, g) =>
          let at_ := b.along r
          -- nothing to cut: the first member runs it, and finds nothing to do
          if at_.2 = 0 then (ms.take 1).flatMap (fun m => d.pieces replay kind ax n m b)
          else ((ms.zip (cutExtent at_.2 ms.length g)).filter (fun p => decide (0 < p.2.2))).flatMap
            (fun p => d.pieces replay kind ax n p.1 (b.cutTo r (at_.1 + p.2.1, p.2.2)))
        | none => (ms.take 1).flatMap (fun m => d.pieces replay kind ax n m b)

/-- The parts of a descriptor aimed at a handle. A built gathering and a bound one cut alike; nothing in service gives no part
(R40). -/
def Dev.cut (d : Dev) (replay : List Nat) (kind : Nat) (ax : Axes) (h : Nat) : List Part :=
  let ps : List Piece :=
    if uIdx h < 0x114 ∧ ¬ (kindOf (uIdx h) = some kind ∧ d.leafIn replay (uIdx h)) then []
    else d.pieces replay kind ax nestFuel h (wholeBox ax)
  ps.map (fun p => { leaf := p.leaf, reps := p.reps, box := p.box, st := .waiting, crcXor := 0, fin := 0 })

/-- The effective leaf set of the target holds a leaf of the needed kind (R38). -/
def Dev.hasKind (d : Dev) (kind h : Nat) : Bool := (d.leaves h).any (fun l => kindOf l == some kind)

/-! ## BIND and UNBIND (R28–R34) -/

/-- The member words of a BIND, inline or from its list sheet. -/
def Dev.bindMembers (d : Dev) (w : DescWords) : List DW :=
  let n := w.f 6 18 8
  if bitOf (w.dw 6) 19 then
    let b := d.plainRead (shIdx (w.dw 8)) (w.dw 9).toNat (4 * n)
    (List.range n).map (fun k => bw b k)
  else (List.range n).map (fun k => w.dw (8 + k))

/-- Check one member of a BIND (R31). -/
def Dev.memberStatus (d : Dev) (m : DW) : Option Status :=
  let h := bits m 23 0
  if bits m 31 24 ≠ 0 then some .refusedMalformed
  else match d.handleForm h with
    | some st => some st
    | none =>
      let stale := if uIdx h < 0x200 then uGen h != 0
        else !((d.gath (uIdx h)).bound && (d.gath (uIdx h)).gen.toNat == uGen h)
      if stale then some .bouncedRoleStale
      else if 9 ≤ uKind h ∧ uKind h ≤ 12 then some .refusedMalformed else none

/-- No element twice. -/
def nodupB : List Nat → Bool
  | [] => true
  | a :: t => !t.contains a && nodupB t

/-- The gathering at an index is a member of another bound gathering: one lists it at the generation it is bound at (R32). A list that
names an older generation of the slot holds no member any more (R35). -/
def Dev.isMember (d : Dev) (i : Nat) : Bool :=
  (d.gath i).bound && d.gaths.any (fun p => p.2.bound && p.1 != i &&
    p.2.members.any (fun m => uIdx m.toNat == i && uGen m.toNat == (d.gath i).gen.toNat))

/-- The checks of R31 after the class check, in its order. R32 names no place for its own refusal: it comes last, after the owning
context's liveness (DESIGN CHOICE, log 81). -/
def Dev.checkBind (d : Dev) (w : DescWords) : Option Status :=
  let h := w.target
  let i := uIdx h
  let g := d.gath i
  let n := w.f 6 18 8
  let inSheet := bitOf (w.dw 6) 19
  let ctxId := w.f 7 5 0
  let ctxGen : Byte := BitVec.ofNat 8 (w.f 7 15 8)
  if i < 0x200 ∨ uKind h ≠ 0 ∨ w.f 6 3 0 > 8 ∨ w.f 6 7 4 > 3 then some .refusedMalformed
  else if (¬ g.bound ∧ uGen h ≠ 0) ∨ (g.bound ∧ uGen h = 0) then some .refusedMalformed
  else if g.bound ∧ uGen h ≠ g.gen.toNat then some .bouncedRoleStale
  else if n = 0 ∨ n > 1024 then some .refusedMalformed
  else if !inSheet ∧ (n > 8 ∨ ((List.range 8).any (fun k => decide (w.dw (8 + k) ≠ 0) != decide (k < n)))) then
    some .refusedMalformed
  else
    let listSt : Option Status :=
      if inSheet then
        match d.handleStatus (w.dw 8) with
        | some st => some st
        | none =>
          let s := d.sheet (shIdx (w.dw 8))
          if !d.mayRead ctxId (shIdx (w.dw 8)) s then some .refusedPort
          -- a registered plough log is no ordinary sheet (R162), nor is a region of a live map (R266)
          else if d.setApart (w.dw 8) then some .refusedMalformed
          else if s.tok ≠ .set ∨ (w.dw 9).toNat % 4 ≠ 0 ∨ (w.dw 9).toNat + 4 * n > s.size then some .refusedMalformed
          else if d.badIn (shIdx (w.dw 8)) (w.dw 9).toNat (4 * n) then some .failedUncorrectable
          else none
      else none
    match listSt with
    | some st => some st
    | none =>
      let ms := d.bindMembers w
      match ms.findSome? d.memberStatus with
      | some st => some st
      | none =>
        let hs := ms.map (fun m => bits m 23 0)
        let role := w.f 6 3 0
        if hs.any (fun m => d.contains i nestFuel m) then some .refusedMalformed
        else if !nodupB (hs.flatMap d.leaves) then some .refusedMalformed
        else if role ≠ 0 ∧ hs.any (fun m => !((d.leaves m).any (fun l => kindOf l == some role))) then
          some .refusedMalformed
        else if !d.live ctxId ctxGen then some .refusedContextGone
        else if d.isMember i then some .refusedMalformed
        else none

/-- The checks of UNBIND beyond R16: a gathering slot that is no other gathering's member (R31, R32). A GEN of 0x00 on a bound slot is
REFUSED_MALFORMED by R31 and a generation mismatch by item 3 of R16; R90 puts R16 first, so it bounces (DEDUCED, log 81). -/
def Dev.checkUnbind (d : Dev) (w : DescWords) : Option Status :=
  let i := uIdx w.target
  if i < 0x200 ∨ uKind w.target ≠ 0 then some .refusedMalformed
  else if d.isMember i then some .refusedMalformed else none

/-- The rule a RULE code names. -/
def ruleCode (n : Nat) : Rule := if n = 0 then .batch else if n = 1 then .rows else if n = 2 then .channels else .replicate

/-- An accepted BIND binds the slot and advances its generation (R29). -/
def Dev.bindSlot (d : Dev) (w : DescWords) : Dev :=
  let i := uIdx w.target
  d.setGath i
    { gen := genNext (d.gath i).gen, bound := true, role := BitVec.ofNat 4 (w.f 6 3 0),
      rule := ruleCode (w.f 6 7 4), members := (d.bindMembers w).map (fun m => BitVec.ofNat 24 (bits m 23 0)),
      ctx := w.f 7 5 0, ctxGen := BitVec.ofNat 8 (w.f 7 15 8) }

/-- An unbound slot keeps its advanced generation (R29, R35); a disable of its handle ends with the handle. -/
def Dev.unbindSlot (d : Dev) (i : Nat) : Dev :=
  { d.setGath i { Gath.reset with gen := genNext (d.gath i).gen } with disabled := d.disabled.filter (· != i) }

/-- DW4 and DW5 of a BIND: the new handle, the size of the effective leaf set and the nesting depth. -/
def Dev.bindResult (d : Dev) (w : DescWords) : DW × DW :=
  let i := uIdx w.target
  let h := (d.gath i).gen.toNat * 2 ^ 16 + i
  (dwN h, dwN ((d.leaves h).length + Nat.min 4095 (d.depthOf nestFuel h) * 2 ^ 16))

end Sys2Proof.Machine
end

