-- ==== Sys2Proof/Machine/Copies.lean ====
section
/-! DEFINITION. ZERO-PACK streams (R62, R63), copies of home sheets: promotion, eviction, presence (R64–R70, R402), and the
movers' queues (R61). -/

namespace Sys2Proof.Machine

/-! ## ZERO-PACK (R62, R63) -/

/-- Pack one block of 256 bytes: header, payload, pad. -/
def zpPack (b : Bytes) : Bytes :=
  let b := bslice b 0 256
  let nz := b.filter (· ≠ 0)
  if 32 + nz.length < 256 then
    let bitmap := (List.range 32).map (fun k =>
      BitVec.ofNat 8 ((List.range 8).foldl (fun n j => n + (if b.getD (8 * k + j) 0 = 0 then 0 else 2 ^ j)) 0))
    padTo 4 (toLe ((32 + nz.length) * 256 + 1) 4 ++ bitmap ++ nz)
  else padTo 4 (toLe (256 * 256) 4 ++ b)

/-- Split a string into blocks of 256 bytes. -/
def blocks256 (b : Bytes) : List Bytes := (List.range (cdiv b.length 256)).map (fun k => bslice b (256 * k) 256)

/-- A whole ZERO-PACK stream of plain data. -/
def zpStream (plain : Bytes) : Bytes :=
  toLe 0x5A504B01 4 ++ toLe plain.length 4 ++ toLe (cdiv plain.length 256) 4 ++ toLe 0 4 ++
    (blocks256 plain).flatMap zpPack

/-- Unpack one entry: its plain block and its size, none if malformed. -/
def zpUnpack (b : Bytes) : Option (Bytes × Nat) :=
  let h := bnat b 0 4
  let form := h % 4
  let len := h / 256 % 512
  if h / 4 % 64 ≠ 0 ∨ h / 2 ^ 17 ≠ 0 then none
  else if form = 0 then (if len = 256 then some (bslice b 4 256, 260) else none)
  else if form = 1 then
    let bm := bslice b 4 32
    let bit (i : Nat) : Bool := (bm.getD (i / 8) 0).getLsbD (i % 8)
    let r := (List.range 256).foldl (fun (acc : Bytes × Nat) i =>
      if bit i then (acc.1 ++ [b.getD (36 + acc.2) 0], acc.2 + 1) else (acc.1 ++ [0], acc.2)) ([], 0)
    if len = 32 + r.2 ∧ len < 256 then some (r.1, alignUp (4 + len) 4) else none
  else none

/-- Unpack `n` entries; none when one is malformed or runs past the stream's bytes. -/
def zpEntries : Nat → Bytes → Option Bytes
  | 0, _ => some []
  | n + 1, b =>
    match zpUnpack b with
    | none => none
    | some (p, k) => if k ≤ b.length then (zpEntries n (b.drop k)).map (p ++ ·) else none

/-- The plain data of a stream, none when it is malformed (R63). -/
def zpExpand (b : Bytes) : Option Bytes :=
  let len := bnat b 4 4
  let n := bnat b 8 4
  if b.length < 16 ∨ bnat b 0 4 ≠ 0x5A504B01 ∨ len = 0 ∨ n ≠ cdiv len 256 ∨ bnat b 12 4 ≠ 0 then none
  else (zpEntries n (b.drop 16)).map (fun p => p.take len)

/-! ## Movers -/

/-- A mover. -/
def Dev.mover (d : Dev) (m : Nat) : Mover := d.movers.getD m Mover.reset
/-- Change a mover. -/
def Dev.modMover (d : Dev) (m : Nat) (f : Mover → Mover) : Dev :=
  { d with movers := d.movers.setIfInBounds m (f (d.mover m)) }

/-- The mover to use in place of one out of service: the next in service in ascending order (R340). -/
def Dev.moverIn (d : Dev) (m : Nat) : Nat :=
  (((List.range 8).map (fun k => (m + k) % 8)).find? (fun k => !(d.mover k).oos)).getD m

/-- Segments of a length: 64 KiB each, at least one (R61). -/
def segsOf (len : Nat) : Nat := Nat.max 1 (cdiv len 65536)

/-- Order of mover service: class, then acceptance order (R305). -/
def jobLe (a b : MoveJob) : Bool := decide (a.cls < b.cls ∨ (a.cls = b.cls ∧ a.order ≤ b.order))

/-- A mover that can work begins the work at its head. -/
def Mover.begin_ (x : Mover) : Mover :=
  match x.jobs with
  | j :: t => if x.resetAt.isSome ∨ x.oos then x else { x with jobs := { j with running := true } :: t }
  | [] => x

/-- Work joins a mover's queue in its order, behind the work whose segment is in flight (R305). -/
def Mover.join (x : Mover) (j : MoveJob) : Mover :=
  let l := match x.jobs with
    | h :: t => if h.running then h :: insertBy jobLe j t else insertBy jobLe j x.jobs
    | [] => [j]
  { x with jobs := l }.begin_

/-- Queue work on a mover. -/
def Dev.addJob (d : Dev) (m : Nat) (j : MoveJob) : Dev := d.modMover m (fun x => x.join j)

/-- Take work off every mover. -/
def Dev.dropJob (d : Dev) (o : MoveOf) : Dev :=
  { d with movers := d.movers.map (fun x => { x with jobs := x.jobs.filter (fun j => j.own != o) }.begin_) }

/-! ## Copies -/

/-- A copy by its internal index. -/
def Dev.copy? (d : Dev) (k : Nat) : Option Copy := Tab.get? d.copies k
/-- Change a copy. -/
def Dev.modCopy (d : Dev) (k : Nat) (f : Copy → Copy) : Dev :=
  match d.copy? k with
  | some c => { d with copies := Tab.set d.copies k (f c) }
  | none => d
/-- Remove a copy and its mover work, and release its read of the home. -/
def Dev.dropCopy (d : Dev) (k : Nat) : Dev :=
  match d.copy? k with
  | some c =>
    let d := (d.modSheet c.home (fun s => s.release c.order .done)).dropJob (.copy k)
    { d with copies := Tab.del d.copies k }
  | none => d

/-- A promotion's own read of its home is granted, or could be: it no longer waits for a write (R402). -/
def Dev.copyRead (d : Dev) (c : Copy) : Bool :=
  let s := d.sheet c.home
  match s.q.find? (fun r => r.desc == c.order && !r.write) with
  | some r => r.st == .granted || s.grantable r
  | none => true

/-- A copy of a home in a tier: PRESENT, PROMOTING, or a promotion that waits. -/
def Dev.copyOf (d : Dev) (home tier : Nat) : Option Nat :=
  (d.copies.find? (fun p => p.2.home == home && p.2.tier == tier && p.2.st != .draining)).map (·.1)

/-- The copy of a home that a read granted now uses: one of the content the home holds, not of a write still to come (R402). -/
def Dev.copyNow (d : Dev) (home tier : Nat) : Option Nat :=
  (d.copies.find? (fun p => p.2.home == home && p.2.tier == tier && p.2.st != .draining && d.copyRead p.2)).map (·.1)

/-- A context is a reference of a copy. -/
def Copy.hasRef (x : Copy) (c : Nat) : Bool := x.refs.any (fun r => r.2 == c)
/-- A context uses a copy: it becomes a reference unless it is one already or the owner; references stand in order of first use, ties by
the lower context ID (R65). -/
def Copy.use (x : Copy) (c now : Nat) : Copy :=
  if x.owner = some c ∨ x.hasRef c then x
  else { x with refs := insertBy (fun a b => decide (a.1 < b.1 ∨ (a.1 = b.1 ∧ a.2 ≤ b.2))) (now, c) x.refs }
/-- Drop a context's reference and pin. -/
def Copy.leave (x : Copy) (c : Nat) : Copy := { x with refs := x.refs.filter (fun r => r.2 != c), pins := x.pins.filter (· != c) }
/-- A copy is held for a context by a catchword of its plan (R70). -/
def Copy.heldBy (x : Copy) (c : Nat) : Bool := x.heldFor.any (fun h => h.2.1 == c)
/-- A copy has its content: PRESENT, or DRAINING for the readers it has. -/
def Copy.filled (x : Copy) : Bool := x.st == .present || x.st == .draining

/-- A copy becomes DRAINING: charged to no one, references and pins cleared, freed once no reader holds it (R67). -/
def Dev.drainCopy (d : Dev) (k : Nat) : Dev :=
  match d.copy? k with
  | none => d
  | some c =>
    let d := d.count cEvict
    if c.users.isEmpty then d.dropCopy k
    else d.modCopy k (fun c => { c with st := .draining, owner := none, refs := [], pins := [], heldFor := [] })

/-- Eviction of a PRESENT copy by a context (R67): whether anything changed, and the device after. A copy held for the context by its
plan's catchwords is not evictable by it (R70): nothing changes. -/
def Dev.evictBy (d : Dev) (k c : Nat) : Bool × Dev :=
  match d.copy? k with
  | none => (false, d)
  | some x =>
    if x.heldBy c then (false, d)
    else if x.owner ≠ some c then
      if x.hasRef c then (true, d.modCopy k (fun x => x.leave c)) else (false, d)
    else
      match x.refs with
      | r :: rest =>
        if d.useOf r.2 x.tier + chargeOf x.tier x.charge ≤ d.quota r.2 x.tier then
          (true, d.modCopy k (fun x => { x with owner := some r.2, refs := rest, pins := x.pins.filter (· != c) }))
        else (true, d.drainCopy k)
      | [] => (true, d.drainCopy k)

/-- Copies a context may evict automatically in a tier, in one state: unpinned by it, not held for it; least recent use
first, ties to the lower index (R66, R70). -/
def Dev.evictable (d : Dev) (c tier : Nat) (st : CopySt) : List Nat :=
  let l := d.copies.filter (fun p => p.2.owner == some c && p.2.tier == tier && p.2.st == st && !p.2.pins.contains c &&
    !p.2.heldBy c)
  (sortBy (fun (a b : Nat × Copy) => decide (a.2.stamp < b.2.stamp ∨ (a.2.stamp = b.2.stamp ∧ a.1 ≤ b.1))) l).map (·.1)

/-- Free room for granules in a tier. -/
def Dev.fits (d : Dev) (tier need : Nat) : Bool :=
  decide (need ≤ d.tierFree tier) && (tier != 1 || d.t2Fits 2 0 need)

/-- Evict copies of a list until a charge fits quota and space. -/
def Dev.evictUntil (d : Dev) (c tier need : Nat) : List Nat → Dev
  | [] => d
  | k :: t =>
    if d.useOf c tier + need ≤ d.quota c tier ∧ d.fits tier need then d
    else (d.evictBy k c).2.evictUntil c tier need t

/-- Space of the DRAINING copies of a tier. -/
def Dev.drainSpace (d : Dev) (tier : Nat) : Nat :=
  sumBy (fun p => if p.2.tier = tier ∧ p.2.st = .draining then chargeOf tier p.2.charge else 0) d.copies

/-- Plain bytes of a home as a copy will hold it: the stream's PLAIN_LEN for a ZERO-PACK home (R59). -/
def Dev.plainLen (d : Dev) (i : Nat) : Nat :=
  let s := d.sheet i
  if s.zp then zpLen (d.plainRead i 0 16) else s.size

/-- Start the promotion of a waiting copy on its mover, at the length of the content its read has been granted. -/
def Dev.startCopy (d : Dev) (k : Nat) : Dev :=
  match d.copy? k with
  | none => d
  | some c =>
    let n := d.plainLen c.home
    let d := d.modCopy k (fun c => { c with st := .promoting, stamp := d.now, round := (d.sheet c.home).round, charge := n, size := n })
    d.addJob c.mover { own := .copy k, cls := c.cls, order := c.order, segs := segsOf n, running := false }

/-- Whether a promotion has the room it needs: at once, once evictions or readers have given it back, or not at all (R66). -/
inductive Room where
  | now | later | never
  deriving DecidableEq, Repr

/-- As many of the copies of a list, in its order, as give back some granules; none when they give too few. -/
def Dev.enough (d : Dev) : Nat → List Nat → Option (List Nat)
  | 0, _ => some []
  | _, [] => none
  | n + 1, k :: t => (d.enough (n + 1 - ((d.copy? k).map (fun x => chargeOf x.tier x.charge)).getD 0) t).map (fun l => k :: l)

/-- Make room for a promotion (R66): the owner's own unpinned PRESENT copies are evicted in order of use until quota and space
suffice; where the quota is still exceeded, as many of its copies that are still PROMOTING are marked to be evicted when they are
PRESENT (R68); where only space is short, what DRAINING copies will give back is waited for. -/
def Dev.makeRoom (d : Dev) (c tier need : Nat) : Dev × Room :=
  let d := if d.useOf c tier + need ≤ d.quota c tier ∧ d.fits tier need then d
    else d.evictUntil c tier need (d.evictable c tier .present)
  if d.quota c tier < d.useOf c tier + need then
    match d.enough (d.useOf c tier + need - d.quota c tier) (d.evictable c tier .promoting) with
    | some ks =>
      (ks.foldl (fun d j => d.modCopy j (fun x =>
        if x.evicts.contains (c, none) then x else { x with evicts := x.evicts ++ [(c, none)] })) d, .later)
    | none => (d, .never)
  else if d.fits tier need then (d, .now)
  else if need ≤ d.tierFree tier + d.drainSpace tier then (d, .later)
  else (d, .never)

/-- A move between T2 or T4 and T1 moves one tile (R60). -/
def tilePair (a b : Nat) : Bool := (a == 0 && (b == 1 || b == 3)) || (b == 0 && (a == 1 || a == 3))

/-- A move of some bytes between two tiers is longer than the one tile that the variant's grain moves (R60). -/
def Dev.pastTile (d : Dev) (a b len : Nat) : Bool := d.board.variant == .bl6440 && tilePair a b && decide (65536 < len)

/-- A promotion of a home to a tier for a context (R66): the device after, and the copy's index or the status it is refused with.
`req` is the read request of the home under which it reads. A home longer than a tile is refused as a tile move of that length is
(R60; DEDUCED, log 84). -/
def Dev.promote (d : Dev) (home tier c mover cls req : Nat) : Dev × Except Status Nat :=
  let size := d.plainLen home
  let s := d.sheet home
  if d.pastTile s.tier tier size then (d, .error .refusedMalformed)
  else
    let r := d.makeRoom c tier (chargeOf tier size)
    if r.2 = .never then (r.1, .error .refusedQuota)
    else
      let d := r.1
      let k := d.nextCopy
      let mk : Copy :=
        { home := home, tier := tier, st := .waiting, round := s.round, owner := some c, refs := [],
          pins := if s.pin ∧ s.ctx = c then [c] else [], stamp := d.now, presentAt := 0, charge := size,
          size := size, cells := [], synd := [], users := [], evicts := [], heldFor := [], mover := d.moverIn mover,
          cls := cls, order := req }
      let d := { d with copies := Tab.set d.copies k mk, nextCopy := k + 1 }
      (if r.2 = .now ∧ d.copyRead mk then d.startCopy k else d, .ok k)

/-- A waiting promotion may now start: its read of the home is granted, and quota and space suffice for what the home holds (R66,
R402). -/
def Dev.canStart (d : Dev) (k : Nat) : Bool :=
  match d.copy? k with
  | some c =>
    let need := chargeOf c.tier (d.plainLen c.home)
    c.st == .waiting && decide (d.useOf (c.owner.getD 0) c.tier + need ≤ d.quota (c.owner.getD 0) c.tier) && d.fits c.tier need &&
      d.copyRead c
  | none => false

/-- PROMOTION_SPACE_RETURNED (R66). -/
def promotionSpaceReturned (k : Nat) (d : Dev) : Dev := if d.canStart k then d.startCopy k else d

/-- A fresh id for a request that belongs to no descriptor. -/
def Dev.freshId (d : Dev) : Nat × Dev := (d.nextId, { d with nextId := d.nextId + 1 })

/-- Take a reader token of a home for a promotion: granted at once when the home is SET (R61, R402). -/
def Dev.promoRead (d : Dev) (home id : Nat) : Dev :=
  d.modSheet home (fun s =>
    let s := s.addRead id
    match s.q.find? (fun r => r.desc == id) with
    | some r => if s.grantable r then s.grant r else s
    | none => s)

/-- A read of a home below T1 by a leaf is resolved to its T1 copy, promoting it on demand (R65): the copy joins the
descriptor's list; a failed promotion dooms the descriptor. -/
def Dev.resolveCopy (d : Dev) (id i : Nat) : Dev :=
  match d.desc? id with
  | none => d
  | some x =>
    if x.copies.any (fun p => p.1 == i) then d
    else match d.copyNow i 0 with
      | some k =>
        let late := ((d.copy? k).map (fun c => !c.filled)).getD false
        let d := d.modCopy k (fun c =>
          { c.use x.ctx d.now with users := c.users ++ [id], stamp := if late then c.stamp else d.now })
        d.modDesc id (fun y => { y with copies := y.copies ++ [(i, k)],
                                        stallAt := if late ∧ y.stallAt.isNone then some d.now else y.stallAt })
      | none =>
        let (rid, d1) := d.freshId
        match (d1.promoRead i rid).promote i 0 x.ctx (i % 8) x.cls rid with
        | (d2, .ok k) =>
          let d2 := (d2.count cDemand).modCopy k (fun c => { c with users := [id] })
          d2.modDesc id (fun y => { y with copies := y.copies ++ [(i, k)], stallAt := some (y.stallAt.getD d.now),
                                           flags := y.flags ||| fPrefetchLate })
        | (d2, .error st) =>
          (d2.modSheet i (fun s => s.release rid .done)).modDesc id (fun y => { y with doom := some ((y.doom.map (Status.join st)).getD st) })

/-- A layer of a firing has completed: what was held until it is held no longer (R70). -/
def Dev.cwRelease (d : Dev) (slot layer : Nat) : Dev :=
  { d with copies := d.copies.map (fun p => (p.1, { p.2 with heldFor := p.2.heldFor.filter (fun h => h.1 != slot || h.2.2 != layer) })) }

/-- No copy is held for a plan slot any more. -/
def Dev.cwClear (d : Dev) (slot : Nat) : Dev :=
  { d with copies := d.copies.map (fun p => (p.1, { p.2 with heldFor := p.2.heldFor.filter (fun h => h.1 != slot) })) }

/-- A descriptor leaves the copies it used; a DRAINING copy without readers is freed (R67). -/
def Dev.leaveCopies (d : Dev) (id : Nat) : Dev :=
  (d.copies.filter (fun p => p.2.users.contains id)).foldl (fun d p =>
    let d := d.modCopy p.1 (fun c => { c with users := c.users.filter (· != id) })
    match d.copy? p.1 with
    | some c => if c.st = .draining ∧ c.users.isEmpty then d.dropCopy p.1 else d
    | none => d) d

/-- At the grant of a write every copy of the home is freed (R402); a promotion still matched to a write stays. -/
def Dev.invalidate (d : Dev) (home : Nat) : Dev :=
  (d.copies.filter (fun p => p.2.home == home && (p.2.st != .waiting || d.copyRead p.2))).foldl (fun d p =>
    (if p.2.st = .draining then d else d.count cEvict).dropCopy p.1) d

/-- Grant one request of a sheet: a granted write invalidates copies, and the image of a VOID sheet, which only PRS_STRUCT gives back (R250); a granted read by a leaf of a home below T1 is
resolved to its copy, and stamps it (R54, R65, R402). -/
def Dev.grantReq (d : Dev) (i : Nat) (r : Req) : Dev :=
  let gone := r.write && (d.sheet i).void != .done
  let d := d.modSheet i (fun s => s.grant r)
  let d := if gone then { d with press := Tab.del d.press i } else d
  if r.write then d.invalidate i else d

/-- Grant everything a descriptor can be granted now. -/
def Dev.grantFor (d : Dev) (id : Nat) : Dev :=
  (d.sheetsOf id).foldl (fun d i =>
    ((d.sheet i).q.filter (fun r => r.desc == id)).foldl (fun d r =>
      if (d.sheet i).grantable r then d.grantReq i r else d) d) d

end Sys2Proof.Machine
end

