-- ==== Sys2Proof/Machine/Sha3.lean ====
section
/-! DEFINITION. SHA3-256 (FIPS 202), the digest of every chapter. -/

namespace Sys2Proof.Machine

/-- Rotate a lane left. -/
def rotl64 (x : QW) (n : Nat) : QW := x.rotateLeft n

/-- Lane (x, y) of a state of 25 lanes. -/
def lane (a : List QW) (x y : Nat) : QW := a.getD (x % 5 + 5 * (y % 5)) 0

/-- One shift of the feedback register that makes the round constants (FIPS 202, algorithm 5): x^8 + x^6 + x^5 + x^4 + 1. -/
def rcShift (r : Nat) : Nat := if r * 2 < 256 then r * 2 else Nat.xor (r * 2) 0x171

/-- The register's output bit after `t` shifts. -/
def rcBit (t : Nat) : Bool := decide ((Nat.repeat rcShift t 1) % 2 = 1)

/-- Constant of round `r`: bit 2^j - 1 is the output after j + 7 r shifts, j = 0 to 6 (FIPS 202, algorithm 6). -/
def roundConst (r : Nat) : QW :=
  (List.range 7).foldl (fun w j => if rcBit (j + 7 * r) then w ||| BitVec.ofNat 64 (2 ^ (2 ^ j - 1)) else w) 0

/-- Sum of a column and its influence on a neighbour (theta): what column `x` adds to every lane of it. -/
def thetaTerm (a : List QW) (x : Nat) : QW :=
  let parity (k : Nat) : QW := (List.range 5).foldl (fun p y => p ^^^ lane a k y) 0
  parity (x + 4) ^^^ rotl64 (parity (x + 1)) 1

/-- The theta step. -/
def theta (a : List QW) : List QW :=
  let t := (List.range 5).map (thetaTerm a)
  a.zipIdx.map (fun p => p.1 ^^^ t.getD (p.2 % 5) 0)

/-- Rho and pi in one walk over the lanes: from (x, y) to (y, 2x + 3y), each lane turned by the triangular number of its place in the
walk and left where the walk goes next (FIPS 202, algorithms 2 and 3). -/
def rhoPi (a : List QW) : Nat → Nat → Nat → Nat → List QW → List QW
  | 0, _, _, _, b => b
  | n + 1, t, x, y, b =>
    let y' := (2 * x + 3 * y) % 5
    rhoPi a n (t + 1) y y' (b.set (y + 5 * y') (rotl64 (lane a x y) ((t + 1) * (t + 2) / 2 % 64)))

/-- The chi step: each lane takes in the next lane but one of its row where the next is clear. -/
def chi (a : List QW) : List QW :=
  a.zipIdx.map (fun p => p.1 ^^^ (lane a (p.2 + 2) (p.2 / 5) &&& ~~~ lane a (p.2 + 1) (p.2 / 5)))

/-- Round `r` of the permutation. -/
def keccakRound (a : List QW) (r : Nat) : List QW :=
  let t := theta a
  (chi (rhoPi t 24 0 1 0 t)).modify 0 (roundConst r ^^^ ·)

/-- The permutation of 24 rounds. -/
def keccakF (a : List QW) : List QW := (List.range 24).foldl keccakRound a

/-- Lanes of one block of bytes. -/
def blockLanes (b : Bytes) : List QW := (List.range 25).map (fun i => BitVec.ofNat 64 (bnat b (8 * i) 8))

/-- Absorb blocks of 136 bytes. -/
def absorb : Nat → Bytes → List QW → List QW
  | 0, _, s => s
  | n + 1, b, s => absorb n (b.drop 136) (keccakF (List.zipWith (· ^^^ ·) s (blockLanes (b.take 136))))

/-- Padding of SHA3: domain bits 01, then 1 0* 1. -/
def sha3Pad (b : Bytes) : Bytes :=
  let k := 136 - b.length % 136
  if k = 1 then b ++ [0x86] else b ++ 0x06 :: List.replicate (k - 2) 0 ++ [0x80]

/-- The digest bytes. -/
def sha3Bytes (b : Bytes) : Bytes :=
  let p := sha3Pad b
  (absorb (p.length / 136) p (List.replicate 25 0)).take 4 |>.flatMap le64

/-- The digest as a number, byte 0 in the low bits. -/
def sha3 (b : Bytes) : Digest := BitVec.ofNat 256 (leNat (sha3Bytes b))

/-- A digest as its 32 bytes. -/
def Digest.bytes (x : Digest) : Bytes := toLe x.toNat 32

end Sys2Proof.Machine
end

