-- ==== Sys2Proof/Machine/MirMsg.lean ====
section
/-! DEFINITION. Sending mirror messages: the header, queue pairs and links (R310, R311, R314), and PLAN (R327). -/

namespace Sys2Proof.Machine

/-- The 32-byte header of a mirror message; `len` in 64-byte units. -/
def mirHeader (type seq len epoch : Nat) (dlo : Bytes) : Bytes :=
  toLe (0x4A42 + type * 2 ^ 16 + 1 * 2 ^ 24) 4 ++ toLe (seq % 2 ^ 16 + len * 2 ^ 16) 4 ++ toLe epoch 8 ++ bslice dlo 0 16

/-- A link. -/
def Dev.link (d : Dev) (m : Nat) : Link := d.mir.links.getD m Link.reset
/-- Change a link. -/
def Dev.modLink (d : Dev) (m : Nat) (f : Link → Link) : Dev :=
  { d with mir := { d.mir with links := d.mir.links.setIfInBounds m (f (d.link m)) } }

/-- Attributes of the queue pairs (R310): path MTU, ACK timeout in ns, retry and RNR retry counts. The transport below the messages keeps
them; a queue pair whose retries are exhausted shows as one that is re-established. -/
abbrev mirMtu := 4096
abbrev mirAckNs := 4096 * 2 ^ 8
abbrev mirRetries := 7

/-- The transport QP number of mirror queue pair `q` (R310). -/
def mirQpn (q : Nat) : Nat := 0x10 + q

/-- Nanoseconds some bytes take at 10 GB/s of line rate and the queue pair's present rate. -/
def QPair.wireNs (p : QPair) (n : Nat) : Nat := n * 10000 / Nat.max 1 p.rate / 10

/-- A queue pair takes a message of some bytes. -/
def QPair.send (p : QPair) (now n : Nat) : QPair :=
  { p with tx := p.tx + 1, psn := p.psn + BitVec.ofNat 24 (cdiv n mirMtu), busy := Nat.max p.busy now + p.wireNs n }

/-- In split mode, 1 ms of traffic or more on QP2 or QP3 restarts the second that must be quiet (R326). -/
def Dev.noteTraffic (d : Dev) (q : Nat) (p : QPair) : Dev :=
  if q < 2 ∨ p.busy < d.now + 10 ^ 6 then d
  else { d with mir := { d.mir with quiet := d.mir.quiet.map (fun t => Nat.max t (p.busy - 10 ^ 6)) } }

/-- Put one message on a link and queue pair, as `out` says; the payload is padded to 64 bytes. -/
def Dev.mirPut (d : Dev) (m q type epoch : Nat) (dlo payload : Bytes) (out : QPair → Bytes → Out) : Dev :=
  let p := padTo 64 payload
  let qp := (d.link m).qps.getD q QPair.reset
  let msg := mirHeader type qp.tx.toNat (p.length / 64) epoch dlo ++ p
  let next := qp.send d.now msg.length
  ((d.modLink m (fun l => { l with qps := l.qps.setIfInBounds q next })).noteTraffic q next).emitOut (out qp msg)

/-- Send one message on a link and queue pair. -/
def Dev.mirSendOn (d : Dev) (m q type epoch : Nat) (dlo payload : Bytes) : Dev :=
  d.mirPut m q type epoch dlo payload (fun qp msg => .mirror m (mirQpn q) qp.psn msg)

/-- Links that are up and paired. -/
def Dev.pairedLinks (d : Dev) : List Nat := [0, 1].filter (fun m => (d.link m).up && (d.link m).paired)

/-- The link that carries a queue pair's traffic: QP2 and even sensors on MIR0, QP3 and odd ones on MIR1, everything on
the one link that is left (R311). -/
def Dev.linkFor (d : Dev) (want : Nat) : Option Nat :=
  let l := d.pairedLinks
  if l.contains want then some want else l.head?

/-- Send a control message on QP0 of every paired link (R311). -/
def Dev.mirControl (d : Dev) (type epoch : Nat) (dlo payload : Bytes) : Dev :=
  d.pairedLinks.foldl (fun d m => d.mirSendOn m 0 type epoch dlo payload) d

/-- Send on QP1 or QP2. -/
def Dev.mirData (d : Dev) (q want type epoch : Nat) (payload : Bytes) : Dev :=
  match d.linkFor want with
  | some m => d.mirSendOn m q type epoch [] payload
  | none => d

/-- The mirror is UP or in split mode: control and delta traffic flows. -/
def Dev.mirUp (d : Dev) : Bool := d.mir.state == 1 || d.mir.state == 2

/-- Mirror state of a slot. -/
def Dev.mslot (d : Dev) (n : Nat) : MirSlot := d.mir.slots.getD n MirSlot.reset
/-- Change the mirror state of a slot. -/
def Dev.modSlot (d : Dev) (n : Nat) (f : MirSlot → MirSlot) : Dev :=
  { d with mir := { d.mir with slots := d.mir.slots.setIfInBounds n (f (d.mslot n)) } }

/-- The word that names a slot with the context and generation of its armed plan (PLAN, DELTA; log 30 for the other
slot messages). -/
def slotWord (slot ctx gen : Nat) (bit4 : Bool) : Nat := slot + b2n bit4 * 16 + ctx * 2 ^ 8 + gen * 2 ^ 16

/-- PLAN of a slot, armed or disarmed (R327). -/
def Dev.sendPlan (d : Dev) (slot : Nat) (armed : Bool) : Dev :=
  match Tab.get? d.plans slot with
  | none => d
  | some p =>
    if d.mirUp then
      d.mirControl 0x03 p.epoch.toNat []
        (toLe (slotWord slot p.ctx p.ctxGen.toNat armed) 4 ++ toLe p.periodUs 4 ++ toLe p.t0 8 ++
          Digest.bytes ((d.mslot slot).ident.getD 0))
    else d

end Sys2Proof.Machine
end

