-- ==== Sys2Proof/Machine/Life.lean ====
section
/-! DEFINITION. The life of descriptors, sheets and contexts: completion and its releases (R41, R54, R92, R300), freeing a
sheet (R53), disarming a plan (R296, R301), opening a context (R81) and teardown (R103–R106). -/

namespace Sys2Proof.Machine

/-! ## Freeing a sheet (R48, R53) -/

/-- The handle of a sheet as it stands. -/
def Dev.handleOf (d : Dev) (i : Nat) : DW := let s := d.sheet i; shMake s.gen s.tier i

/-- A plan is disarmed: no firing starts any more (R296). -/
def Dev.stopPlan (d : Dev) (slot : Nat) : Dev :=
  match Tab.get? d.plans slot with
  | some p => { d with plans := Tab.set d.plans slot { p with stopping := true } }
  | none => d

/-- A freed sheet leaves every register and list that names it: a plough log (R164), the dump sheet (R343), the staging
sheet, tracked sheets (R315), and a plan's RECORDS, which disarms the plan (R301). -/
def Dev.unlinkSheet (d : Dev) (h : DW) : Dev :=
  let deadLog (l : PlgLog) : PlgLog := if l.live ∧ l.sheet = h then { l with live := false } else l
  let untrack (m : MirSlot) : MirSlot := { m with tracked := m.tracked.filter (fun t => t != h) }
  let d := { d with plg := { d.plg with logs := d.plg.logs.map deadLog } }
  let d := if d.own 0x15004 = h then d.setOwn 0x15004 0 else d
  let d := if d.own 0x17010 = h then d.setOwn 0x17010 0 else d
  let d := { d with mir := { d.mir with slots := d.mir.slots.map untrack } }
  (d.plans.filter (fun p => p.2.records == h)).foldl (fun d p => d.stopPlan p.1) d

/-- A sheet whose free has been accepted, once no request, copy or waiting SHEET_FREE holds it: its space and charge
return and its index is free. -/
def Dev.returnSheet (d : Dev) (i : Nat) : Dev :=
  let s := d.sheet i
  { (d.setSheet i { Sheet.reset with gen := s.gen }) with press := Tab.del d.press i, maps := Tab.del d.maps i }

/-- A freed sheet is free of requests and copies. -/
def Dev.freeable (d : Dev) (i : Nat) : Bool :=
  let s := d.sheet i
  s.live && s.freeing && s.q.isEmpty && !d.copies.any (fun p => p.2.home == i)

/-- Return the space of every freed sheet for which no SHEET_FREE waits. -/
def Dev.sweepFree (d : Dev) : Dev :=
  (d.sheets.filter (fun p => p.2.freeing)).foldl (fun d p =>
    if d.freeable p.1 ∧ ¬ d.descs.any (fun x => match x.await_ with | .free i _ => i == p.1 | _ => false) then
      d.returnSheet p.1 else d) d

/-- Acceptance of a free (R48, R53): the generation advances, the handle is dead, PRESENT copies are freed once their readers have
released. A promotion still at work goes on for those that wait for it; its copy is freed when it is PRESENT. -/
def Dev.freeSheet (d : Dev) (i : Nat) : Dev :=
  let d := d.unlinkSheet (d.handleOf i)
  let d := d.modSheet i (fun s => { s with gen := genNext s.gen, freeing := true })
  (d.copies.filter (fun p => p.2.home == i && p.2.st == .present)).foldl (fun d p => d.drainCopy p.1) d

/-! ## The CRC pool (R337) -/

/-- A descriptor's parts may start on leaves: it is dispatched or replaying. -/
def Desc.live (x : Desc) : Bool := x.phase == .dispatched || x.phase == .replaying

/-- Every part of a descriptor has finished on its leaf. -/
def Desc.allFinished (x : Desc) : Bool := !x.parts.isEmpty && x.parts.all (fun p => p.st == .finished)

/-- Outputs of REPLICATE members are to be compared (R39). -/
def Desc.compares (x : Desc) : Bool := x.parts.any (fun p => !p.reps.isEmpty)

/-- A descriptor asks for a pool unit: a CRC_CHECK with its tokens, or a comparison whose members have all delivered. -/
def Desc.asksCrc (x : Desc) : Bool := (x.w.opc == 0x7C && x.phase == .dispatched) || (x.live && x.allFinished && x.compares)

/-- The pool unit that serves a descriptor. -/
def Dev.crcUnit (d : Dev) (id : Nat) : Option Nat := (d.flt.crcBusy.find? (fun p => p.2 == id)).map (·.1)

/-- The lowest free unit of the pool, units 6 to 15. -/
def Dev.crcFree (d : Dev) : Option Nat := ((List.range 10).map (· + 6)).find? (fun u => !d.flt.crcBusy.any (fun p => p.1 == u))

/-- The mover a handle names. -/
def moverOf (h : Nat) : Nat := uIdx h - 0x180

/-- Requests take free units in acceptance order; a CRC_CHECK that has one joins the work of its mover. -/
def Dev.crcTake (d : Dev) : Dev :=
  (d.descs.filter (fun x => x.asksCrc && (d.crcUnit x.id).isNone)).foldl (fun d x =>
    match d.crcFree with
    | none => d
    | some u =>
      let d := { d with flt := { d.flt with crcBusy := d.flt.crcBusy ++ [(u, x.id)] } }
      if x.w.opc = 0x7C then
        d.addJob (moverOf x.w.target) { own := .desc x.id, cls := x.cls, order := x.id, segs := segsOf (x.w.q 10), running := false }
      else d) d

/-- A descriptor gives its unit back. -/
def Dev.crcDrop (d : Dev) (id : Nat) : Dev := { d with flt := { d.flt with crcBusy := d.flt.crcBusy.filter (fun p => p.2 != id) } }

/-! ## Completion -/

/-- A completed descriptor leaves every list that waits for it, the landed units and plough records it holds (R123,
R162). -/
def Dev.forget (d : Dev) (id : Nat) : Dev :=
  let drop (l : List Nat) : List Nat := l.filter (fun k => k != id)
  let dropLog (l : PlgLog) : PlgLog := { l with holds := (l.holds.map (fun p => (p.1, drop p.2))).filter (fun p => !p.2.isEmpty) }
  { d with
    descs := (d.descs.filter (fun x => x.id != id)).map (fun x =>
      match x.await_ with
      | .rebind olds => { x with await_ := .rebind (drop olds) }
      | .free s olds => { x with await_ := .free s (drop olds) }
      | _ => x)
    drains := d.drains.map (fun r => { r with waits := drop r.waits })
    sns := { d.sns with units := d.sns.units.map (fun p => (p.1, { p.2 with held := drop p.2.held })) }
    plg := { d.plg with
      waiting := drop d.plg.waiting
      logs := d.plg.logs.map dropLog }
    flt := { d.flt with incidents := d.flt.incidents.map (fun i => { i with held := drop i.held }) } }

/-- The delta records of the lines a stage has written, with their content at its completion (R315, R316). -/
def Dev.stageDelta (d : Dev) (slot stage : Nat) : Dev :=
  d.modSlot slot (fun m =>
    let recs := (m.lines.filter (fun l => l.2.2 == stage)).map (fun l =>
      ({ sheet := d.handleOf l.1, stage := stage, offset := 64 * l.2.1, data := d.plainRead l.1 (64 * l.2.1) 64 } : DeltaRec))
    let keep := m.cur.filter (fun r => !recs.any (fun n => n.sheet == r.sheet && n.offset == r.offset))
    { m with cur := keep ++ recs })

/-- The record of a completed stage of a firing (R300): the completion layout, its last word the period's low bit and
the stage. The last stage's completion is C_k. A mirrored stage that fails for integrity carries DIVERGED (R307). A layer that completes ends the catchword holds that wait for it (R70). -/
def Dev.stageRecord (d : Dev) (slot stage : Nat) (x : Desc) (r : Fin_) : Dev :=
  match Tab.get? d.plans slot with
  | none => d
  | some p =>
    let integrity : Bool := p.mirrored && (r.st == .failedUncorrectable || r.st == .failedCheck)
    let fl := if p.diverged || integrity then r.flags ||| fDiverged else r.flags
    let ws := compHead x.w { r with flags := fl } (r.finish.getD d.now) ++ [dwN (x.period % 2 + 2 * stage)]
    let v : Vector DW 8 := Vector.ofFn (fun i => ws.getD i.val 0)
    let d := { d with plans := Tab.set d.plans slot { p with recs := p.recs ++ [(stage, v)], cAt := d.now } }
    let d := if p.mirrored then d.stageDelta slot stage else d
    if x.w.opc = 0x30 then d.cwRelease slot (x.w.f 6 15 0) else d

/-- A tensor or press descriptor completed FAILED_CHECK (TEN and PRS CHECK_CNT). -/
def Dev.countCheck (d : Dev) (opc : Nat) : Dev :=
  if opc = 0x30 ∨ opc = 0x31 then d.count cTenCheck else if 0x50 ≤ opc ∧ opc ≤ 0x57 then d.count cPrsCheck else d

/-- A descriptor completes: tokens end, copies, units and queues are left, and one record is written: in the completion
ring, or as a stage record of its plan (R41, R54, R92, R300). -/
def Dev.finishDesc (d : Dev) (id : Nat) (r : Fin_) : Dev :=
  match d.desc? id with
  | none => d
  | some x =>
    let r := { r with flags := r.flags ||| x.flags, shrink := x.level }
    let d := if r.st = .failedCheck then d.countCheck x.w.opc else d
    let d := ((((d.releaseAll id r.st).leaveCopies id).dropJob (.desc id)).forget id).crcDrop id
    let d := match x.origin with
      | .ring _ => if (d.ctx x.ctx).gen = x.ctxGen then d.complete x.ctx x.w r else d
      | .plan slot stage => d.stageRecord slot stage x r
    d.sweepFree.crcTake

/-- End a descriptor with a status and no result. -/
def Dev.abortDesc (d : Dev) (id : Nat) (st : Status) : Dev := d.finishDesc id { st := st }

/-- A descriptor that ends by itself ends with the status that doomed it, if one did. -/
def Dev.endDesc (d : Dev) (id : Nat) (r : Fin_) : Dev :=
  match (d.desc? id).bind (·.doom) with
  | some st => d.abortDesc id st
  | none => d.finishDesc id r

/-! ## Disarming (R296) -/

/-- The SCH_ARM of a stopping plan with no firing running completes, then every SCH_DISARM of it; SCH_DISARMED is
raised, and PLAN tells the partner (R296, R301, R327). -/
def Dev.disarmNow (d : Dev) (slot : Nat) : Dev :=
  match Tab.get? d.plans slot with
  | none => d
  | some p =>
    if !p.stopping || p.running then d
    else
      let d := if p.mirrored then d.sendPlan slot false else d
      let d := { d with plans := Tab.del d.plans slot }.cwClear slot
      let d := d.modSlot slot (fun m => { MirSlot.reset with tracked := m.tracked, peer := m.peer })
      let d := d.endDesc p.armId { st := .done, r4 := dwN p.firings }
      let d := (d.descs.filter (fun x => match x.await_ with | .disarm s a => s == slot && a == p.armId | _ => false)).foldl
        (fun d x => d.endDesc x.id { st := .done }) d
      let d := (d.descs.filter (fun x => match x.await_ with | .resync s => s == slot | _ => false)).foldl
        (fun d x => d.abortDesc x.id .abortedFence) d
      d.event { code := 0xA1, tag := p.tag, ctx := some p.ctx, d4 := dwN slot, d5 := dwN p.firings }

/-- Disarm every plan that is stopping and idle. -/
def Dev.disarmAll (d : Dev) : Dev := d.plans.foldl (fun d p => d.disarmNow p.1) d

/-! ## Out of service (R335, R349) -/

/-- The device goes out of service (R349): FAULT_N, every plan disarmed, every outstanding descriptor ABORTED_RESET, and
FLT_OUT_OF_SERVICE. -/
def Dev.leaveService (d : Dev) (cause : Nat) : Dev :=
  if d.flt.devOos then d
  else
    let d := { d with flt := { d.flt with devOos := true, incidents := [], restores := [], volAt := none }, pwr := { d.pwr with faultN := true } }
    let d := (d.setOwn 0x15008 (dwN cause)).emitOut (.pin 9 false)
    let d := d.event { code := 0xC9, d4 := dwN (15 + cause * 16) }
    let d := d.plans.foldl (fun d p => d.stopPlan p.1) d
    let d := (d.descs.map (·.id)).foldl (fun d id => d.abortDesc id .abortedReset) d
    let d := { d with plans := d.plans.map (fun (p : Nat × Plan) => (p.1, { p.2 with running := false })) }
    d.disarmAll

/-! ## Opening a context (R80, R81) -/

/-- Open a context: heads, tails and sequences at 0, geometry from the registers; HST_CTX_OPENED (R81). -/
def Dev.openCtx (d : Dev) (c : Nat) : Dev :=
  let o := 0x1400 + 64 * c
  let base (k : Nat) : Nat := (d.reg (o + 0x10 + 8 * k)).toNat + 2 ^ 32 * (d.reg (o + 0x14 + 8 * k)).toNat
  let size (k : Nat) : Nat := 2 ^ (d.regF (o + 4) (4 * k + 3) (4 * k) + 6)
  let x := d.ctx c
  let d := d.setCtx c { Ctx.reset with
    st := .opened, gen := x.gen, rings := d.regF o 10 8,
    sq := Vector.ofFn (fun k : Fin 4 => { base := base k.val, size := size k.val, head := 0, tail := 0 }),
    cqBase := base 4, cqSize := size 4, eqBase := base 5, eqSize := size 5 }
  d.event { code := 0x01, ctx := some c, d4 := dwN x.gen.toNat }

/-! ## Teardown (R103–R106) -/

/-- A descriptor that a teardown ends at once: not yet dispatched, or held by an incident and not replaying (R103 step
2, R348). -/
def Desc.tearsNow (x : Desc) : Bool :=
  match x.await_ with
  | .run => x.phase == .waiting || x.phase == .held
  | .copy _ ev => ev
  | .pps _ _ => true
  | .swap => x.phase == .waiting
  | _ => false

/-- Steps 1 and 2 of a teardown: TEARING, no more fetches; what is not dispatched completes with ABORTED_TEARDOWN, the
rest is doomed to it; its plans stop. A CTX_TEARDOWN of the context runs on. A MIR_RESYNC ends ABORTED_FENCE (R323). -/
def Dev.tearStart (d : Dev) (c : Nat) (t : Tear) : Dev :=
  let x := d.ctx c
  let d := d.setCtx c { x with st := .tearing, tear := some t, held := [] }
  let d := x.held.foldl (fun d f => d.complete c f.w { st := .abortedTeardown }) d
  let d := (d.plans.filter (fun p => p.2.ctx == c)).foldl (fun d p => d.stopPlan p.1) d
  let d := (d.descs.filter (fun y => y.ctx == c)).foldl (fun d y =>
    match y.await_ with
    | .teardown _ => d
    | .resync _ => d.abortDesc y.id .abortedFence
    | _ => if y.tearsNow then d.abortDesc y.id .abortedTeardown
      else d.modDesc y.id (fun z => { z with doom := some .abortedTeardown })) d
  d.disarmAll

/-- Every descriptor the teardown waits for has completed. -/
def Dev.tearDone (d : Dev) (c : Nat) : Bool :=
  !d.descs.any (fun y => y.ctx == c && (match y.await_ with | .teardown _ => false | _ => true)) &&
    !d.plans.any (fun p => p.2.ctx == c)

/-- The final heads a CTX_TEARDOWN reports (chapter 03, opcode table). -/
def Ctx.heads (x : Ctx) : DW × DW :=
  let h (k : Nat) : Nat := (x.sq.getD k Ring.reset).head.toNat % 2 ^ 16
  (dwN (h 0 + h 1 * 2 ^ 16), dwN (h 2 + h 3 * 2 ^ 16))

/-- Steps 4 to 7: gatherings unbound, sheets freed, copies evicted, the context CLOSED at the next generation, its
CTX_TEARDOWN completed while the submitter is OPEN (R103). -/
def Dev.tearFinish (d : Dev) (c : Nat) : Dev :=
  let x := d.ctx c
  match x.tear with
  | none => d
  | some t =>
    if x.st ≠ .tearing ∨ !d.tearDone c then d
    else
      let d := (d.gaths.filter (fun p => p.2.bound && p.2.ctx == c)).foldl (fun d p => d.unbindSlot p.1) d
      let d := ((d.sheets.filter (fun p => p.2.live && !p.2.freeing && p.2.ctx == c && !isLanding p.1)).foldl
        (fun d p => d.freeSheet p.1) d).sweepFree
      let d := d.disarmAll
      let d := (d.copies.filter (fun p => p.2.owner == some c || p.2.hasRef c)).foldl
        (fun d p => if p.2.st = .present then (d.evictBy p.1 c).2
          else d.modCopy p.1 (fun k => { k with evicts := k.evicts ++ [(c, none)] })) d
      let g := genNext x.gen
      let d := d.setCtx c { Ctx.reset with gen := g, reopen := x.reopen }
      let d := d.event { code := 0x02, ctx := some c, d4 := dwN (g.toNat + t.cause * 2 ^ 8) }
      match t.owner with
      | none => d
      | some id =>
        match d.desc? id with
        | none => d
        | some y =>
          let hs := x.heads
          if (d.ctx y.ctx).st = .opened ∧ (d.ctx y.ctx).gen = y.ctxGen then
            d.finishDesc id { st := .done, r4 := hs.1, r5 := hs.2 }
          else (d.releaseAll id .abortedTeardown).forget id

/-- The function of a context is enabled, and the context CLOSED: it may open (R80). -/
def Dev.mayOpen (d : Dev) (c : Nat) : Option Status :=
  if (d.ctx c).st ≠ .closed then some .refusedMalformed
  else if !d.funcOn (d.func c) then some .refusedDisabled else none

/-- HST_CTX_CTL.OPEN written before the lock (R80): an open that is refused is ignored. -/
def hstCtxOpenReg (c : Nat) (d : Dev) : Dev :=
  if d.locked then d else if (d.mayOpen c).isSome then d else d.openCtx c

/-- HST_CTX_CTL.TEARDOWN written before the lock (R80, R104): a context that is not OPEN is left as it is. -/
def hstCtxTeardownReg (c : Nat) (d : Dev) : Dev :=
  if d.locked then d
  else if (d.ctx c).st = .opened then d.tearStart c { cause := 1, owner := none, silent := false } else d

/-- FUNCTION_LEVEL_RESET (R105, R106): every context of the function, or every context for PF0, is torn down, merging
with a teardown in progress, whose cause stays (DESIGN CHOICE, log 90); from now on nothing is written into the function's memory. -/
def functionLevelReset (f : Nat) (d : Dev) : Dev :=
  let cs := (List.range 64).filter (fun c => f == 0 || d.func c == f)
  let d := cs.foldl (fun d c =>
    let x := d.ctx c
    let d := if f = 0 ∧ bitOf (d.reg (0x1400 + 64 * c)) 5 then d.setCtx c { x with reopen := true } else d
    match x.st with
    | .closed => d
    | .opened => d.tearStart c { cause := 2, owner := none, silent := true }
    | .tearing => d.modCtx c (fun x => { x with tear := x.tear.map (fun t => { t with silent := true }) })) d
  -- the vectors of a reset function return to their reset state
  let fs := if f = 0 then List.range 32 else [f]
  { d with vecs := d.vecs.filter (fun p => !fs.contains (p.1 / 64)) }

/-- AUTO_OPEN (R106): a context marked for it by a reset of PF0 opens once it is CLOSED; it stays CLOSED when its function
is not enabled at that moment. -/
def autoOpen (c : Nat) (d : Dev) : Dev :=
  let x := d.ctx c
  if x.reopen ∧ x.st = .closed then
    let d := d.setCtx c { x with reopen := false }
    if (d.mayOpen c).isSome then d else d.openCtx c
  else d

/-- RING_DMA_FAULT (R79, R301): a failed access to a ring tears the context down, or finds it in teardown; a failed period-record write
disarms the plan. Either raises HST_DMA_FAULT. The device accesses no ring of a CLOSED context, nor of a function under reset (R105). -/
def ringDmaFault (c : Nat) (t : DmaTarget) (addr : QW) (d : Dev) : Dev :=
  let ring := match t with | .sq n => n.val | .cq => 4 | .eq => 5 | .records _ => 6
  let ev (d : Dev) : Dev := d.event { code := 0x04, ctx := some c, d4 := dwN addr.toNat, d5 := dwN (addr.toNat / 2 ^ 32), d6 := dwN ring }
  match t with
  | .records slot =>
    match Tab.get? d.plans slot.val with
    | some p => if p.ctx = c then (ev (d.stopPlan slot.val)).disarmNow slot.val else d
    | none => d
  | _ =>
    match (d.ctx c).st with
    | .opened => (ev d).tearStart c { cause := 3, owner := none, silent := false }
    | .tearing => if d.silent c then d else ev d
    | .closed => d

/-- PCIE_CONFIG_WRITE (R80): NumVFs, VF Enable and the Bus Master Enable of a function. -/
def pcieConfigWrite (f numVfs : Nat) (vfEnable busMaster : Bool) (d : Dev) : Dev :=
  let bme := d.pcie.bme.filter (· != f)
  let pc := { d.pcie with bme := if busMaster then insertBy (fun a b => decide (a ≤ b)) f bme else bme }
  { d with pcie := if f = 0 then { pc with numVfs := Nat.min numVfs 31, vfEn := vfEnable } else pc }

/-! ## Doorbells (R82) -/

/-- An invalid doorbell write: counted, reported, ignored. -/
def Dev.doorbellBad (d : Dev) (c off : Nat) (v : DW) : Dev :=
  (d.count cDbErr).event { code := 0x03, ctx := some c, d4 := dwN off, d5 := v }

/-- A doorbell page answers on a function: PF0 has all pages; a VF only those of its own contexts (R76). -/
def Dev.pageLive (d : Dev) (f c : Nat) : Bool := f == 0 || d.func c == f

/-- SQ_TAIL_WRITE (R76, R82). -/
def sqTailWrite (f c ring : Nat) (v : DW) (d : Dev) : Dev :=
  if !d.pageLive f c then d.count cDbErr
  else
    let x := d.ctx c
    let r := x.sq.getD ring Ring.reset
    if x.st = .opened ∧ ring < x.rings ∧ (v - r.head).toNat ≤ r.size ∧ (v - r.tail).toNat ≤ r.size then
      d.setCtx c { x with sq := x.sq.setIfInBounds ring { r with tail := v } }
    else d.doorbellBad c (8 * ring) v

/-- A head may not pass the tail nor move backward (R82). -/
def headOk (old tail v : DW) : Bool := decide ((v - old).toNat ≤ (tail - old).toNat)

/-- CQ_HEAD_WRITE (R76, R82, R83). -/
def cqHeadWrite (f c : Nat) (v : DW) (d : Dev) : Dev :=
  if !d.pageLive f c then d.count cDbErr
  else
    let x := d.ctx c
    if x.st = .opened ∧ headOk x.cqHead x.cqTail v then d.setCtx c { x with cqHead := v } else d.doorbellBad c 0x100 v

/-- EQ_HEAD_WRITE (R76, R82). -/
def eqHeadWrite (f c : Nat) (v : DW) (d : Dev) : Dev :=
  if !d.pageLive f c then d.count cDbErr
  else
    let x := d.ctx c
    if x.st = .opened ∧ headOk x.eqHead x.eqTail v then d.setCtx c { x with eqHead := v } else d.doorbellBad c 0x108 v

/-- The access is one BAR0 and the doorbell pages accept: 4 or 8 bytes aligned to its size, in the BAR (R77). -/
def barAccessOk (page : Bool) (off size : Nat) : Bool :=
  (size == 4 || size == 8) && off % size == 0 && decide (off < if page then 0x40000 else 0x100000)

/-- BAR_ACCESS_INVALID (R76, R77, R392): an access of another size or alignment reads as zero; such a write is ignored
and counted. A VF sees no setup register: its BAR0 holds doorbell pages only. An access that is none of these has no
effect here. -/
def barAccessInvalid (f : Nat) (page : Bool) (off size : Nat) (write : Bool) (d : Dev) : Dev :=
  let bad := !barAccessOk page off size || (page && !d.pageLive f (off / 4096))
  if !bad then d else if write then d.count cDbErr else d.emitOut (.readData 0)

end Sys2Proof.Machine
end

