-- ==== Sys2Proof/Machine/Op.lean ====
section
/-! DEFINITION. What an operation yields when it has run (R41), the integrity decode of what it read (R331–R333), and the
application of what it wrote. -/

namespace Sys2Proof.Machine

/-- The result of an operation: status, flags, DW4 and DW5, the bytes it writes (sheet handle, offset, bytes), the ranges
it consumed (handle, offset, length), and every other effect. -/
structure Res where
  st    : Status := .done
  flags : BitVec 16 := 0
  r4    : DW := 0
  r5    : DW := 0
  wr    : List (DW × Nat × Bytes) := []
  rdr   : List (DW × Nat × Nat) := []
  /-- outputs that end SET although the operation does not end DONE (R269) -/
  setToo : List DW := []
  post  : Dev → Dev := id

/-- A result that is only a status. -/
def Res.fail (st : Status) : Res := { st := st }

/-- What an operation's chapter says of it, given the jobs of the descriptor. `needs` are input sheets with the bytes they
must hold, checked under R403; `axes` the extents and grains of the rules it accepts (R36); `voidOk` inputs whose VOID does
not end it (R240, R252). -/
structure OpDef where
  kind  : Nat
  /-- no reserved bit of the operation words is set (R7) -/
  resv  : DescWords → Bool
  /-- the fields lie in the ranges its chapter gives -/
  form  : List DescWords → Bool := fun _ => true
  uses  : List DescWords → List Use
  late  : Dev → List DescWords → Option Status := fun _ _ => none
  needs : List DescWords → List (DW × Nat) := fun _ => []
  /-- images read: `late` checks a plain one, its copy is checked once it is PRESENT (R165, R166, R403) -/
  images : List DescWords → List (DW × Nat) := fun _ => []
  axes  : Dev → Desc → Axes := fun _ _ => noAxes
  voidOk : List DescWords → List DW := fun _ => []
  run   : Dev → Desc → Res

/-- Results of jobs in order (R41, R169): the status of highest precedence, flags joined, writes, reads and effects in
turn; DW4 and DW5 are joined by `f4` and `f5`. -/
def Res.join (f4 f5 : DW → DW → DW) (a b : Res) : Res :=
  { st := a.st.join b.st, flags := a.flags ||| b.flags, r4 := f4 a.r4 b.r4, r5 := f5 a.r5 b.r5, wr := a.wr ++ b.wr,
    rdr := a.rdr ++ b.rdr, setToo := a.setToo ++ b.setToo, post := fun d => b.post (a.post d) }

/-- A sum that saturates at 2^32 - 1. -/
def satSum (a b : DW) : DW := dwN (Nat.min (a.toNat + b.toNat) (2 ^ 32 - 1))

/-- An event of a descriptor: its TAG, target and context. -/
def Desc.ev (x : Desc) (code : Nat) (d4 d5 d6 : DW := 0) : Ev :=
  { code := code, tag := x.w.tag, unit := x.w.target, ctx := some x.ctx, d4 := d4, d5 := d5, d6 := d6 }

/-- The plan slot and stage of an injected stage. -/
def Desc.stage? (x : Desc) : Option (Nat × Nat) :=
  match x.origin with
  | .plan s k => some (s, k)
  | .ring _ => none

/-! ## Open values of results (R22) -/

/-- What determines an operation's results: the words that ask for it, its jobs, its level, and the bytes it read. A value its chapter leaves
open depends on these alone, so no other context's load shows in it (R22). -/
def Dev.openKey (d : Dev) (x : Desc) (rdr : List (DW × Nat × Nat)) : List Nat :=
  x.level :: x.jobs.flatMap (fun j => (List.range 10).map (fun k => (j.dw (6 + k)).toNat)) ++
    rdr.flatMap (fun r => (d.rd x r.1 r.2.1 r.2.2).map (·.toNat))

/-- An open integer of 32 bits. -/
def openInt (key : List Nat) (k : Nat) : Int := sext 32 (Config.openValue key k).toNat
/-- An open word. -/
def openWord (key : List Nat) (k : Nat) : DW := (Config.openValue key k).setWidth 32

/-! ## Lines of tracked sheets (R315) -/

/-- A stage of a mirrored firing has written bytes of a sheet: the lines join the delta when `key` is tracked, the sheet
itself or the header of the map it is a region of. -/
def Dev.markLinesOf (d : Dev) (x : Desc) (key h : DW) (off n : Nat) : Dev :=
  match x.stage? with
  | none => d
  | some (slot, stage) =>
    let m := d.mslot slot
    if n = 0 ∨ ¬ m.tracked.contains key ∨ ¬ ((Tab.get? d.plans slot).map (·.mirrored)).getD false then d
    else
      let ls := (List.range ((off + n - 1) / 64 + 1 - off / 64)).map (fun k => (shIdx h, off / 64 + k, stage))
      d.modSlot slot (fun m => { m with lines := m.lines ++ ls.filter (fun l => !m.lines.contains l) })

/-- Lines of an ordinary sheet. -/
def Dev.markLines (d : Dev) (x : Desc) (h : DW) (off n : Nat) : Dev := d.markLinesOf x h h off n

/-- Apply one write of an operation: a press image held in the sheet is no longer there, unless the operation sets it anew. -/
def Dev.applyWr (d : Dev) (x : Desc) (p : DW × Nat × Bytes) : Dev :=
  let i := shIdx p.1
  let d := d.rawWrite i p.2.1 p.2.2
  let d := { d with press := Tab.del d.press i }
  let s := d.sheet i
  let d := if s.ribbon then d.setSheet i { s with rowsDone := Nat.max s.rowsDone (cdiv (p.2.1 + p.2.2.length) s.rowBytes) } else d
  d.markLines x p.1 p.2.1 p.2.2.length

/-! ## Integrity of what is consumed (R332, R333) -/

/-- Tier code of the ECC counters: 1 T1, 2 T2, 3 T3. -/
def eccTier (tier : Nat) : Nat := tier + 1

/-- Count corrections of a tier, and report them at most once a second (R332, FLT_ECC_CE). -/
def Dev.eccCe (d : Dev) (t n : Nat) : Dev :=
  let d := d.count (0x15100 + 8 * t) n
  let since := Tab.getD d.flt.ceSince t 0 + n
  let due : Bool := match Tab.get? d.flt.ceAt t with
    | none => true
    | some a => decide (a + 10 ^ 9 ≤ d.now)
  if due ∧ bitOf (d.reg 0x15000) 16 then
    let d := { d with flt := { d.flt with ceAt := Tab.set d.flt.ceAt t d.now, ceSince := Tab.set d.flt.ceSince t 0 } }
    d.event { code := 0xC0, d4 := dwN t, d5 := dwN since }
  else { d with flt := { d.flt with ceSince := Tab.set d.flt.ceSince t since } }

/-- Queue a line for the scrubber: at most 64 distinct lines; others are dropped and counted (R336). -/
def Dev.queueHint (d : Dev) (at_ : Store) (line : Nat) : Dev :=
  if d.flt.hints.contains (at_, line) then d
  else if d.flt.hints.length ≥ 64 then d.count cFltHintDrop
  else { d with flt := { d.flt with hints := d.flt.hints ++ [(at_, line)] } }

/-- Count and report an uncorrectable word (R333): tier, sheet handle, byte offset, and the descriptor served, if any. -/
def Dev.eccUe (d : Dev) (t : Nat) (h : DW) (off : Nat) (tag : BitVec 16) (c : Option Nat) : Dev :=
  let d := ((((d.count (0x15104 + 8 * t)).setOwn 0x15140 (dwN t)).setOwn 0x15144 h).setOwn 0x15148 (dwN off)).setOwn 0x1514C
    (dwN (off / 2 ^ 32))
  d.event { code := 0xC1, tag := tag, ctx := c, d4 := dwN t, d5 := h, d6 := dwN off }

/-- Where a consumer reads a word: the store whose lines are scrubbed, the code of its tier, the sheet an event names, and whom it
serves. -/
structure Consumer where
  store : Option Store
  tier  : Nat
  sheet : Option Nat
  tag   : BitVec 16
  ctx   : Option Nat

/-- A consumer decodes a word by its syndrome (R332, R333): a correction is counted and its line queued for the scrubber, an uncorrectable
word is counted and reported. The device after, the flag for the descriptor served, and whether the word is unusable. -/
def Dev.eccWord (d : Dev) (u : Consumer) (p : Nat × Byte) : Dev × BitVec 16 × Bool :=
  match (eccSynd 0 p.2).1 with
  | .clean => (d, 0, false)
  | .corrected =>
    let d := d.eccCe u.tier 1
    ((u.store.map (fun s => d.queueHint s (p.1 / 8))).getD d, fEccCorrected, false)
  | .poison => (d, 0, true)
  | .uncorrectable => (d.eccUe u.tier ((u.sheet.map d.handleOf).getD 0) (8 * p.1) u.tag u.ctx, 0, true)

/-- Decode words by their syndromes, in order. -/
def Dev.eccWords (d : Dev) (u : Consumer) (l : List (Nat × Byte)) : Dev × BitVec 16 × Bool :=
  l.foldl (fun acc p =>
    let r := acc.1.eccWord u p
    (r.1, acc.2.1 ||| r.2.1, acc.2.2 || r.2.2)) (d, 0, false)

/-- Decode the words of a range. -/
def Dev.eccRange (d : Dev) (u : Consumer) (synd : Tab Byte) (off n : Nat) : Dev × BitVec 16 × Bool :=
  d.eccWords u (synd.filter (fun p => decide (off / 8 ≤ p.1) && decide (p.1 * 8 < off + n)))

/-- Decode the words a descriptor consumed: ECC_CORRECTED, and whether an unusable word was among them. -/
def Dev.eccDecodeReads (d : Dev) (x : Desc) (rs : List (DW × Nat × Nat)) : Dev × BitVec 16 × Bool :=
  rs.foldl (fun acc r =>
    let (h, off, n) := r
    let i := shIdx h
    let via := x.copies.find? (fun p => p.1 == i)
    let t := ((via.bind (fun p => acc.1.copy? p.2)).map (·.tier)).getD (acc.1.sheet i).tier
    let u : Consumer :=
      { store := some ((via.map (fun p => Store.copy p.2)).getD (.sheet i)), tier := eccTier t, sheet := some i, tag := x.w.tag, ctx := some x.ctx }
    let r := acc.1.eccRange u (acc.1.viewSynd x h) off n
    (r.1, acc.2.1 ||| r.2.1, acc.2.2 || r.2.2)) (d, 0, false)

/-- Decode the words of a home sheet that a unit reads directly (R331). -/
def Dev.eccHome (d : Dev) (i off n : Nat) (tag : BitVec 16) (c : Option Nat) : Dev × BitVec 16 × Bool :=
  d.eccRange { store := some (.sheet i), tier := eccTier (d.sheet i).tier, sheet := some i, tag := tag, ctx := c } (d.sheet i).synd off n

/-- Words of a leaf's margin and their syndromes. -/
def Dev.marginSynd (d : Dev) (l : Nat) : List (Nat × Byte) :=
  (Tab.getD d.flt.margins l []).map (fun p => (p.1, eccCheck p.2.1 ^^^ p.2.2))

/-- Decode the margins of the leaves a descriptor ran on (R12, R331). Which words a part reads there is not said: the model takes every word
it knows (DESIGN CHOICE, log 93). No line is queued, since margins are not patrolled (R336). Their content does not outlive the
descriptor. -/
def Dev.eccMargins (d : Dev) (x : Desc) : Dev × BitVec 16 × Bool :=
  let ls := (x.parts.map (·.leaf)).dedup
  let r := ls.foldl (fun (acc : Dev × BitVec 16 × Bool) l =>
    let r := acc.1.eccWords { store := none, tier := 0, sheet := none, tag := x.w.tag, ctx := some x.ctx } (acc.1.marginSynd l)
    (r.1, acc.2.1 ||| r.2.1, acc.2.2 || r.2.2)) (d, 0, false)
  ({ r.1 with flt := { r.1.flt with margins := r.1.flt.margins.filter (fun p => !ls.contains p.1) } }, r.2)

/-- FINISH of a descriptor whose parts ran on leaves: the latest finish among them (R41). -/
def Desc.finishAt (x : Desc) : Option Nat := if x.parts.isEmpty then none else some (x.parts.foldl (fun n p => Nat.max n p.fin) 0)

/-- Finish a descriptor that has run: decode what it consumed; unless a word was unusable, apply its writes and other
effects (R333, R40: a failed operation delivers nothing through tokens, VOID says so). -/
def Dev.conclude (d : Dev) (x : Desc) (r : Res) : Dev :=
  let a := d.eccDecodeReads x r.rdr
  let b := a.1.eccMargins x
  let d := b.1
  let fl := a.2.1 ||| b.2.1
  if a.2.2 ∨ b.2.2 then d.endDesc x.id { st := .failedUncorrectable, flags := fl, finish := x.finishAt }
  else
    let d := r.post (r.wr.foldl (fun d p => d.applyWr x p) d)
    let d := r.setToo.foldl (fun d h => d.modSheet (shIdx h) (fun s => s.release x.id .done)) d
    d.endDesc x.id { st := r.st, flags := r.flags ||| fl, r4 := r.r4, r5 := r.r5, finish := x.finishAt }

end Sys2Proof.Machine
end

