-- ==== Sys2Proof/Machine/Time.lean ====
section
/-! DEFINITION. The timebase (chapter 05): ticks and the servo (R128–R133), PTP (R135–R138, log 20), captures (R139, R140),
triggers (R141–R144) and the clock mappers (R145–R147). -/

namespace Sys2Proof.Machine

/-- Change the timebase. -/
def Dev.modTb (d : Dev) (f : Tb → Tb) : Dev := { d with tb := f d.tb }

/-- SOURCE: 0 FREE, 1 PTP, 2 PPS. -/
def Dev.tbSource (d : Dev) : Nat := d.regF 0x8000 1 0
/-- LOCK_NS. -/
def Dev.lockNs (d : Dev) : Nat := d.regF 0x8008 31 16
/-- The slew limit LIM of R129. -/
def slewLim (ppm : Nat) : Int := ((ppm * 2 ^ 32 / 10 ^ 6 : Nat) : Int)

/-- One tick of the 250 MHz clock (R128). -/
def tbTick (t : Tb) : Tb :=
  let s : Int := (t.sub.toNat : Int) + (4 * 2 ^ 32 + 4 * t.rate)
  { t with time := t.time + BitVec.ofInt 64 (s / 2 ^ 32), sub := BitVec.ofInt 32 s }

/-! ## Triggers (R141–R144) -/

/-- A trigger output. -/
def Dev.trig (d : Dev) (o : Nat) : Trig := d.tb.trigs.getD o Trig.reset
/-- Replace a trigger output. -/
def Dev.setTrig (d : Dev) (o : Nat) (t : Trig) : Dev := d.modTb (fun b => { b with trigs := b.trigs.setIfInBounds o t })

/-- A schedule outside the ranges of R141, or with a START that R134 refuses. -/
def schedBad (now : Nat) (s : Sched) : Bool :=
  match s.mode with
  | 0 => decide (s.start ≠ 0 ∨ s.period ≠ 0 ∨ s.width ≠ 0)
  | 1 => decide (s.period ≠ 0 ∨ s.width < 20 ∨ 10 ^ 9 < s.width) || !targetOk now s.start
  | 2 => decide (s.period < 1000 ∨ s.width < 20 ∨ s.period < s.width + 20) || !targetOk now s.start
  | _ => true

/-- The first edge START + k·PERIOD at or after a time. -/
def edgeFrom (s : Sched) (t : Nat) : Nat :=
  if s.start ≥ t ∨ s.period = 0 then s.start else s.start + cdiv (t - s.start) s.period * s.period

/-- Drive an output to a level. -/
def Dev.drive (d : Dev) (o : Nat) (level : Bool) : Dev :=
  let t := d.trig o
  if t.level = level then d else (d.setTrig o { t with level := level }).emitOut (.pin o level)

/-- TB_TRIG_LATE of an output: lateness, or edges skipped. -/
def Dev.trigLate (d : Dev) (o late skipped : Nat) : Dev :=
  d.event { code := 0x38, d4 := dwN o, d5 := dwN late, d6 := dwN skipped }

/-- Queue a schedule for an output: installed no earlier than 2 µs after acceptance (R142). -/
def Dev.queueTrig (d : Dev) (o : Nat) (owner : Option Nat) (s : Sched) : Dev :=
  let t := d.trig o
  d.setTrig o { t with queue := t.queue ++ [{ owner := owner, sched := s, at_ := d.now + 2000 }] }

/-- TRIG_INSTALL (R142, R143): the first waiting schedule of an output is installed once 2 µs have passed and no pulse
runs; its TB_TRIGGER completes with the first edge driven. -/
def trigInstall (o : Nat) (d : Dev) : Dev :=
  let t := d.trig o
  match t.queue with
  | [] => d
  | q :: rest =>
    if d.now < q.at_ ∨ t.pulse.isSome then d
    else
      let s := q.sched
      let first : Option Nat := match s.mode with
        | 1 => some (Nat.max s.start d.now)
        | 2 => some (edgeFrom s d.now)
        | _ => none
      let d := d.setTrig o { t with cur := s, next := first, queue := rest }
      let d := d.setOwn (0x8200 + 32 * o) 0
      let d := d.drive o s.low
      let d := if s.mode = 1 ∧ s.start < d.now then d.trigLate o (d.now - s.start) 0 else d
      match q.owner with
      | some id => d.endDesc id { st := .done, r4 := dwN (first.getD 0), r5 := dwN (first.getD 0 / 2 ^ 32) }
      | none => d

/-- TRIG_EDGE (R142): the trailing edge of the running pulse, else the next leading edge, when it has fallen due. Edges
whose whole pulse has passed are skipped; an edge driven a clock tick or more late is reported. -/
def trigEdge (o : Nat) (d : Dev) : Dev :=
  let t := d.trig o
  match t.pulse with
  | some e =>
    if d.now < e then d
    else
      let d := (d.setTrig o { t with pulse := none }).drive o t.cur.low
      if d.now ≥ e + 4 then d.trigLate o (d.now - e) 0 else d
  | none =>
    match t.next with
    | none => d
    | some e =>
      if d.now < e then d
      else
        let n := if t.cur.mode = 2 ∧ e + t.cur.width ≤ d.now then (d.now - (e + t.cur.width)) / t.cur.period + 1 else 0
        if n > 0 then (d.setTrig o { t with next := some (e + n * t.cur.period) }).trigLate o 0 n
        else
          let nx := if t.cur.mode = 2 then some (e + t.cur.period) else none
          -- an edge driven late keeps its trailing edge WIDTH_NS after the leading edge as placed
          let d := (d.setTrig o { t with next := nx, pulse := some (e + t.cur.width) }).drive o (!t.cur.low)
          if d.now ≥ e + 4 then d.trigLate o (d.now - e) 0 else d

/-- TB_TRIG_MODE_WRITE before the lock (R142, TB_TRIG table): a register set that breaks R141 is not installed and MODE
reads 0. -/
def tbTrigModeWrite (o : Nat) (v : DW) (d : Dev) : Dev :=
  if d.locked then d
  else
    let b := 0x8200 + 32 * o
    let s : Sched :=
      { mode := bits v 1 0, low := bitOf v 2, start := (d.own (b + 8)).toNat + 2 ^ 32 * (d.own (b + 12)).toNat,
        period := (d.own (b + 16)).toNat, width := (d.own (b + 20)).toNat }
    if schedBad d.now s then d.setOwn b 1 else (d.setOwn b 0).queueTrig o none s

/-- An installed schedule moves onto the new time (R144): periodic edges in between are skipped, a passed one-shot fires
at once; either raises TB_TRIG_LATE. -/
def Dev.stepTrig (d : Dev) (o old : Nat) : Dev :=
  let t := d.trig o
  match t.next with
  | none => d
  | some e =>
    if d.now ≤ e then d
    else if t.cur.mode = 2 then
      let e' := edgeFrom t.cur d.now
      (d.setTrig o { t with next := some e' }).trigLate o 0 ((e' - e) / t.cur.period)
    else if e < old then d
    else (d.setTrig o { t with next := some d.now }).trigLate o (d.now - e) 0

/-! ## Stepping and the servo (R129–R133) -/

/-- The stamps and times a port keeps, moved by a step. -/
def PtpPort.shift (x : PtpPort) (n : Nat) : PtpPort :=
  let m (t : Option Nat) : Option Nat := t.map (· + n)
  { x with best := x.best.map (fun b => (b.1, b.2.1, b.2.2 + n)), t1 := m x.t1, t4 := m x.t4, lastT3T4 := x.lastT3T4.map (fun p => (p.1, p.2 + n)),
           sync := x.sync.map (fun s => (s.1, s.2.1 + n, s.2.2)), lastSync := m x.lastSync, reqRx := x.reqRx.map (fun r => (r.1, r.2.1, r.2.2 + n)),
           slaveAt := x.slaveAt + n, syncAt := m x.syncAt, pdAt := m x.pdAt, annAt := m x.annAt }

/-- Device time is stepped forward (R130, R144): counted, reported, mappers reset, schedules moved; the waits of the timebase itself go on
as long as before (R133; DESIGN CHOICE, log 102). -/
def Dev.stepTime (d : Dev) (delta : Nat) : Dev :=
  let old := d.now
  let d := d.modTb (fun t =>
    { t with time := t.time + BitVec.ofNat 64 delta, stepCnt := t.stepCnt + 1, stepped := true, good := 0,
             maps := [],
             lastMeas := t.lastMeas.map (· + delta), ppsLast := t.ppsLast + delta, ports := t.ports.map (fun x => x.shift delta) })
  let d := { d with descs := d.descs.map (fun (x : Desc) => match x.await_ with
    | .pps t l => { x with await_ := .pps t (l + delta) }
    | _ => x) }
  let d := (List.range 9).foldl (fun d o => d.stepTrig o old) d
  d.event { code := 0x31, d4 := dwN delta, d5 := dwN (delta / 2 ^ 32) }

/-- VALID becomes 1, once (R131). -/
def Dev.tbValid (d : Dev) : Dev :=
  if d.tb.valid then d
  else (d.modTb (fun t => { t with valid := true })).event { code := 0x30, d4 := dwN d.tbSource }

/-- The servo's update for an offset and an interval, and the rate applied (R129). -/
def servo (lim : Int) (tauMs : Nat) (o dt : Int) (t : Tb) : Tb :=
  let oc := clampI o (-(2 ^ 30)) (2 ^ 30)
  let freq := clampI (t.freq - ((oc * 2 ^ 32).tdiv dt).tdiv 16) (-lim) lim
  let phase := -((oc * 2 ^ 32).tdiv (tauMs * 1000000))
  let s := freq + phase
  { t with freq := freq, rate := clampI s (-lim) lim, sat := decide (s < -lim ∨ lim < s) }

/-- One offset measurement, device minus source (R129–R132): holdover ends; before lock the PTP servo steps a device that
is behind; else the servo slews; four in a row within LOCK_NS after a step make device time VALID. An offset that a holdover left is slewed
away, never stepped, until a measurement lies within LOCK_NS (R132). -/
def Dev.measure (d : Dev) (o : Int) : Dev :=
  let was := d.tb.holdover
  let inLock := decide (-(d.lockNs : Int) ≤ o ∧ o ≤ d.lockNs)
  let d := d.modTb (fun t => { t with offset := satS 32 o, holdover := false })
  let d := if was then d.event { code := 0x32, d4 := 0, d5 := dwI (satS 32 o) } else d
  if !d.tb.valid && !d.tb.slewOnly && d.tbSource == 1 && decide (o < -(d.lockNs : Int)) then
    (d.stepTime (-o).toNat).modTb (fun t => { t with lastMeas := some t.time.toNat })
  else
    let d := match d.tb.lastMeas with
      | some m => if d.now > m then
          d.modTb (servo (slewLim (d.regF 0x8008 8 0)) (d.regF 0x800C 15 0) o ((d.now : Int) - m)) else d
      | none => d
    let d := d.modTb (fun t => { t with lastMeas := some t.time.toNat })
    let d := d.modTb (fun t => { t with good := if inLock && t.stepped then t.good + 1 else 0, slewOnly := t.slewOnly && !inLock })
    if d.tb.good ≥ 4 then d.tbValid else d

/-- Holdover begins: RATE = FREQ (R132). -/
def Dev.enterHoldover (d : Dev) : Dev :=
  if d.tb.holdover then d
  else (d.modTb (fun t => { t with holdover := true, rate := t.freq, slewOnly := true })).event { code := 0x32, d4 := 1 }

/-- Nanoseconds of a PTP interval of 2^l seconds. -/
def logNs (l : Int) : Nat := if l < 0 then 10 ^ 9 / 2 ^ (-l).toNat else 10 ^ 9 * 2 ^ l.toNat

/-- The Sync interval of a port: LOG_SYNC of TB_PORT, or what its neighbour asked for. -/
def Dev.syncNs (d : Dev) (p : Nat) : Nat :=
  logNs ((d.tb.ports.getD p PtpPort.reset).logSync.getD (sext 8 (d.regF (0x8040 + 8 * p) 15 8)))

/-- The Pdelay_Req interval of a port: LOG_PDELAY of TB_PORT, or what its neighbour asked for. -/
def Dev.pdNs (d : Dev) (p : Nat) : Nat :=
  logNs ((d.tb.ports.getD p PtpPort.reset).logPd.getD (sext 8 (d.regF (0x8040 + 8 * p) 23 16)))

/-- HOLDOVER_ENTRY (R132): under PTP the slave port has had no Sync for three of its intervals, by LOG_SYNC, since the last or since it
became SLAVE; under PPS no edge for 1.5 s, since the last or since device reset (DEDUCED, log 103). -/
def holdoverEntry (d : Dev) : Dev :=
  if d.tbSource = 1 then
    match (List.range 8).find? (fun p => (d.tb.ports.getD p PtpPort.reset).st == .slave) with
    | some p =>
      let q := d.tb.ports.getD p PtpPort.reset
      if Nat.max (q.lastSync.getD 0) q.slaveAt + 3 * logNs (sext 8 (d.regF (0x8040 + 8 * p) 15 8)) ≤ d.now then d.enterHoldover else d
    | none => d
  else if d.tbSource = 2 ∧ d.tb.ppsLast + 1500000000 ≤ d.now then d.enterHoldover
  else d

/-- The checks of TB_STEP beyond R16 and R17 (R133). -/
def Dev.checkTbStep (d : Dev) (w : DescWords) : Option Status :=
  let t := w.q 6
  let pps := bitOf (w.dw 8) 0
  if w.target ≠ hTimebase then some .refusedMalformed
  else if d.tb.valid ∨ d.tbSource = 1 then some .refusedDisabled
  else if pps ∧ (d.tbSource ≠ 2 ∨ t % 10 ^ 9 ≠ 0) then some .refusedMalformed
  else if ¬ pps ∧ t ≤ d.now then some .refusedMalformed else none

/-- An accepted TB_STEP: applied at once, or waiting for the next PPS edge for up to 2 s (R133). -/
def Dev.runTbStep (d : Dev) (x : Desc) : Dev :=
  let t := x.w.q 6
  if bitOf (x.w.dw 8) 0 then
    d.modDesc x.id (fun y => { y with await_ := .pps (BitVec.ofNat 64 t) (d.now + 2000000000) })
  else
    let delta := t - d.now
    let d := d.stepTime delta
    let d := if d.tbSource = 0 then d.tbValid else d
    d.endDesc x.id { st := .done, r4 := dwN delta, r5 := dwN (delta / 2 ^ 32) }

/-- A TB_STEP has waited for an edge to its limit. -/
def Dev.ppsLate (d : Dev) (x : Desc) : Bool :=
  match x.await_ with
  | .pps _ l => decide (l ≤ d.now)
  | _ => false

/-- TB_STEP_PPS_TIMEOUT (R133): a TB_STEP that has waited 2 s for an edge. -/
def tbStepPpsTimeout (d : Dev) : Dev :=
  (d.descs.filter d.ppsLate).foldl (fun d x => d.endDesc x.id { st := .failedTimeout }) d

/-- The steps that wait for this PPS edge are applied (R133). -/
def Dev.applyPps (d : Dev) : Dev :=
  d.descs.foldl (fun d x =>
    match x.await_ with
    | .pps t _ =>
      if d.tb.valid then d.endDesc x.id { st := .refusedDisabled }
      else if t.toNat ≤ d.now then d.endDesc x.id { st := .refusedMalformed }
      else
        let delta := t.toNat - d.now
        (d.stepTime delta).endDesc x.id { st := .done, r4 := dwN delta, r5 := dwN (delta / 2 ^ 32) }
    | _ => d) d

/-! ## Captures (R139, R140) -/

/-- Landing state of a sensor. -/
def Dev.landing (d : Dev) (s : Nat) : Landing := Tab.getD d.sns.landing s Landing.reset
/-- Replace it. -/
def Dev.setLanding (d : Dev) (s : Nat) (l : Landing) : Dev :=
  { d with sns := { d.sns with landing := Tab.put Landing.reset d.sns.landing s l } }

/-- An edge that comes less than 100 ns after the last stamped one on its pin is not stamped (R139). -/
def Dev.edgeClose (d : Dev) (n : Nat) : Bool :=
  let c := d.tb.caps.getD n Cap.reset
  c.any && decide (d.now < c.last.toNat + 100)

/-- Stamp an edge on a capture pin (R139): LAST and COUNT; and for an edge of the pin's polarity TB_CAPTURE and the sensor it serves
(R140). -/
def Dev.stampEdge (d : Dev) (n : Nat) (mine : Bool) : Dev :=
  let c := d.tb.caps.getD n Cap.reset
  let d := d.modTb (fun t =>
    { t with caps := t.caps.setIfInBounds n { c with count := c.count + 1, last := t.time, any := true } })
  let s := d.regF (0x8080 + 16 * n) 15 8
  let d := if mine ∧ ownSensor s then
      let l := d.landing s
      d.setLanding s { l with edges := d.now :: l.edges }
    else d
  if mine ∧ bitOf (d.reg (0x8080 + 16 * n)) 2 then d.event { code := 0x36, d4 := dwN n, time := some d.now } else d

/-- Count an edge that is not stamped. -/
def Dev.missEdge (d : Dev) (n : Nat) : Dev :=
  let c := d.tb.caps.getD n Cap.reset
  d.modTb (fun t => { t with caps := t.caps.setIfInBounds n { c with ovr := c.ovr + 1 } })

/-- CAP_EDGE (R133, R137, R139, R140): an edge on a capture pin is stamped where EDGE takes its polarity. Under SOURCE = PPS the edge of
PPS_IN that marks the second is stamped whatever EDGE says, and feeds the servo: it applies a waiting step, or is a measurement against
the nearest whole second. -/
def capEdge (n : Nat) (rising : Bool) (d : Dev) : Dev :=
  let e := d.regF (0x8080 + 16 * n) 1 0
  let mine := e == 3 || (rising && e == 1) || (!rising && e == 2)
  let marks : Bool := n == 8 && d.tbSource == 2 && rising == !(bitOf (d.reg 0x8000) 2)
  if !mine && !marks then d
  else if d.edgeClose n then d.missEdge n
  else
    let d := d.stampEdge n mine
    if !marks then d
    else
      let d := d.modTb (fun t => { t with ppsLast := t.time.toNat })
      if d.descs.any (fun x => match x.await_ with | .pps _ _ => true | _ => false) then d.applyPps
      else d.measure ((((d.now + 500000000) % 1000000000 : Nat) : Int) - 500000000)

/-! ## TB_TRIGGER -/

/-- The schedule a TB_TRIGGER carries. -/
def trigSched (w : DescWords) : Sched :=
  { mode := w.f 6 5 4, low := bitOf (w.dw 6) 6, start := w.q 8, period := (w.dw 10).toNat, width := (w.dw 11).toNat }

/-- The checks of TB_TRIGGER beyond R16 and R17 (R141). -/
def Dev.checkTbTrigger (d : Dev) (w : DescWords) : Option Status :=
  if w.target ≠ hTimebase ∨ w.f 6 3 0 > 8 ∨ schedBad d.now (trigSched w) then some .refusedMalformed else none

/-- An accepted TB_TRIGGER queues its schedule and waits for its installation (R142, R143). -/
def Dev.runTbTrigger (d : Dev) (x : Desc) : Dev :=
  (d.modDesc x.id (fun y => { y with phase := .dispatched })).queueTrig (x.w.f 6 3 0) (some x.id) (trigSched x.w)

/-! ## The per-sensor clock mapper (R145–R147) -/

/-- What the mapper makes of a unit: MAPPED, TIME_SUSPECT, and whether it locked or quarantined the sensor. -/
structure Mapped where
  m       : Mapper
  time    : Nat
  suspect : Bool
  quarantined : Bool
  lockedNow   : Bool

/-- `map_unit` of R145 with its parameters. -/
def mapUnit (tickPs latNs periodUs tolUs alpha beta maxPpm : Nat) (m : Mapper) (tick arrival : QW) : Mapped :=
  let obs : Int := (BitVec.ofNat 64 (arrival.toNat + 2 ^ 64 - latNs)).toInt
  let bail (m : Mapper) (q : Bool) : Mapped :=
    { m := m, time := arrival.toNat, suspect := true, quarantined := q, lockedNow := false }
  if !m.hasRef then
    bail { m with refNs := BitVec.ofInt 64 obs, refTick := tick, hasRef := true, cnt := 0 } false
  else
    let dtick : Int := (tick - m.refTick).toInt
    let dns0 : Int := (dtick * tickPs) / 1000
    let dns := dns0 + asr (dns0 * m.rate) 32
    let pred := m.refNs.toInt + dns
    let r := obs - pred
    let m := { m with residual := satS 32 r }
    let bad := if m.st = .locked then decide (r.natAbs > periodUs * 1000) else decide (r.natAbs > tolUs * 1000)
    if bad then
      bail { m with st := if m.st = .locked then .quarantined else m.st, cnt := 0, refNs := BitVec.ofInt 64 obs,
                    refTick := tick } (m.st == .locked)
    else
      let lim := slewLim maxPpm
      let rc := clampI r (-(2 ^ 30)) (2 ^ 30)
      let m := { m with refNs := BitVec.ofInt 64 (pred + asr rc alpha), refTick := tick }
      let m := if dns > 0 then { m with rate := clampI (m.rate + asr ((rc * 2 ^ 32).tdiv dns) beta) (-lim) lim } else m
      if m.st = .locked then
        { m := m, time := m.refNs.toNat, suspect := false, quarantined := false, lockedNow := false }
      else
        let m := { m with cnt := m.cnt + 1 }
        if m.cnt < 8 then bail m false
        else { m := { m with st := .locked }, time := m.refNs.toNat, suspect := false, quarantined := false, lockedNow := true }

/-- MAPPED and TIME_SUSPECT of a unit of an own sensor (R112, R145, R146): MODE 0 or no stamp gives ARRIVAL. -/
def Dev.mapStamp (d : Dev) (s : Nat) (stamp arrival : QW) (seq : DW) : Dev × Nat × Bool :=
  let b := 0x8400 + 32 * s
  if stamp = 0 ∨ ¬ bitOf (d.reg b) 0 then (d, arrival.toNat, false)
  else
    let r := mapUnit (d.reg (b + 4)).toNat (d.reg (b + 8)).toNat (d.regF (b + 12) 19 0) (d.regF (b + 16) 19 0)
      (d.regF b 7 4) (d.regF b 11 8) (d.regF b 29 16) (Tab.getD d.tb.maps s Mapper.reset) stamp arrival
    let d := d.modTb (fun t => { t with maps := Tab.put Mapper.reset t.maps s r.m })
    let d := if r.quarantined then d.event { code := 0x34, d4 := dwN s, d5 := dwI r.m.residual, d6 := seq } else d
    let d := if r.lockedNow then d.event { code := 0x35, d4 := dwN s, d6 := seq } else d
    (d, r.time, r.suspect)

/-! ## PTP (R135–R138). What IEEE 802.1AS fixes and the spec only names is PRESUMED: log 20. -/

/-- A PTP port. -/
def Dev.ptp (d : Dev) (p : Nat) : PtpPort := d.tb.ports.getD p PtpPort.reset
/-- Replace a PTP port. -/
def Dev.setPtp (d : Dev) (p : Nat) (x : PtpPort) : Dev := d.modTb (fun t => { t with ports := t.ports.setIfInBounds p x })
/-- PTP_EN of a port; a port the variant lacks has none (R395). -/
def Dev.ptpOn (d : Dev) (p : Nat) : Bool := bitOf (d.reg (0x8040 + 8 * p)) 0

/-- The device's clock identity: the EUI-64 of port T1E0's address. -/
def Dev.clockId (d : Dev) : BitVec 64 :=
  let lo := (d.reg 0x4204).toNat
  let hi := d.regF 0x4208 15 0
  let b (k : Nat) : Nat := if k < 4 then lo / 2 ^ (8 * k) % 256 else hi / 2 ^ (8 * (k - 4)) % 256
  BitVec.ofNat 64 (b 0 * 2 ^ 56 + b 1 * 2 ^ 48 + b 2 * 2 ^ 40 + 0xFFFE * 2 ^ 24 + b 3 * 2 ^ 16 + b 4 * 2 ^ 8 + b 5)

/-- The identity of a port: its number counts from 1. -/
def Dev.portId (d : Dev) (p : Nat) : PtpId := { clock := d.clockId, port := BitVec.ofNat 16 (p + 1) }

/-- A priority vector as one number, smaller is better: priority1, quality, priority2, grandmaster, steps. -/
def ptpKey (v : PtpPrio) : Nat :=
  (((v.priority1.toNat * 2 ^ 32 + v.quality.toNat) * 2 ^ 8 + v.priority2.toNat) * 2 ^ 64 + v.gmClock.toNat) * 2 ^ 16 +
    v.steps.toNat

/-- The device's own vector; without GM_CAPABLE it advertises priority1 = 255 (R136). -/
def Dev.ownPrio (d : Dev) : PtpPrio :=
  { priority1 := if bitOf (d.reg 0x8034) 24 then BitVec.ofNat 8 (d.regF 0x8034 15 8) else 255, quality := 0xF8FE436A,
    priority2 := BitVec.ofNat 8 (d.regF 0x8034 23 16), gmClock := d.clockId, steps := 0 }

/-- The port that becomes SLAVE: the lowest of ROLE SLAVE, else the BMCA port with the best Announce that beats the
device's own vector. -/
def Dev.slavePick (d : Dev) : Option Nat :=
  let on := (List.range 8).filter d.ptpOn
  match on.find? (fun p => d.regF (0x8040 + 8 * p) 2 1 == 2) with
  | some p => some p
  | none =>
    let cands := on.filter (fun p => d.regF (0x8040 + 8 * p) 2 1 == 0 &&
      (match (d.ptp p).best with | some b => decide ((ptpKey b.1) < (ptpKey d.ownPrio)) | none => false))
    let key (p : Nat) : Nat := ((d.ptp p).best.map (fun b => (ptpKey b.1))).getD 0
    bestBy (fun a b => decide (key a < key b)) cands

/-- The state each port should have. Without GM_CAPABLE the device never becomes grandmaster: with no port to take time from, none of its
ports is MASTER (R136). -/
def Dev.ptpWant (d : Dev) (p : Nat) : PtpSt :=
  let role := d.regF (0x8040 + 8 * p) 2 1
  if !d.ptpOn p then .disabled
  else if d.slavePick = some p then .slave
  else if role = 2 then .passive
  else if role = 1 then (if d.slavePick.isSome ∨ bitOf (d.reg 0x8034) 24 then .master else .passive)
  else
    match d.slavePick, (d.ptp p).best with
    | none, _ => if bitOf (d.reg 0x8034) 24 then .master else .passive
    | some s, some b =>
      let up := (((d.ptp s).best.map (fun x => (ptpKey x.1) + 1)).getD (ptpKey d.ownPrio))
      if (ptpKey b.1) ≤ up then .passive else .master
    | some _, none => .master

/-- Code of a port state in TB_PTP_PORT. -/
def PtpSt.code : PtpSt → Nat
  | .disabled => 0 | .master => 1 | .slave => 2 | .passive => 3

/-- Recompute the port states; a change raises TB_PTP_PORT (R136). -/
def Dev.ptpStates (d : Dev) : Dev :=
  ((List.range 8).map (fun p => (p, d.ptpWant p))).foldl (fun d q =>
    let x := d.ptp q.1
    if x.st = q.2 then d
    else
      (d.setPtp q.1 { x with st := q.2, slaveAt := if q.2 = .slave then d.now else x.slaveAt, best := if q.2 = .disabled then none else x.best }).event
        { code := 0x37, d4 := dwN (q.1 + q.2.code * 16) }) d

/-- An offset measured on a port: receive stamp less origin, correction and mean link delay. -/
def Dev.ptpOffset (d : Dev) (p : Nat) (rx : Nat) (origin : QW) (corr : Int) : Dev :=
  match (d.ptp p).meanDelay with
  | none => d
  | some md => if d.tbSource = 1 then d.measure ((rx : Int) - (origin.toNat + corr / 65536 + md)) else d

/-- PTP_MESSAGE_RX (R135–R137). -/
def ptpMessageRx (p : Nat) (m : PtpMsg) (d : Dev) : Dev :=
  if !d.ptpOn p then d.count cEthDrop
  else if m.domain.toNat ≠ d.regF 0x8034 7 0 then d
  else
    let x := d.ptp p
    let rx := d.now - d.regF (0x8044 + 8 * p) 15 0
    let mine (i : PtpId) : Bool := i == d.portId p
    match m.body with
    | .sync twoStep origin corr =>
      if x.st ≠ .slave then d
      else
        let d := d.setPtp p { x with lastSync := some d.now, sync := if twoStep then some (m.seq, rx, corr) else none }
        if twoStep then d else d.ptpOffset p rx origin corr
    | .followUp origin corr =>
      match x.sync with
      | some (sq, r, c) =>
        if x.st = .slave ∧ sq = m.seq then (d.setPtp p { x with sync := none }).ptpOffset p r origin (corr + c) else d
      | none => d
    | .pdelayReq => d.setPtp p { x with reqRx := some (m.seq, m.source, rx) }
    | .pdelayResp t2 who =>
      if mine who ∧ m.seq = x.reqSeq ∧ x.t1.isSome then
        d.setPtp p { x with t4 := some rx, t2 := some t2.toNat } else d
    | .pdelayRespFollowUp t3 who =>
      match x.t1, x.t2, x.t4 with
      | some t1, some t2, some t4 =>
        if mine who ∧ m.seq = x.reqSeq then
          let ratio : Int := match x.lastT3T4 with
            | some (a, b) => if t4 > b then ((((t3.toNat : Int) - a) - ((t4 : Int) - b)) * 2 ^ 32).tdiv ((t4 : Int) - b) else x.ratio
            | none => x.ratio
          let turn : Int := (t4 : Int) - t1
          let md := (turn + asr (turn * ratio) 32 - ((t3.toNat : Int) - t2)) / 2
          d.setPtp p { x with t1 := none, t2 := none, t4 := none, lastT3T4 := some (t3.toNat, t4), ratio := ratio,
                              meanDelay := some md }
        else d
      | _, _, _ => d
    | .announce prio =>
      let better := match x.best with
        | some (b, who, _) => who == m.source || decide ((ptpKey prio) < (ptpKey b))
        | none => true
      if better then (d.setPtp p { x with best := some (prio, m.source, d.now) }).ptpStates else d
    | .signaling lp ls =>
      d.setPtp p { x with logPd := if -3 ≤ lp ∧ lp ≤ 3 then some lp else x.logPd, logSync := if -7 ≤ ls ∧ ls ≤ 0 then some ls else x.logSync }

/-- A transmit stamp enters its queue of 64, or is dropped, counted and reported (R138). -/
def Dev.pushStamp (d : Dev) (p sid : Nat) (stamp : Nat) : Dev × Bool :=
  if d.tb.txq.length ≥ 64 then
    let was := d.tb.txOvf
    let d := d.modTb (fun t => { t with txDrop := t.txDrop + 1, txOvf := true })
    (if was then d else d.event { code := 0x33, d4 := dwN p, d5 := dwN sid }, false)
  else (d.modTb (fun t => { t with txq := t.txq ++ [(BitVec.ofNat 16 sid, p, stamp)] }), true)

/-- The priority vector a port announces: that of the port the device takes time from, one step on, else its own (R136). -/
def Dev.annPrio (d : Dev) : PtpPrio :=
  match d.slavePick.bind (fun p => (d.ptp p).best) with
  | some b => { b.1 with steps := b.1.steps + 1 }
  | none => d.ownPrio

/-- An interval has passed since a message of its kind was last sent. -/
def Dev.due (d : Dev) (last : Option Nat) (ns : Nat) : Bool := (last.map (fun t => decide (t + ns ≤ d.now))).getD true

/-- PTP_MESSAGE_TX (R135, R136, R138): an event message that is due is sent and stamped; with its stamp queued the follow-up goes out, with
its stamp dropped the exchange is not used. Sync and Pdelay_Req keep the port's intervals, a Pdelay_Resp answers the request received;
Announce goes out once a second on a MASTER port, and a Signaling asks for the port's own intervals (PRESUMED, log 20). -/
def ptpMessageTx (p : Nat) (k : PtpTxKind) (d : Dev) : Dev :=
  if !d.ptpOn p then d
  else
    let x := d.ptp p
    let stamp := d.now + d.regF (0x8044 + 8 * p) 31 16
    let dom : Byte := BitVec.ofNat 8 (d.regF 0x8034 7 0)
    let send (d : Dev) (seq : BitVec 16) (b : PtpBody) : Dev :=
      d.emitOut (.ptp p { domain := dom, seq := seq, source := d.portId p, body := b })
    match k with
    | .sync =>
      if x.st ≠ .master ∨ ¬ d.due x.syncAt (d.syncNs p) then d
      else
        let d := send (d.setPtp p { x with seqSync := x.seqSync + 1, syncAt := some d.now }) x.seqSync (.sync true 0 0)
        let (d, ok) := d.pushStamp p (x.seqSync.toNat % 2 ^ 14) stamp
        if ok then send d x.seqSync (.followUp (BitVec.ofNat 64 stamp) 0) else d
    | .pdelayReq =>
      if !d.due x.pdAt (d.pdNs p) then d
      else
        let d := send d x.seqPd .pdelayReq
        let (d, ok) := d.pushStamp p (2 ^ 14 + x.seqPd.toNat % 2 ^ 14) stamp
        let x := d.ptp p
        d.setPtp p { x with seqPd := x.seqPd + 1, reqSeq := x.seqPd, pdAt := some d.now, t1 := if ok then some stamp else none, t2 := none, t4 := none }
    | .pdelayResp =>
      match x.reqRx with
      | none => d
      | some (seq, who, t2) =>
        let d := send (d.setPtp p { x with reqRx := none }) seq (.pdelayResp (BitVec.ofNat 64 t2) who)
        let (d, ok) := d.pushStamp p (2 * 2 ^ 14 + seq.toNat % 2 ^ 14) stamp
        if ok then send d seq (.pdelayRespFollowUp (BitVec.ofNat 64 stamp) who) else d
    | .announce =>
      if x.st ≠ .master ∨ ¬ d.due x.annAt (10 ^ 9) then d
      else send (d.setPtp p { x with seqAnn := x.seqAnn + 1, annAt := some d.now }) x.seqAnn (.announce d.annPrio)
    | .signaling =>
      send (d.setPtp p { x with seqSig := x.seqSig + 1 }) x.seqSig
        (.signaling (sext 8 (d.regF (0x8040 + 8 * p) 23 16)) (sext 8 (d.regF (0x8040 + 8 * p) 15 8)))

/-- PTP_ANNOUNCE_TIMEOUT (R136): no Announce for three intervals of 1 s; the stored one is forgotten. -/
def ptpAnnounceTimeout (p : Nat) (d : Dev) : Dev :=
  let x := d.ptp p
  match x.best with
  | some (_, _, t) => if t + 3000000000 ≤ d.now then (d.setPtp p { x with best := none }).ptpStates else d
  | none => d

/-- The slave port went down: holdover under PTP (R132). -/
def Dev.ptpLinkDown (d : Dev) (p : Nat) : Dev :=
  if d.tbSource = 1 ∧ (d.ptp p).st = .slave then d.enterHoldover else d

/-- The idle step: one tick of the timebase clock; the binder drains one transmit stamp (log 21, log 22). -/
def Dev.idle (d : Dev) : Dev := d.modTb (fun t => let t := tbTick t; { t with txq := t.txq.drop 1 })

/-- TB_TIME_LO_READ (R398): the read returns TIME_LO, or a whole time for a 64-bit read, and latches HI and FRAC. -/
def tbTimeLoRead (wide : Bool) (d : Dev) : Dev :=
  let t := d.tb
  let d := d.modTb (fun t => { t with hiLatch := t.time.extractLsb' 32 32, frLatch := t.sub.extractLsb' 16 16 })
  d.emitOut (.readData (if wide then t.time else BitVec.ofNat 64 (t.time.toNat % 2 ^ 32)))

end Sys2Proof.Machine
end

