-- ==== Sys2Proof/Machine/Parse.lean ====
section
/-! DEFINITION. Field extraction from sensor payloads: parser rules (R117), parsed points and records, and the configured
check (R118). -/

namespace Sys2Proof.Machine

/-- Bits `[hi:lo]` of a number. -/
def nbits (n hi lo : Nat) : Nat := n / 2 ^ lo % 2 ^ (hi + 1 - lo)

/-- A big-endian number. -/
def beNat (b : Bytes) : Nat := b.foldl (fun n x => 256 * n + x.toNat) 0

/-- The 16 rules of a parser. -/
def Dev.rules (d : Dev) (p : Nat) : List Nat :=
  (List.range 16).map (fun k =>
    let o := 0x5000 + 0x100 * p + 0x10 + 8 * k
    (d.reg o).toNat + 2 ^ 32 * (d.reg (o + 4)).toNat)

/-- TARGET of a rule, and whether it is a point rule. -/
def ruleTarget (r : Nat) : Nat := nbits r 31 27
def rulePoint (r : Nat) : Bool := nbits r 26 26 == 1

/-- A rule of a reserved TARGET, of a target of the other kind, or a disabled rule whose word is not zero (R117, rule
target table). -/
def ruleBad (r : Nat) : Bool :=
  let t := ruleTarget r
  if t = 0 then r != 0
  else if t ≤ 3 ∨ (0x10 ≤ t ∧ t ≤ 0x17) then rulePoint r
  else if t ≤ 0x0A then !rulePoint r else true

/-- Evaluate a rule on bytes (R117): the scaled value before narrowing, none when its bytes run past their end. -/
def ruleEval (b : Bytes) (r : Nat) : Option Int :=
  let src := nbits r 11 0
  let bit := nbits r 17 12
  let w := nbits r 23 18 + 1
  let n := (bit + w + 7) / 8
  if bit + w > 64 ∨ src + n > b.length then none
  else
    let l := (b.drop src).take n
    let v := if nbits r 25 25 = 1 then beNat l else leNat l
    let f := v / 2 ^ bit % 2 ^ w
    let x : Int := if nbits r 24 24 = 1 then sext w f else (f : Int)
    some (rshr (x * sext 24 (nbits r 55 32)) (nbits r 61 56))

/-- Saturate to `w` unsigned bits. -/
def satU (w : Nat) (x : Int) : Nat := (clampI x 0 (2 ^ w - 1 : Nat)).toNat

/-- What a parser takes from a payload. -/
structure Parsed where
  stamp : QW := 0
  count : Option Nat := none
  msg   : DW := 0
  meas  : Vector Int 8 := Vector.replicate 8 0
  /-- the first failing rule -/
  err   : Option Nat := none
  /-- a header rule failed, or the parser is bad: nothing is parsed -/
  dead  : Bool := false
  points : List Bytes := []

/-- The header rules of a parser (R117). -/
def headerRules (rules : List Nat) (b : Bytes) : Parsed :=
  foldIdx (fun k (a : Parsed) r =>
    if rulePoint r ∨ ruleTarget r = 0 then a
    else
      match ruleEval b r with
      | none => { a with err := some (a.err.getD k), dead := true }
      | some x =>
        let t := ruleTarget r
        if t = 1 then { a with stamp := BitVec.ofNat 64 (satU 64 x) }
        else if t = 2 then { a with count := some (satU 32 x) }
        else if t = 3 then { a with msg := dwN (satU 32 x) }
        else { a with meas := a.meas.setIfInBounds (t - 0x10) (satS 64 x) }) 0 {} rules

/-- A point being filled. -/
structure Pt where
  c0 : DW := 0
  c1 : DW := 0
  c2 : DW := 0
  time : Nat := 0
  inten : Nat := 0
  ring : Nat := 0
  valid : Bool := true
  err : Option Nat := none

/-- One point rule applied (R117): a rule past the unit gives zero and makes the point invalid; so does a POINT_TIME outside its range, which
leaves TIME_OFS the free word `fv`. -/
def pointRule (polar : Bool) (b : Bytes) (fv : Nat) (k : Nat) (p : Pt) (r : Nat) : Pt :=
  if !rulePoint r then p
  else
    let t := ruleTarget r
    let bad (p : Pt) : Pt := { p with valid := false, err := some (p.err.getD k) }
    let put (p : Pt) (x : Int) : Pt :=
      if t = 5 then { p with c0 := dwI (satS 32 x) }
      else if t = 6 then { p with c1 := dwI (if polar then x else satS 32 x) }
      else if t = 7 then { p with c2 := dwI (if polar then x else satS 32 x) }
      else if t = 8 then { p with inten := satU 8 x }
      else if t = 9 then { p with ring := satU 7 x }
      else if t = 0x0A then { p with valid := p.valid && x != 0 }
      else { p with time := satU 16 x }
    match ruleEval b r with
    | none => bad (put p 0)
    | some x => if t = 4 ∧ (x < 0 ∨ 65535 < x) then bad { p with time := fv % 65536 } else put p x

/-- The 16 bytes of a parsed point. -/
def Pt.bytes (p : Pt) : Bytes :=
  leWords [p.c0, p.c1, p.c2, dwN (p.time + p.inten * 2 ^ 16 + p.ring * 2 ^ 24 + b2n p.valid * 2 ^ 31)]

/-- The first rule that makes a parser bad: it parses nothing and every unit it serves carries PARSE_ERR (R117). -/
def Dev.parserBad (d : Dev) (p : Nat) : Option Nat := ((d.rules p).zipIdx.find? (fun r => ruleBad r.1)).map (·.2)

/-- What a unit that fails a check gives: nothing is parsed (R116), a bad parser still marks it (R117). -/
def Dev.unparsed (d : Dev) (p : Nat) : Parsed := { err := d.parserBad p, dead := true }

/-- Run a parser on a payload. `fv` gives the free word of each point's failing fields. -/
def Dev.parse (d : Dev) (p : Nat) (points : Bool) (fv : Nat → Nat) (b : Bytes) : Parsed :=
  let o := 0x5000 + 0x100 * p
  let rules := d.rules p
  if (d.parserBad p).isSome then d.unparsed p
  else
    let h := headerRules rules b
    if h.dead ∨ ¬ points then h
    else
      let base := d.regF (o + 4) 15 0
      let stride := d.regF (o + 4) 31 16
      let n := if stride = 0 ∨ b.length ≤ base then 0
        else Nat.min (h.count.getD (d.regF o 31 16)) ((b.length - base) / stride)
      let pts := (List.range n).map (fun i =>
        foldIdx (pointRule (bitOf (d.reg o) 0) (b.drop (base + i * stride)) (fv i)) 0 ({} : Pt) rules)
      { h with points := pts.map Pt.bytes,
               err := match h.err with
                 | some k => some k
                 | none => pts.findSome? (·.err) }

/-- The check R118 configures for a parser: the check value in the unit and the one computed; a unit shorter than its
check value has none. -/
def Dev.parserCrc (d : Dev) (p : Nat) (b : Bytes) : Option (DW × DW) :=
  let o := 0x5000 + 0x100 * p + 8
  let poly := d.regF o 2 0
  let w := crcBytes poly
  if b.length < w then none
  else
    let start := d.regF o 27 16
    let tail := b.drop (b.length - w)
    let v := if bitOf (d.reg o) 3 then beNat tail else leNat tail
    some (dwN v, crcOf poly ((b.take (b.length - w)).drop start))

/-- Whether the check passes; none when POLY is 0 (R118). -/
def Dev.parserCheck (d : Dev) (p : Nat) (b : Bytes) : Option Bool :=
  if d.regF (0x5000 + 0x100 * p + 8) 2 0 = 0 then none
  else some (((d.parserCrc p b).map (fun v => v.1 == v.2)).getD false)

/-- A failed check of a parser counts and is reported by one of the units 0–3; which one is not stated, nor the values of a
unit too short to hold one (R337). -/
def Dev.noteParser (d : Dev) (p : Nat) (chk : Option Bool) (b : Bytes) : Dev :=
  if chk ≠ some false then d
  else
    let fv (k : Nat) : DW := (Sys2Proof.Config.freeValue (d.free + k)).setWidth 32
    let v := (d.parserCrc p b).getD (fv 1, fv 2)
    { d with free := d.free + 3 }.crcMismatch ((fv 0).toNat % 4) (d.regF (0x5000 + 0x100 * p + 8) 2 0) v.1 v.2

end Sys2Proof.Machine
end

