-- ==== Sys2Proof/Machine/Select.lean ====
section
/-! DEFINITION. Landing (R113–R116, R123) and sensor selectors (R119–R123, R162): the sensor pool, landed units and arrival
records, and the units a selector matches and holds. -/

namespace Sys2Proof.Machine

/-! ## Per-sensor settings; a forwarded ID uses the entry of the own sensor (R125) -/

/-- Base of a sensor's register entry. -/
def snsReg (s : Nat) : Nat := 0x7000 + 16 * (s % 128)
/-- SNS_SENSOR_CFG.EN. -/
def Dev.snsOn (d : Dev) (s : Nat) : Bool := ownSensor (s % 128) && bitOf (d.reg (snsReg s)) 0
/-- RETAIN_MS in ns. -/
def Dev.retainNs (d : Dev) (s : Nat) : Nat := d.regF (snsReg s) 25 16 * 1000000
/-- Landing sheet size in bytes. -/
def Dev.landBytes (d : Dev) (s : Nat) : Nat := d.regF (snsReg s) 15 8 * 4096
/-- Parser of a sensor. -/
def Dev.parserOf (d : Dev) (s : Nat) : Nat := d.regF (snsReg s) 7 4
/-- KEEP_RAW. -/
def Dev.keepRaw (d : Dev) (s : Nat) : Bool := bitOf (d.reg (snsReg s)) 1

/-! ## The pool (R73, R113, R115) -/

/-- Granules of the pool in use: the arrival logs of the 68 possible IDs and the landing sheets. -/
def Dev.poolUsed (d : Dev) : Nat :=
  68 * 16 + sumBy (fun p => if isLanding p.1 ∧ p.1 < 0x3FFF00 ∧ p.2.live then p.2.charge else 0) d.sheets

/-- Free granules of the pool. -/
def Dev.poolFree (d : Dev) : Nat := d.regF 0x300C 7 0 * 256 - d.poolUsed

/-- The lowest free index of the landing range. -/
def Dev.landingIndex (d : Dev) : Nat := lowestFree (d.sheets.filter (fun p => isLanding p.1)) 0x3F0000

/-- Take a landing sheet of some bytes, none when the pool or the landing range is full. -/
def Dev.takeLanding (d : Dev) (size : Nat) : Option (Nat × Dev) :=
  let i := d.landingIndex
  if 0x3FFF00 ≤ i ∨ d.poolFree < chargeOf 0 size then none
  else some (i, d.modSheet i (fun s => { Sheet.reset with live := true, gen := s.gen, access := 2, size := size }))

/-- The next arrival-log slot of a sensor still holds an unreleased unit (R115). -/
def Dev.slotHeld (d : Dev) (s : Nat) : Bool :=
  let k := (d.landing s).landed % 1024
  d.sns.units.any (fun p => p.2.sensor == s && p.2.slot == k)

/-- A token round written by the sensor ports: SET, ROUND + 1, and the reads that waited are ready (R112). -/
def Sheet.portWrite (s : Sheet) : Sheet :=
  { s with tok := .set, round := s.round + 1, q := s.q.map (fun r => if r.st = .onFirst then { r with st := .ready } else r) }

/-! ## Selectors -/

/-- A sensor selector in operation words from `i` on. -/
def selOf (d : Dev) (w : DescWords) (i : Nat) (plough : Bool) : SelMatch :=
  let id := w.f i 7 0
  let s := if bitOf (d.reg 0x4000) 0 ∧ d.mir.verso then id ^^^ 0x80 else id
  { sensor := s, plough := plough, latest := w.f i 9 8 == 1, max := w.f i 31 16, start := w.q (i + 2),
    stop := w.q (i + 4), waitUs := if w.dw (i + 1) = 0 then (d.reg (snsReg s + 4)).toNat else (w.dw (i + 1)).toNat,
    closed := false, units := [] }

/-- Log index of an IMU ID: 0–3 own, 4–7 forwarded; none for another ID. -/
def logOf (s : Nat) : Option Nat :=
  if 0x30 ≤ s ∧ s ≤ 0x33 then some (s - 0x30) else if 0xB0 ≤ s ∧ s ≤ 0xB3 then some (s - 0xB0 + 4) else none

/-- A plough log. -/
def Dev.plog (d : Dev) (l : Nat) : PlgLog := d.plg.logs.getD l PlgLog.reset
/-- Change a plough log. -/
def Dev.modLog (d : Dev) (l : Nat) (f : PlgLog → PlgLog) : Dev :=
  { d with plg := { d.plg with logs := d.plg.logs.setIfInBounds l (f (d.plog l)) } }

/-- The checks of R122 and R164 on a selector, reserved bits and MODE included. -/
def Dev.checkSel (d : Dev) (w : DescWords) (i : Nat) (plough : Bool) : Option Status :=
  let m := selOf d w i plough
  if w.f i 15 10 ≠ 0 ∨ w.f i 9 8 > 1 ∨ m.stop ≤ m.start ∨ m.max = 0 ∨ m.start + d.retainNs m.sensor < d.now then
    some .refusedMalformed
  else if !d.snsOn m.sensor then some .refusedDisabled
  else if plough ∧ ¬ ((logOf m.sensor).map (fun l => (d.plog l).live)).getD false then some .refusedDisabled
  else none

/-- A stamp lies in what a selector can match. -/
def SelMatch.covers (m : SelMatch) (t : Nat) : Bool := decide (t < m.stop) && (m.latest || decide (m.start ≤ t))

/-- Units by MAPPED, ties to the lower SEQ (R120). -/
def unitLe (a b : Nat × LUnit) : Bool := decide (a.2.mapped < b.2.mapped ∨ (a.2.mapped = b.2.mapped ∧ a.2.seq ≤ b.2.seq))

/-- The landed units a selector matches now (R120). -/
def Dev.matchUnits (d : Dev) (m : SelMatch) : List Nat :=
  let l := sortBy unitLe (d.sns.units.filter (fun p => p.2.sensor == m.sensor && !p.2.bad && m.covers p.2.mapped))
  let l := if m.latest then (match bestBy (fun (a b : Nat × LUnit) => decide (a.2.mapped > b.2.mapped)) l with
      | some u => [u]
      | none => []) else l
  (l.take m.max).map (·.1)

/-- Slots of a plough log. -/
def Dev.logSlots (d : Dev) (l : Nat) : Nat := (d.sheet (shIdx (d.plog l).sheet)).size / 16

/-- The 16 bytes of record `c` of a log, as stored. -/
def Dev.logRec (d : Dev) (l c : Nat) : Bytes := d.rawRead (shIdx (d.plog l).sheet) (16 * (c % d.logSlots l)) 16

/-- STAMP and channel of a plough record. -/
def recStamp (b : Bytes) : Nat := bnat b 0 8
def recCh (b : Bytes) : Nat := bits (bw b 2) 28 24

/-- Counts of the records a log still holds, oldest first. -/
def Dev.logCounts (d : Dev) (l : Nat) : List Nat :=
  let n := (d.plog l).count
  let k := Nat.min n (d.logSlots l)
  (List.range k).map (fun i => n - k + i)

/-- The log records a plough selector matches now: by STAMP, ties by count; under LATEST the latest of each channel
(R162). -/
def Dev.matchRecs (d : Dev) (m : SelMatch) : List Nat :=
  match logOf m.sensor with
  | none => []
  | some l =>
    let rs := ((d.logCounts l).map (fun c => (c, recStamp (d.logRec l c), recCh (d.logRec l c)))).filter
      (fun r => m.covers r.2.1)
    let rs := if m.latest then rs.filter (fun r => !rs.any (fun q => q.2.2 == r.2.2 && decide (r.2.1 < q.2.1))) else rs
    ((sortBy (fun (a b : Nat × Nat × Nat) => decide (a.2.1 ≤ b.2.1)) rs).take m.max).map (·.1)

/-- The descriptor runs in a mirrored context: its context has an armed MIRRORED plan (SCH_ARM table). -/
def Dev.mirrored (d : Dev) (c : Nat) : Bool := d.plans.any (fun p => p.2.mirrored && p.2.ctx == c)

/-- Close a selector: its match is fixed and held (R120, R121). -/
def Dev.closeSel (d : Dev) (id job : Nat) (byTime : Bool) : Dev :=
  match d.desc? id with
  | none => d
  | some x =>
    match x.sels[job]? with
    | none => d
    | some m =>
      if m.closed then d
      else
        let us := if m.plough then d.matchRecs m else d.matchUnits m
        let d :=
          if m.plough then
            match logOf m.sensor with
            | some l => d.modLog l (fun g => { g with holds := us.foldl (fun t c => Tab.set t c ((Tab.getD t c []) ++ [id])) g.holds })
            | none => d
          else { d with sns := { d.sns with units := d.sns.units.map (fun p =>
            (p.1, if us.contains p.1 then { p.2 with held := p.2.held ++ [id] } else p.2)) } }
        let sus := !m.plough && us.any (fun u => ((Tab.get? d.sns.units u).map (·.suspect)).getD false)
        d.modDesc id (fun y =>
          { y with sels := y.sels.mapIdx (fun k n => if k = job then { n with closed := true, units := us } else n),
                   flags := y.flags ||| flagIf sus fTimeSuspect ||| flagIf (byTime && d.mirrored y.ctx) fDiverged })

/-- A unit of a sensor, or a record of an IMU's log, with a stamp has landed or been dropped: open selectors whose END it
reaches close (R121). -/
def Dev.closeReached (d : Dev) (s : Nat) (plough : Bool) (t : Nat) : Dev :=
  d.descs.foldl (fun d x =>
    foldIdx (fun job d (m : SelMatch) =>
      if m.sensor = s ∧ m.plough = plough ∧ ¬ m.closed ∧ m.stop ≤ t then d.closeSel x.id job false else d) 0 d x.sels) d

/-- Selectors of a descriptor whose close lies in the past at acceptance close at once (R121). -/
def Dev.closePast (d : Dev) (id : Nat) : Dev :=
  match d.desc? id with
  | none => d
  | some x =>
    foldIdx (fun job d (m : SelMatch) =>
      let last := if m.plough then ((logOf m.sensor).map (fun l => (d.plog l).lastStamp)).getD 0 else (d.landing m.sensor).lastMapped
      if m.stop ≤ last then d.closeSel id job false
      else if m.stop + m.waitUs * 1000 ≤ d.now then d.closeSel id job true else d) 0 d x.sels

/-- Every selector of a descriptor is closed. -/
def Desc.selsClosed (x : Desc) : Bool := x.sels.all (·.closed)

/-- SELECTOR_CLOSE_TIME (R121): device time has reached END + WAIT_US. -/
def selectorCloseTime (id job : Nat) (d : Dev) : Dev :=
  match (d.desc? id).bind (fun x => x.sels[job]?) with
  | some m => if m.stop + m.waitUs * 1000 ≤ d.now then d.closeSel id job true else d
  | none => d

/-- An open selector could still match a stamp of a sensor (R123). -/
def Dev.mayMatch (d : Dev) (s : Nat) (plough : Bool) (t : Nat) : Bool :=
  d.descs.any (fun x => x.sels.any (fun m => m.sensor == s && m.plough == plough && !m.closed && m.covers t))

/-! ## Landing a unit -/

/-- What is known of a unit when it lands. AFLAGS are bits 16–22 of DW0. -/
structure Arrival where
  sensor  : Nat
  ukind   : Nat
  flags   : Nat
  arrival : Nat
  stamp   : QW
  sheet   : Nat
  rawLen  : Nat
  rawOff  : Nat
  parsed  : Option Nat
  count   : Nat
  info0   : DW
  info1   : DW

/-- AFLAGS bits, as numbers from bit 16 on. -/
abbrev aCrcBad := 1
abbrev aUnchecked := 2
abbrev aTrunc := 4
abbrev aForwarded := 8
abbrev aSuspect := 16
abbrev aParseErr := 32
abbrev aOverrun := 64

/-- SEQ of a sensor's next unit. -/
def Dev.snsSeq (d : Dev) (s : Nat) : DW := d.own (snsReg s + 12)

/-- The words of an I/O buffer that are not clean, as a unit of its port lands (R331, R334): corrections are counted, an uncorrectable word is
counted and reported; whether one was unusable, so that the unit carries CRC_BAD. A buffer is not patrolled: no line is queued. -/
def Dev.ioDecode (d : Dev) (port : Nat) : Dev × Bool :=
  let l := (Tab.getD d.flt.ioBuf port []).map (fun s => (0, s))
  let r := { d with flt := { d.flt with ioBuf := Tab.del d.flt.ioBuf port } }.eccWords
    { store := none, tier := 4, sheet := none, tag := 0, ctx := none } l
  (r.1, r.2.2)

/-- A unit of a sensor is dropped whole (R115): SEQ advances for an own sensor, DROPS and SNS_SENSOR_DROP count, SNS_DROP is
raised for the first drop after a landed unit; `seq` is the unit's SEQ. -/
def Dev.dropUnit (d : Dev) (s : Nat) (seq : DW) (n : Nat := 1) : Dev :=
  let l := d.landing s
  let d := (d.setLanding s { l with drops := l.drops + n }).count cPoolDrop n
  let d := if ownSensor s then (d.count (snsReg s + 8)).count (snsReg s + 12) else d
  if l.drops = 0 then d.event { code := 0x20, d4 := dwN s, d5 := seq } else d

/-- Note a unit that landed or was dropped: selectors its MAPPED reaches close (R121). -/
def Dev.noteMapped (d : Dev) (s t : Nat) : Dev :=
  let l := d.landing s
  (d.setLanding s { l with lastMapped := Nat.max l.lastMapped t }).closeReached s false t

/-- Write a record into the arrival log and make the unit known (R112): both tokens are written, DROPS restarts, selectors
close. -/
def Dev.putUnit (d : Dev) (s : Nat) (rcd : Vector DW 16) (seq mapped : Nat) (flags sheet : Nat) : Dev :=
  let l := d.landing s
  let k := l.landed % 1024
  let log := 0x3FFF00 + s
  let rcd := (rcd.setIfInBounds 13 (dwN l.drops)).setIfInBounds 9 (d.handleOf sheet)
  let d := (d.rawWrite log (64 * k) (leWords rcd.toList)).modSheet log Sheet.portWrite
  let d := d.modSheet sheet Sheet.portWrite
  let u : LUnit :=
    { sensor := s, seq := seq, record := rcd, mapped := mapped, bad := flags % 2 == 1 || flags / 4 % 2 == 1,
      suspect := flags / 16 % 2 == 1, sheet := sheet, slot := k, held := [] }
  let id := d.sns.nextUnit
  let d := { d with sns := { d.sns with units := Tab.set d.sns.units id u, nextUnit := id + 1 } }
  let d := d.setLanding s { (d.landing s) with landed := l.landed + 1, drops := 0 }
  -- every own unit that lands is offered for forwarding while the mirror is UP (R124, R324, R326)
  let d := if ownSensor s ∧ d.mir.state = 1 then
      { d with mir := { d.mir with fwd := d.mir.fwd ++ [{ unit := id, since := d.now }] } } else d
  d.noteMapped s mapped

/-- Land an own unit (R112, R140, R145, R146): its stamp is replaced by a capture pin's, mapped, and the record written;
SNS_CRC and SNS_PARSE_ERR are raised for the first failing unit after a good one. `perr` is the failing rule. -/
def Dev.landOwn (d : Dev) (a : Arrival) (perr : Option Nat) : Dev :=
  let s := a.sensor
  let seq := d.snsSeq s
  let l := d.landing s
  let pinned := (List.range 9).any (fun n => d.regF (0x8080 + 16 * n) 15 8 == s)
  let stamp : QW := if pinned then BitVec.ofNat 64 ((l.edges.find? (fun e => decide (e < a.arrival))).getD 0) else a.stamp
  let (d, mapped, sus) := d.mapStamp s stamp (BitVec.ofNat 64 a.arrival) seq
  let flags := a.flags + (if sus then aSuspect else 0) + (if perr.isSome then aParseErr else 0) +
    (if l.ovr ∧ (a.ukind = 2 ∨ a.ukind = 3) then aOverrun else 0)
  let d := d.count (snsReg s + 12)
  let crcBad := a.flags % 2 == 1
  let d := d.setLanding s { (d.landing s) with edges := [], ovr := false, badRun := crcBad, perrRun := perr.isSome }
  let d := d.putUnit s #v[dwN (s + a.ukind * 2 ^ 8 + flags * 2 ^ 16), seq, dwN a.arrival, dwN (a.arrival / 2 ^ 32),
    dwN stamp.toNat, dwN (stamp.toNat / 2 ^ 32), dwN mapped, dwN (mapped / 2 ^ 32), dwN a.rawLen, 0, dwN a.rawOff,
    (a.parsed.map dwN).getD 0xFFFFFFFF, dwN a.count, 0, a.info0, a.info1] seq.toNat mapped flags a.sheet
  let d := if crcBad ∧ ¬ l.badRun then d.event { code := 0x22, d4 := dwN s, d5 := seq } else d
  match perr with
  | some k => if l.perrRun then d else d.event { code := 0x23, d4 := dwN (s + k * 2 ^ 8), d5 := seq }
  | none => d

/-- Where a packed unit of some raw and parsed bytes goes (R114): the current landing sheet if it fits, else a new one;
none when there is no space (R115). Gives the sheet, the offset of the raw payload and of the parsed output. -/
def Dev.packUnit (d : Dev) (s raw parsed : Nat) : Option (Nat × Nat × Nat × Dev) :=
  let l := d.landing s
  let need (off : Nat) : Nat := alignUp off 64 + alignUp raw 64 + parsed
  let fits : Bool := match l.sheet with
    | some i => decide (need l.fill ≤ (d.sheet i).size)
    | none => false
  let place : Option (Nat × Nat × Dev) :=
    match l.sheet, fits with
    | some i, true => some (i, alignUp l.fill 64, d)
    | _, _ => if need 0 ≤ d.landBytes s then (d.takeLanding (d.landBytes s)).map (fun p => (p.1, 0, p.2)) else none
  match place with
  | none => none
  | some (i, off, d) =>
    some (i, off, off + alignUp raw 64, d.setLanding s { (d.landing s) with sheet := some i, fill := off + alignUp raw 64 + parsed })

/-- Land an own packed unit with its raw payload and parsed output, or drop it (R114, R115). -/
def Dev.landPacked (d : Dev) (s ukind flags arrival : Nat) (stamp : QW) (raw parsed : Bytes) (count : Nat)
    (info0 info1 : DW) (perr : Option Nat) : Dev :=
  let raw := if d.keepRaw s then raw else []
  let place := if d.slotHeld s then none else d.packUnit s raw.length parsed.length
  match place with
  | none => (d.dropUnit s (d.snsSeq s)).noteMapped s arrival
  | some (i, ro, po, d) =>
    let d := (d.rawWrite i ro raw).rawWrite i po parsed
    d.landOwn
      { sensor := s, ukind := ukind, flags := flags, arrival := arrival, stamp := stamp, sheet := i,
        rawLen := raw.length, rawOff := ro, parsed := if parsed.isEmpty then none else some po, count := count,
        info0 := info0, info1 := info1 } perr

/-- A landed unit, or a forwarded one being received, has left a landing sheet: the sheet is freed when no other is in it (R114). -/
def Dev.landingLeft (d : Dev) (s sheet : Nat) : Dev :=
  if d.sns.units.any (fun p => p.2.sheet == sheet) || d.mir.rx.any (fun p => !p.2.dropped && p.2.sheet == sheet) then d
  else
    let l := d.landing s
    let d := if l.sheet = some sheet then d.setLanding s { l with sheet := none, fill := 0 } else d
    (d.freeSheet sheet).sweepFree

/-- UNIT_RELEASE (R114, R123): a landed unit past its retention, held by no descriptor and no open selector, is released;
its landing sheet is freed with its last unit. -/
def unitRelease (u : Nat) (d : Dev) : Dev :=
  match Tab.get? d.sns.units u with
  | none => d
  | some x =>
    if d.now ≤ x.mapped + d.retainNs x.sensor ∨ ¬ x.held.isEmpty ∨ (¬ x.bad ∧ d.mayMatch x.sensor false x.mapped) then d
    else
      let d := { d with sns := { d.sns with units := Tab.del d.sns.units u },
                        mir := { d.mir with fwd := d.mir.fwd.filter (fun w => w.unit != u) } }
      d.landingLeft x.sensor x.sheet

end Sys2Proof.Machine
end

