-- ==== Sys2Proof/Machine/Vision.lean ====
section
/-! DEFINITION. Vision: image layouts (R165, R166), jobs (R167–R169), remap (R170–R174) and SGM stereo (R175–R181). -/

namespace Sys2Proof.Machine

/-! ## Layouts -/

/-- Row stride of a luma image of some bytes a pixel. -/
def lumaStride (w bpp : Nat) : Nat := alignUp (w * bpp + cdiv w 8) 64
/-- Row stride of rows of some bytes. -/
def rowStride (n : Nat) : Nat := alignUp n 64

/-- The size or ribbon check of an image sheet of `h` rows (R165, R166), which is read with a row window (R58). A ZERO-PACK home is checked
through its copy (R403). -/
def Dev.imageOk (d : Dev) (sh : DW) (h stride : Nat) (window : Nat := 1) : Bool :=
  let s := d.sheet (shIdx sh)
  if s.ribbon then s.rowBytes == stride && decide (window ≤ s.rows)
  else (s.zp && s.tier != 0) || decide (h * stride ≤ s.size)

/-- Bytes as an array of numbers. -/
def byteArr (b : Bytes) : Array Nat := (b.map (·.toNat)).toArray

/-- Index reflected at the edges of `0 … n-1` (R171). -/
def reflect (n : Nat) (i : Int) : Nat :=
  let k := if i < 0 then -i else if i ≥ n then 2 * ((n : Int) - 1) - i else i
  (clampI k 0 ((n : Int) - 1)).toNat

/-- The longest range of bytes an image takes, for integrity. -/
def imageRead (sh : DW) (h stride : Nat) : DW × Nat × Nat := (sh, 0, h * stride)

/-! ## Jobs (R167) -/

/-- The jobs of a vision descriptor: itself, or the entries of its list; none when the list is malformed. -/
def Dev.visJobs (d : Dev) (w : DescWords) : Option (List DescWords) :=
  if !bitOf (w.dw 6) 31 then some [w]
  else
    let h := w.dw 7
    let n := w.f 8 4 0
    let off := (w.dw 9).toNat
    let s := d.sheet (shIdx h)
    if s.tier ≠ 0 ∨ s.tok ≠ .set ∨ s.size < off + 64 * n then none
    else
      let js := (List.range n).map (fun i =>
        let b := d.plainRead (shIdx h) (off + 64 * i) 64
        ((List.range 10).foldl (fun (v : DescWords) k => v.put (6 + k) (bw b k)) w, allZero ((List.range 6).map (fun k => bw b (10 + k)))))
      if js.all (fun j => j.2 && !bitOf (j.1.dw 6) 31) then some (js.map (·.1)) else none

/-! ## Remap -/

/-- Depth of an IN_FMT, and the data type it stands for. -/
def fmtDepth (f : Nat) : Nat := if f = 0 ∨ f = 3 then 8 else if f = 1 ∨ f = 4 then 10 else 12
def fmtDt (f : Nat) : Nat := if f = 0 then 0x2A else if f = 1 then 0x2B else if f = 2 then 0x2C else if f = 3 then 0x1E else 0x1F
/-- Bytes of a packed line (R114). -/
def fmtLine (f w : Nat) : Nat := cdiv (w * (if f = 0 then 8 else if f = 1 then 10 else if f = 2 then 12 else if f = 3 then 16 else 20)) 8

/-- Pixel `x` of a packed line that starts at `o` (the CSI-2 packings). -/
def unpackPix (b : Array Nat) (o f x : Nat) : Nat :=
  let g (k : Nat) : Nat := b.getD (o + k) 0
  let ten (i : Nat) : Nat := g (i / 4 * 5 + i % 4) * 4 + g (i / 4 * 5 + 4) / 4 ^ (i % 4) % 4
  if f = 0 then g x
  else if f = 1 then ten x
  else if f = 2 then g (x / 2 * 3 + x % 2) * 16 + g (x / 2 * 3 + 2) / 16 ^ (x % 2) % 16
  else if f = 3 then g (2 * x + 1)
  else ten (2 * x + 1)

/-- Luma numerator of a site: `p dx dy` is the neighbour's value; BAYER's first pair of rows gives the colour (R171). -/
def lumaN (bayer x y : Nat) (p : Int → Int → Nat) : Nat :=
  let ox := if bayer = 1 ∨ bayer = 3 then 1 else 0
  let oy := if bayer = 2 ∨ bayer = 3 then 1 else 0
  let rx := (x + ox) % 2 = 0
  let ry := (y + oy) % 2 = 0
  let orth := p 0 (-1) + p 0 1 + p (-1) 0 + p 1 0
  let diag := p (-1) (-1) + p 1 (-1) + p (-1) 1 + p 1 1
  let hor := p (-1) 0 + p 1 0
  let ver := p 0 (-1) + p 0 1
  if rx ∧ ry then 308 * p 0 0 + 150 * orth + 29 * diag
  else if ¬ rx ∧ ¬ ry then 308 * p 0 0 + 150 * orth + 29 * diag
  else if ry then 154 * hor + 600 * p 0 0 + 58 * ver
  else 154 * ver + 600 * p 0 0 + 58 * hor

/-- Luma of a frame at a pixel: for RAW by R171, for YUV422 its Y sample. -/
def lumaAt (b : Array Nat) (f bayer w h x y : Nat) : Nat :=
  let px (i j : Nat) : Nat := unpackPix b (j * fmtLine f w) f i
  if f ≥ 3 then px x y
  else (rdiv (lumaN bayer x y (fun dx dy => px (reflect w (x + dx)) (reflect h (y + dy)))) 1024).toNat

/-- A mesh node. -/
structure MNode where
  sx : Int
  sy : Int
  valid : Bool

/-- Node `k` of a mesh. -/
def meshNode (b : Array Nat) (k : Nat) : MNode :=
  let g (i n : Nat) : Nat := (List.range n).foldl (fun a j => a + b.getD (8 * k + i + j) 0 * 256 ^ j) 0
  { sx := sext 24 (g 0 3), sy := sext 24 (g 3 3), valid := g 6 1 % 2 == 1 }

/-- Reserved bits of node `k` are set. -/
def meshBad (b : Array Nat) (k : Nat) : Bool := b.getD (8 * k + 6) 0 / 2 != 0 || b.getD (8 * k + 7) 0 != 0

/-- One output pixel of a remap (R173): its value, none when out of view. -/
def remapPixel (mesh : Array Nat) (nx : Nat) (luma : Nat → Nat → Nat) (inW inH depth : Nat) (out16 : Bool) (x y : Nat) :
    Option Nat :=
  let fx := x % 16
  let fy := y % 16
  let nd (i j : Nat) : MNode := meshNode mesh ((y / 16 + j) * nx + (x / 16 + i))
  let n00 := nd 0 0
  let n10 := nd 1 0
  let n01 := nd 0 1
  let n11 := nd 1 1
  let w00 : Int := (16 - fx) * (16 - fy)
  let w10 : Int := fx * (16 - fy)
  let w01 : Int := (16 - fx) * fy
  let w11 : Int := fx * fy
  let u := rdiv (w00 * n00.sx + w10 * n10.sx + w01 * n01.sx + w11 * n11.sx) 256
  let v := rdiv (w00 * n00.sy + w10 * n10.sy + w01 * n01.sy + w11 * n11.sy) 256
  let ix := u / 64
  let iy := v / 64
  let ax := (u % 64).toNat
  let ay := (v % 64).toNat
  let inView := n00.valid && n10.valid && n01.valid && n11.valid && decide (0 ≤ ix ∧ 0 ≤ iy) &&
    decide (ix + b2n (ax != 0) ≤ (inW : Int) - 1 ∧ iy + b2n (ay != 0) ≤ (inH : Int) - 1)
  if !inView then none
  else
    let l (dx dy wt : Nat) : Nat := if wt = 0 then 0 else luma (ix.toNat + dx) (iy.toNat + dy) * wt
    let s := l 0 0 ((64 - ax) * (64 - ay)) + l 1 0 (ax * (64 - ay)) + l 0 1 ((64 - ax) * ay) + l 1 1 (ax * ay)
    let q := (rdiv s 4096).toNat
    some (if out16 then q else Nat.min 255 (rdiv q (2 ^ (depth - 8))).toNat)

/-- The bytes of a luma row: values, mask, zeros to the stride (R165). -/
def lumaRow (bpp fill : Nat) (px : List (Option Nat)) : Bytes :=
  let vals := px.flatMap (fun p => toLe (p.getD fill) bpp)
  let mask := (List.range (cdiv px.length 8)).map (fun k =>
    BitVec.ofNat 8 ((List.range 8).foldl (fun n j => n + (if (px.getD (8 * k + j) none).isSome then 2 ^ j else 0)) 0))
  padTo 64 (vals ++ mask)

/-- Nodes of a mesh across a size. -/
def meshN (n : Nat) : Nat := cdiv n 16 + 1

/-- Bytes per pixel of a remap's output. -/
def remapBpp (j : DescWords) : Nat := if bitOf (j.dw 6) 6 then 2 else 1

/-- The fields of a remap job (VIS_REMAP table). -/
def remapForm (j : DescWords) : Bool :=
  let fmt := j.f 6 3 1
  let srcSheet := bitOf (j.dw 6) 0
  decide (fmt ≤ 4) && (decide (fmt < 3) || j.f 6 5 4 == 0) &&
    decide (64 ≤ j.f 9 15 0 ∧ j.f 9 15 0 ≤ 8192 ∧ 16 ≤ j.f 9 31 16 ∧ j.f 9 31 16 ≤ 8192) &&
    (if srcSheet then decide (64 ≤ j.f 11 15 0 ∧ j.f 11 15 0 ≤ 8192 ∧ 16 ≤ j.f 11 31 16 ∧ j.f 11 31 16 ≤ 8192)
      else j.f 10 9 8 == 1)

/-- Reserved bits of a VIS_REMAP, those of its selector included. -/
def remapResv (j : DescWords) : Bool := j.f 6 30 15 == 0 && (if bitOf (j.dw 6) 0 then j.zero 12 15 else j.f 10 15 10 == 0)

/-- A remap job run on a frame of known size (R171–R174): job index, the mesh bytes, the frame bytes. -/
def remapFrame (x : Desc) (job : Nat) (j : DescWords) (mesh frame : Array Nat) (inW inH : Nat) : Res :=
  let fmt := j.f 6 3 1
  let ow := j.f 9 15 0
  let oh := j.f 9 31 16
  let nx := meshN ow
  match (List.range (nx * meshN oh)).find? (meshBad mesh) with
  | some k => { st := .failedCheck, post := fun d => d.event (x.ev 0x4A (d4 := dwN k) (d5 := dwN job)) }
  | none =>
    let luma := lumaAt frame fmt (j.f 6 5 4) inW inH
    let rows := (List.range oh).map (fun y =>
      (List.range ow).map (fun i => remapPixel mesh nx luma inW inH (fmtDepth fmt) (bitOf (j.dw 6) 6) i y))
    let seen := sumBy (fun (r : List (Option Nat)) => (r.filter (·.isSome)).length) rows
    { r4 := dwN seen, r5 := dwN (ow * oh - seen),
      wr := [(j.dw 8, 0, rows.flatMap (lumaRow (remapBpp j) (j.f 6 14 7)))] }

/-- One remap job (R170): the frame comes from its sheet or from the unit its selector matched. -/
def Dev.remapJob (d : Dev) (x : Desc) (job : Nat) (j : DescWords) : Res :=
  let fmt := j.f 6 3 1
  let meshLen := 8 * meshN (j.f 9 15 0) * meshN (j.f 9 31 16)
  let mesh := byteArr (d.rd x (j.dw 7) 0 meshLen)
  let meshR : DW × Nat × Nat := (j.dw 7, 0, meshLen)
  if bitOf (j.dw 6) 0 then
    let w := j.f 11 15 0
    let h := j.f 11 31 16
    let n := fmtLine fmt w * h
    let r := remapFrame x job j mesh (byteArr (d.rd x (j.dw 10) 0 n)) w h
    { r with rdr := [meshR, (j.dw 10, 0, n)] }
  else
    match x.sels[((x.jobs.take job).filter (fun i => !bitOf (i.dw 6) 0)).length]? with
    | none => Res.fail .abortedFence
    | some m =>
      match (m.units.head?).bind (fun u => Tab.get? d.sns.units u) with
      | none =>
        { st := .abortedFence,
          post := fun d => (d.count cVisNoFrame).event (x.ev 0x48 (d4 := dwN m.sensor) (d5 := dwN job)) }
      | some u =>
        let i0 := u.record.getD 14 0
        let dt := bits (u.record.getD 15 0) 5 0
        if dt ≠ fmtDt fmt then
          { st := .failedCheck,
            post := fun d => d.event (x.ev 0x49 (d4 := dwN (m.sensor + dt * 2 ^ 8)) (d5 := dwN job)) }
        else
          let w := bits i0 15 0
          let h := bits i0 31 16
          let n := fmtLine fmt w * h
          let sh := d.handleOf u.sheet
          let r := remapFrame x job j mesh (byteArr (d.rd x sh 0 n)) w h
          { r with rdr := [meshR, (sh, 0, n)] }

/-- Run a list of jobs and count a FAILED_CHECK (VIS registers). -/
def visRun (f4 f5 : DW → DW → DW) (job : Nat → DescWords → Res) (x : Desc) : Res :=
  let rs := foldIdx (fun k (acc : List Res) j => acc ++ [job k j]) 0 [] x.jobs
  let r := match rs with
    | [] => ({} : Res)
    | a :: t => t.foldl (Res.join f4 f5) a
  let bad := (rs.filter (fun a => a.st == .failedCheck)).length
  { r with post := fun d => (r.post d).count cVisCheck bad }

/-- VIS_REMAP. -/
def remapDef : OpDef :=
  { kind := 2
    resv := remapResv
    form := fun js => js.all remapForm
    uses := fun js => js.flatMap (fun j => [Use.rd (j.dw 7), Use.wr (j.dw 8)] ++ (if bitOf (j.dw 6) 0 then [Use.rd (j.dw 10)] else []))
    late := fun d js => if js.all (fun j =>
        d.imageOk (j.dw 8) (j.f 9 31 16) (lumaStride (j.f 9 15 0) (remapBpp j))) then none else some .refusedMalformed
    needs := fun js => js.flatMap (fun j =>
      (j.dw 7, 8 * meshN (j.f 9 15 0) * meshN (j.f 9 31 16)) ::
        (if bitOf (j.dw 6) 0 then [(j.dw 10, fmtLine (j.f 6 3 1) (j.f 11 15 0) * j.f 11 31 16)] else []))
    axes := fun _ x => batchAxes x.jobs.length
    run := fun d x => visRun satSum satSum (d.remapJob x) x }

/-! ## SGM -/

/-- A U8 luma image as a job reads it: values and mask. -/
structure Luma where
  b : Array Nat
  w : Nat
  h : Nat
  stride : Nat

/-- Read a U8 luma image. -/
def Dev.luma (d : Dev) (x : Desc) (sh : DW) (w h : Nat) : Luma :=
  { b := byteArr (d.rd x sh 0 (h * lumaStride w 1)), w := w, h := h, stride := lumaStride w 1 }
/-- Value of a pixel. -/
def Luma.at_ (l : Luma) (x y : Nat) : Nat := l.b.getD (y * l.stride + x) 0
/-- Mask bit of a pixel. -/
def Luma.seen (l : Luma) (x y : Nat) : Bool := l.b.getD (y * l.stride + l.w + x / 8) 0 / 2 ^ (x % 8) % 2 == 1

/-- The census code of a pixel, in raster order of the offsets (R176). -/
def census (l : Luma) (x y : Nat) : List Bool :=
  let c := l.at_ x y
  (List.range 7).flatMap (fun (r : Nat) => (List.range 9).filterMap (fun (k : Nat) =>
    if r = 3 ∧ k = 4 then none
    else some (decide (l.at_ (reflect l.w (x + (k : Int) - 4)) (reflect l.h (y + (r : Int) - 3)) < c))))

/-- Hamming distance of two codes. -/
def hamming (a b : List Bool) : Nat := ((a.zip b).filter (fun p => p.1 != p.2)).length

/-- The images, codes and windows a stereo job works on. -/
structure Sgm where
  l  : Luma
  r  : Luma
  cl : Array (List Bool)
  cr : Array (List Bool)
  d0 : Array Nat
  p1 : Nat
  p2 : Nat
  grad : Nat

/-- Window start of a pixel's tile (R177). -/
def Sgm.win (s : Sgm) (x y : Nat) : Nat := s.d0.getD (y / 64 * cdiv s.l.w 64 + x / 64) 0

/-- A candidate is blind (R176). -/
def Sgm.blind (s : Sgm) (x y d : Nat) : Bool := decide (x < d) || !s.r.seen (x - d) y

/-- The matching cost C (R176). -/
def Sgm.cost (s : Sgm) (x y d : Nat) : Nat :=
  if s.blind x y d then 63
  else (rdiv (63 * hamming (s.cl.getD (y * s.l.w + x) []) (s.cr.getD (y * s.l.w + (x - d)) [])) 62).toNat

/-- Smallest of a list, 0 for none. -/
def minL (l : List Nat) : Nat := match l with | [] => 0 | a :: t => t.foldl Nat.min a

/-- `sgm_step` (R178). -/
def sgmStep (c : Nat) (lq : Array Nat) (q0 d minq p1 p2 grad dI : Nat) : Nat :=
  let p2a := if grad = 0 then p2 else Nat.max (p1 + 1) (p2 * grad / (grad + dI))
  let cand (e : Int) (pen : Nat) (best : Nat) : Nat :=
    if (q0 : Int) ≤ e ∧ e ≤ (q0 : Int) + 255 then Nat.min best (lq.getD (e - q0).toNat 0 + pen) else best
  let best := cand ((d : Int) + 1) p1 (cand ((d : Int) - 1) p1 (cand d 0 (minq + p2a)))
  c + best - minq

/-- L_r of every pixel along path (rx, ry), in raster order of the visit: forward for a predecessor that comes earlier in
raster order, else backward (R178). -/
def Sgm.path (s : Sgm) (rx ry : Int) : Array (Array Nat) :=
  let w := s.l.w
  let n := w * s.l.h
  let fwd := decide (ry > 0 ∨ (ry = 0 ∧ rx > 0))
  let place (k : Nat) : Nat := if fwd then k else n - 1 - k
  (List.range n).foldl (fun (acc : Array (Array Nat)) k =>
    let p := place k
    let x := p % w
    let y := p / w
    let qx := (x : Int) - rx
    let qy := (y : Int) - ry
    let d0 := s.win x y
    let cs := (List.range 256).map (fun e => (d0 + e, s.cost x y (d0 + e)))
    if qx < 0 ∨ qy < 0 ∨ qx ≥ w ∨ qy ≥ s.l.h then acc.push ((cs.map (·.2)).toArray)
    else
      let q := qy.toNat * w + qx.toNat
      let lq := acc.getD (if fwd then q else n - 1 - q) #[]
      let minq := minL lq.toList
      let dI := ((s.l.at_ x y : Int) - s.l.at_ qx.toNat qy.toNat).natAbs
      acc.push ((cs.map (fun e => sgmStep e.2 lq (s.win qx.toNat qy.toNat) e.1 minq s.p1 s.p2 s.grad dI)).toArray)) #[]

/-- The paths of a job. -/
def sgmPaths (eight : Bool) : List (Int × Int) :=
  [(1, 0), (-1, 0), (0, 1), (0, -1)] ++ (if eight then [(1, 1), (-1, 1), (1, -1), (-1, -1)] else [])

/-- S of every pixel and candidate of its window, in raster order (R178). -/
def Sgm.sums (s : Sgm) (eight : Bool) : Array (Array Nat) :=
  let n := s.l.w * s.l.h
  let ls := (sgmPaths eight).map (fun r =>
    let a := s.path r.1 r.2
    if r.2 > 0 ∨ (r.2 = 0 ∧ r.1 > 0) then a else a.reverse)
  ((List.range n).map (fun p => ((List.range 256).map (fun e => sumBy (fun (a : Array (Array Nat)) => (a.getD p #[]).getD e 0) ls)).toArray)).toArray

/-- The right-view winner at xr (R179). -/
def Sgm.right (s : Sgm) (sum : Array (Array Nat)) (xr y : Nat) : Option Nat :=
  let cands := (List.range (s.l.w - xr)).filterMap (fun d =>
    let d0 := s.win (xr + d) y
    if d0 ≤ d ∧ d ≤ d0 + 255 then some (d, (sum.getD (y * s.l.w + xr + d) #[]).getD (d - d0) 0) else none)
  (bestBy (fun (a b : Nat × Nat) => decide (a.2 < b.2)) cands).map (·.1)

/-- Disparity code and confidence of a pixel (R179, R180). -/
def Sgm.pixel (s : Sgm) (sum : Array (Array Nat)) (sat tex uniq x y : Nat) : Nat × Nat :=
  let d0 := s.win x y
  let v := (sum.getD (y * s.l.w + x) #[]).toList
  let at_ (d : Nat) : Nat := v.getD (d - d0) 0
  if !s.l.seen x y then (0xFFFD, 0)
  else if (List.range 256).all (fun e => s.blind x y (d0 + e)) then (0xFFFE, 0)
  else if s.l.at_ x y ≥ sat then (0xFFFC, 0)
  else
    let best := (bestBy (fun (a b : Nat × Nat) => decide (a.2 < b.2)) ((List.range 256).zip v)).getD (0, 0)
    let ds := d0 + best.1
    let s0 := best.2
    let total := v.foldl (· + ·) 0
    if total / 256 < tex + s0 then (0xFFFF, 0)
    else if ds = d0 + 255 ∨ (ds = d0 ∧ 0 < d0) then (0xFFFB, 0)
    else
      let far := ((List.range 256).zip v).filter (fun p => decide (p.1 + 1 < best.1 ∨ best.1 + 1 < p.1))
      let s2 : Option Nat := if far.isEmpty then none else some (minL (far.map (·.2)))
      let notU := match s2 with
        | some m => decide (m * 100 < s0 * (100 + uniq))
        | none => false
      if notU then (0xFFFA, 0)
      else
        let occ := decide (x < ds) || (match s.right sum (x - ds) y with
          | none => true
          | some dr => decide (((ds : Int) - dr).natAbs > 1))
        if occ then (0xFFFE, 0)
        else
          let den : Int := (at_ (ds - 1) : Int) + at_ (ds + 1) - 2 * (s0 : Int)
          let sub : Int := if ds > d0 ∧ den > 0 then
              clampI (rdiv (16 * ((at_ (ds - 1) : Int) - at_ (ds + 1))) (2 * den).toNat) (-8) 8 else 0
          let conf := match s2 with
            | none => 255
            | some 0 => 0
            | some m => 255 * (m - s0) / m
          ((16 * (ds : Int) + sub).toNat, conf)

/-- Fields of a stereo job (VIS_SGM table, R175). -/
def sgmForm (j : DescWords) : Bool :=
  let p1 := j.f 6 6 1
  let p2 := j.f 6 23 16
  let pm := j.f 6 9 8
  decide (1 ≤ p1 ∧ p1 + 1 ≤ p2 ∧ pm ≤ 2) &&
    decide (64 ≤ j.f 9 15 0 ∧ j.f 9 15 0 ≤ 4096 ∧ 16 ≤ j.f 9 31 16 ∧ j.f 9 31 16 ≤ 4096) &&
    ((pm == 0) == (j.dw 10 == 0)) && (bitOf (j.dw 6) 7 == (j.dw 12 != 0)) &&
    decide (j.f 14 7 0 ≤ 100 ∧ 1 ≤ j.f 14 23 16)

/-- Bytes of a prediction (R175). -/
def sgmPredLen (j : DescWords) : Nat :=
  let w := j.f 9 15 0
  let h := j.f 9 31 16
  if j.f 6 9 8 = 1 then 2 * cdiv w 64 * cdiv h 64 else h * rowStride (2 * w)

/-- Window starts of the tiles, none when a mode 1 entry is out of range (R177). -/
def sgmWindows (j : DescWords) (pred : Array Nat) : Option (List Nat) :=
  let w := j.f 9 15 0
  let h := j.f 9 31 16
  let start (p : Nat) : Nat := Nat.min 3839 (rdiv p 16 - 128).toNat
  let u16 (o : Nat) : Nat := pred.getD o 0 + 256 * pred.getD (o + 1) 0
  let tiles := (List.range (cdiv h 64)).flatMap (fun ty => (List.range (cdiv w 64)).map (fun tx => (tx, ty)))
  match j.f 6 9 8 with
  | 0 => some (tiles.map (fun _ => 0))
  | 1 =>
    let es := (List.range tiles.length).map (fun k => u16 (2 * k))
    if es.any (fun e => decide (0xFFEF < e ∧ e ≠ 0xFFFF)) then none
    else some (es.map (fun e => if e = 0xFFFF then 0 else start e))
  | _ =>
    some (tiles.map (fun t =>
      let vals := (List.range (Nat.min 64 (h - 64 * t.2))).flatMap (fun r =>
        (List.range (Nat.min 64 (w - 64 * t.1))).map (fun c => u16 ((64 * t.2 + r) * rowStride (2 * w) + 2 * (64 * t.1 + c))))
      let ok := (vals.filter (fun v => decide (v ≤ 0xFFEF))).mergeSort (fun a b => decide (a ≤ b))
      if ok.isEmpty then 0 else start (ok.getD ((ok.length - 1) / 2) 0)))

/-- One stereo job (R175–R181). SCRATCH's content is free afterwards: the first word it could hold is drawn. -/
def Dev.sgmJob (d : Dev) (x : Desc) (job : Nat) (j : DescWords) : Res :=
  let w := j.f 9 15 0
  let h := j.f 9 31 16
  let l := d.luma x (j.dw 7) w h
  let r := d.luma x (j.dw 8) w h
  let predR := if j.dw 10 = 0 then [] else [(j.dw 10, 0, sgmPredLen j)]
  let rdr := [imageRead (j.dw 7) h (lumaStride w 1), imageRead (j.dw 8) h (lumaStride w 1)] ++ predR
  match sgmWindows j (byteArr (if j.dw 10 = 0 then [] else d.rd x (j.dw 10) 0 (sgmPredLen j))) with
  | none => { st := .failedCheck, rdr := rdr, post := fun d => d.event (x.ev 0x4B (d4 := 1) (d5 := dwN job)) }
  | some wins =>
    let px := (List.range h).flatMap (fun y => (List.range w).map (fun i => (i, y)))
    let s : Sgm :=
      { l := l, r := r, cl := (px.map (fun p => census l p.1 p.2)).toArray, cr := (px.map (fun p => census r p.1 p.2)).toArray,
        d0 := wins.toArray, p1 := j.f 6 6 1, p2 := j.f 6 23 16, grad := j.f 6 30 24 }
    let sum := s.sums (bitOf (j.dw 6) 0)
    let rows := (List.range h).map (fun y => (List.range w).map (fun i => s.pixel sum (j.f 14 23 16) (j.f 14 15 8) (j.f 14 7 0) i y))
    let valid := sumBy (fun (r : List (Nat × Nat)) => (r.filter (fun p => decide (p.1 ≤ 0xFFEF))).length) rows
    let f0 := d.free
    { r4 := dwN valid, r5 := dwN (w * h - valid), rdr := rdr,
      wr := [(j.dw 11, 0, rows.flatMap (fun r => padTo 64 (r.flatMap (fun p => toLe p.1 2)))),
        (j.dw 13, 0, (List.range (48 * w * h)).map (fun k => Sys2Proof.Config.freeByte (f0 + k)))] ++
        (if bitOf (j.dw 6) 7 then [(j.dw 12, 0, rows.flatMap (fun r => padTo 64 (r.map (fun p => BitVec.ofNat 8 p.2))))] else []),
      post := fun d => { d with free := d.free + 48 * w * h } }

/-- VIS_SGM. -/
def sgmDef : OpDef :=
  { kind := 3
    resv := fun j => j.f 6 15 10 == 0 && j.f 14 31 24 == 0 && j.zero 15 15
    form := fun js => js.all sgmForm
    uses := fun js => js.flatMap (fun j => [Use.rd (j.dw 7), Use.rd (j.dw 8)] ++ (if j.dw 10 = 0 then [] else [Use.rd (j.dw 10)]) ++
      [Use.wr (j.dw 11)] ++ (if j.dw 12 = 0 then [] else [Use.wr (j.dw 12)]) ++ [Use.wr (j.dw 13)])
    late := fun d js => if js.all (fun j =>
        let w := j.f 9 15 0
        let h := j.f 9 31 16
        let sc := d.sheet (shIdx (j.dw 13))
        d.imageOk (j.dw 7) h (lumaStride w 1) 8 && d.imageOk (j.dw 8) h (lumaStride w 1) 8 &&
          (j.f 6 9 8 != 2 || d.imageOk (j.dw 10) h (rowStride (2 * w))) && d.imageOk (j.dw 11) h (rowStride (2 * w)) &&
          (j.dw 12 == 0 || d.imageOk (j.dw 12) h (rowStride w)) && !sc.ribbon && sc.tier == 0 && decide (48 * w * h ≤ sc.size))
      then none else some .refusedMalformed
    needs := fun js => js.flatMap (fun j =>
      (if j.f 6 9 8 = 1 then [(j.dw 10, sgmPredLen j)] else []))
    images := fun js => js.flatMap (fun j =>
      [(j.dw 7, j.f 9 31 16 * lumaStride (j.f 9 15 0) 1), (j.dw 8, j.f 9 31 16 * lumaStride (j.f 9 15 0) 1)] ++
        (if j.f 6 9 8 = 2 then [(j.dw 10, sgmPredLen j)] else []))
    axes := fun _ x => batchAxes x.jobs.length
    run := fun d x => visRun satSum satSum (d.sgmJob x) x }

end Sys2Proof.Machine
end

