-- ==== Sys2Proof/Machine/Feature.lean ====
section
/-! DEFINITION. Features: pyramid (R183), detection (R184, R185), orientation and descriptor (R186, R187), tracking (R188,
R189) and the feature list (R190, R191). -/

namespace Sys2Proof.Machine

/-! ## Pyramid -/

/-- Size of a level. -/
def pyrDim (n l : Nat) : Nat := n / 2 ^ l

/-- Bytes of a pyramid. -/
def pyrSize (w h : Nat) : Nat := sumBy (fun l => rowStride (pyrDim w l) * pyrDim h l) (List.range 4)

/-- One level: width, height, values in raster order. -/
structure Lvl where
  w : Nat
  h : Nat
  p : Array Nat

/-- A pixel of a level. -/
def Lvl.at_ (l : Lvl) (x y : Nat) : Nat := l.p.getD (y * l.w + x) 0

/-- The level above a level (R183). -/
def Lvl.up (l : Lvl) : Lvl :=
  let w := l.w / 2
  let h := l.h / 2
  { w := w, h := h, p := ((List.range (w * h)).map (fun k =>
      let i := k % w
      let j := k / w
      (rdiv (l.at_ (2 * i) (2 * j) + l.at_ (2 * i + 1) (2 * j) + l.at_ (2 * i) (2 * j + 1) + l.at_ (2 * i + 1) (2 * j + 1)) 4).toNat)).toArray }

/-- The four levels of an image (R183). -/
def pyramid (l0 : Lvl) : List Lvl := [l0, l0.up, l0.up.up, l0.up.up.up]

/-- The bytes of a pyramid. -/
def pyrBytes (ls : List Lvl) : Bytes :=
  ls.flatMap (fun l => (List.range l.h).flatMap (fun y => padTo 64 ((List.range l.w).map (fun x => BitVec.ofNat 8 (l.at_ x y)))))

/-- The levels a stored pyramid spells. -/
def pyrParse (b : Array Nat) (w h : Nat) : List Lvl :=
  (List.range 4).map (fun l =>
    let off := sumBy (fun k => rowStride (pyrDim w k) * pyrDim h k) (List.range l)
    let wl := pyrDim w l
    { w := wl, h := pyrDim h l,
      p := ((List.range (wl * pyrDim h l)).map (fun k => b.getD (off + k / wl * rowStride wl + k % wl) 0)).toArray })

/-! ## Detection (R184, R185) -/

/-- The response R at a pixel (R184). -/
def response (l : Lvl) (x y : Nat) : Nat :=
  let i (a b : Int) : Int := l.at_ ((x : Int) + a).toNat ((y : Int) + b).toNat
  let offs := (List.range 7).flatMap (fun (r : Nat) => (List.range 7).map (fun (c : Nat) => ((c : Int) - 3, (r : Int) - 3)))
  let (xx, yy, xy) := offs.foldl (fun (a : Int × Int × Int) o =>
    let gx := i (o.1 + 1) o.2 - i (o.1 - 1) o.2
    let gy := i o.1 (o.2 + 1) - i o.1 (o.2 - 1)
    (a.1 + gx * gx, a.2.1 + gy * gy, a.2.2 + gx * gy)) (0, 0, 0)
  let t := xx + yy
  let dd := (xx - yy) * (xx - yy) + 4 * xy * xy
  ((t - isqrt dd.toNat) / 2).toNat

/-- Far enough from the edges: 18 px (R184). -/
def inner (w h x y : Nat) : Bool := decide (18 ≤ x ∧ x + 18 < w ∧ 18 ≤ y ∧ y + 18 < h)

/-- The candidates of an image in raster order: position and response (R184). -/
def candidates (l : Lvl) (mask : Nat → Nat → Bool) (thr : Nat) : List (Nat × Nat × Nat) :=
  (List.range (l.w * l.h)).filterMap (fun k =>
    let x := k % l.w
    let y := k / l.w
    if !inner l.w l.h x y then none
    else
      let seen := (List.range 49).all (fun m => mask (x + m % 7 - 3) (y + m / 7 - 3))
      let r := response l x y
      if !seen || decide (r < thr) then none
      else
        let nms := (List.range 25).all (fun m =>
          m == 12 || (let q := response l (x + m % 5 - 2) (y + m / 5 - 2)
            if m < 12 then decide (q < r) else decide (q ≤ r)))
        if nms then some (x, y, r) else none)

/-- The best `n` of a list of candidates by R, ties to the lower raster index, given back in raster order. -/
def bestCands (w n : Nat) (l : List (Nat × Nat × Nat)) : List (Nat × Nat × Nat) :=
  let key (c : Nat × Nat × Nat) : Nat := c.2.1 * w + c.1
  let top := (sortBy (fun (a b : Nat × Nat × Nat) => decide (a.2.2 > b.2.2 ∨ (a.2.2 = b.2.2 ∧ key a ≤ key b))) l).take n
  sortBy (fun a b => decide (key a ≤ key b)) top

/-- The new features a job selects (R185), in raster order. `kept` are the rounded positions of its tracked features. -/
def selectNew (w h perCell limit : Nat) (kept : List (Nat × Nat)) (cands : List (Nat × Nat × Nat)) : List (Nat × Nat × Nat) :=
  let cells := (List.range (cdiv h 32)).flatMap (fun cy => (List.range (cdiv w 32)).map (fun cx => (cx, cy)))
  let picked := cells.flatMap (fun c =>
    let used := (kept.filter (fun p => p.1 / 32 == c.1 && p.2 / 32 == c.2)).length
    bestCands w (perCell - used) (cands.filter (fun p => p.1 / 32 == c.1 && p.2.1 / 32 == c.2)))
  bestCands w limit picked

/-! ## Orientation and descriptor (R186, R187) -/

/-- round(32,767 cos(2πk/32)) for k = 0 to 31. -/
def cosTab : List Int :=
  [32767, 32137, 30273, 27245, 23170, 18204, 12539, 6393, 0, -6393, -12539, -18204, -23170, -27245, -30273, -32137,
   -32767, -32137, -30273, -27245, -23170, -18204, -12539, -6393, 0, 6393, 12539, 18204, 23170, 27245, 30273, 32137]
/-- cos_k, and sin_k as the cosine a quarter turn earlier. -/
def cosK (k : Nat) : Int := cosTab.getD (k % 32) 0
def sinK (k : Nat) : Int := cosTab.getD ((k + 24) % 32) 0

/-- Points with integer coordinates in a disc of squared radius 225. -/
def disc15 : List (Int × Int) :=
  (List.range 31).flatMap (fun (r : Nat) => (List.range 31).filterMap (fun (c : Nat) =>
    let p : Int × Int := ((c : Int) - 15, (r : Int) - 15)
    if p.1 * p.1 + p.2 * p.2 ≤ 225 then some p else none))

/-- Orientation bin of a feature (R186). -/
def orient (l : Lvl) (x y : Nat) : Nat :=
  let m := disc15.foldl (fun (a : Int × Int) o =>
    let v : Int := l.at_ ((x : Int) + o.1).toNat ((y : Int) + o.2).toNat
    (a.1 + o.1 * v, a.2 + o.2 * v)) (0, 0)
  let score (k : Nat) : Int := m.1 * cosK k + m.2 * sinK k
  (bestBy (fun a b => decide (score a > score b)) (List.range 32)).getD 0

/-- One xorshift step (R187). -/
def xorshift (s : DW) : DW :=
  let s := s ^^^ (s <<< 13)
  let s := s ^^^ (s >>> 17)
  s ^^^ (s <<< 5)

/-- The pair generator: steps left, state, coordinates drawn for the pair being made, pairs made newest first. -/
def pairGo : Nat → DW → List Int → List (Int × Int × Int × Int) → List (Int × Int × Int × Int)
  | 0, _, _, acc => acc
  | n + 1, s, cs, acc =>
    if acc.length ≥ 256 then acc
    else
      let s := xorshift s
      let v : Nat := s.toNat / 2 ^ 27
      let cs := if v < 31 then cs ++ [(v : Int) - 15] else cs
      match cs with
      | [px, py, qx, qy] =>
        let ok := px * px + py * py ≤ 225 ∧ qx * qx + qy * qy ≤ 225 ∧ ¬ (px = qx ∧ py = qy)
        pairGo n s [] (if ok then (px, py, qx, qy) :: acc else acc)
      | _ => pairGo n s cs acc

/-- The pair table of a seed (R187). -/
def makePairs (seed : DW) : List (Int × Int × Int × Int) := (pairGo 65536 seed [] []).reverse

/-- 5×5 box sum of level 0. -/
def box5 (l : Lvl) (x y : Int) : Nat :=
  sumBy (fun (m : Nat) => l.at_ (x + ((m % 5 : Nat) : Int) - 2).toNat (y + ((m / 5 : Nat) : Int) - 2).toNat) (List.range 25)

/-- The 256-bit descriptor of a feature at a bin (R187). -/
def describe (pairs : List (Int × Int × Int × Int)) (l : Lvl) (x y b : Nat) : Bytes :=
  let rot (px py : Int) : Int × Int :=
    (rdiv (px * cosK b - py * sinK b) 32768, rdiv (px * sinK b + py * cosK b) 32768)
  let bits := pairs.map (fun p =>
    let a := rot p.1 p.2.1
    let c := rot p.2.2.1 p.2.2.2
    decide (box5 l (x + a.1) (y + a.2) < box5 l (x + c.1) (y + c.2)))
  (List.range 32).map (fun k =>
    BitVec.ofNat 8 ((List.range 8).foldl (fun n j => n + b2n (bits.getD (8 * k + j) false) * 2 ^ j) 0))

/-! ## Tracking (R188) -/

/-- Bilinear sample of a level at a Q23.8 position, none outside it. -/
def samp (l : Lvl) (x y : Int) : Option Int :=
  let ix := x / 256
  let iy := y / 256
  let ax := x % 256
  let ay := y % 256
  if ix < 0 ∨ iy < 0 ∨ ix + 1 > (l.w : Int) - 1 ∨ iy + 1 > (l.h : Int) - 1 then none
  else
    let p (i j : Int) : Int := l.at_ (ix + i).toNat (iy + j).toNat
    some (rdiv (p 0 0 * (256 - ax) * (256 - ay) + p 1 0 * ax * (256 - ay) + p 0 1 * (256 - ax) * ay + p 1 1 * ax * ay) 256)

/-- A level-0 position at level `l`. -/
def lvlPos (x : Int) (l : Nat) : Int := rdiv (x + 128) (2 ^ l) - 128

/-- Offsets of the 21×21 window. -/
def win21 : List (Int × Int) :=
  (List.range 21).flatMap (fun (j : Nat) => (List.range 21).map (fun (i : Nat) => ((i : Int) - 10, (j : Int) - 10)))

/-- What tracking answers: a new position with its residual, or how the feature was lost. -/
inductive Track where
  | tracked (x y : Int) (res : Nat)
  | lostResidual (res : Option Nat)
  | leftWindow
  deriving DecidableEq, Repr

/-- A template sample with its gradients. -/
structure Tpl where
  i : Int
  j : Int
  v : Int
  gx : Int
  gy : Int

/-- The template of a level around a position, none when it reaches outside (R188). -/
def template (l : Lvl) (tx ty : Int) : Option (List Tpl) :=
  win21.mapM (fun o => do
    let s (a b : Int) : Option Int := samp l (tx + 256 * (o.1 + a)) (ty + 256 * (o.2 + b))
    let v ← s 0 0
    let r ← s 1 0
    let le ← s (-1) 0
    let dn ← s 0 1
    let up ← s 0 (-1)
    some { i := o.1, j := o.2, v := v, gx := r - le, gy := dn - up })

/-- Iterations of one level: the displacement found, none when a sample reaches outside. -/
def trackLevel (cur : Lvl) (t : List Tpl) (tx ty gxx gyy gxy : Int) (det : Nat) : Nat → Int → Int → Option (Int × Int)
  | 0, dx, dy => some (dx, dy)
  | n + 1, dx, dy =>
    match t.mapM (fun (q : Tpl) => (samp cur (tx + dx + 256 * q.i) (ty + dy + 256 * q.j)).map (fun c => (q, q.v - c))) with
    | none => none
    | some es =>
      let b := es.foldl (fun (a : Int × Int) (e : Tpl × Int) => (a.1 + e.2 * e.1.gx, a.2 + e.2 * e.1.gy)) (0, 0)
      let ux := rdiv (512 * (gyy * b.1 - gxy * b.2)) det
      let uy := rdiv (512 * (gxx * b.2 - gxy * b.1)) det
      if ux.natAbs < 4 ∧ uy.natAbs < 4 then some (dx + ux, dy + uy)
      else trackLevel cur t tx ty gxx gyy gxy det n (dx + ux) (dy + uy)

/-- The levels from `l` down: the final displacement, or how the feature was lost. -/
def trackGo (prv cur : List Lvl) (fx fy px py : Int) (detSh : Nat) : Nat → Int → Int → Except Track (Int × Int)
  | 0, dx, dy => .ok (dx, dy)
  | l + 1, dx, dy =>
    let pl := prv.getD l { w := 0, h := 0, p := #[] }
    let cl := cur.getD l { w := 0, h := 0, p := #[] }
    let tx := lvlPos fx l
    let ty := lvlPos fy l
    match template pl tx ty with
    | none => .error .leftWindow
    | some t =>
      let g := t.foldl (fun (a : Int × Int × Int) (q : Tpl) => (a.1 + q.gx * q.gx, a.2.1 + q.gy * q.gy, a.2.2 + q.gx * q.gy)) (0, 0, 0)
      let det := g.1 * g.2.1 - g.2.2 * g.2.2
      if det < (2 ^ detSh : Nat) then .error (.lostResidual none)
      else
        match trackLevel cl t tx ty g.1 g.2.1 g.2.2 det.toNat 10 dx dy with
        | none => .error .leftWindow
        | some (dx, dy) =>
          if (fx + dx * 2 ^ l - px).natAbs > 64 * 256 ∨ (fy + dy * 2 ^ l - py).natAbs > 64 * 256 then .error .leftWindow
          else if l = 0 then .ok (dx, dy)
          else trackGo prv cur fx fy px py detSh l (2 * dx) (2 * dy)

/-- `track` of R188. -/
def track (prv cur : List Lvl) (fx fy px py : Int) (detSh resThr : Nat) : Track :=
  match trackGo prv cur fx fy px py detSh 4 (rdiv (px - fx) 8) (rdiv (py - fy) 8) with
  | .error t => t
  | .ok (dx, dy) =>
    let pl := prv.getD 0 { w := 0, h := 0, p := #[] }
    let cl := cur.getD 0 { w := 0, h := 0, p := #[] }
    match win21.mapM (fun o => do
      let a ← samp pl (fx + 256 * o.1) (fy + 256 * o.2)
      let b ← samp cl (fx + dx + 256 * o.1) (fy + dy + 256 * o.2)
      some (a - b).natAbs) with
    | none => .leftWindow
    | some es =>
      let res := es.foldl (· + ·) 0 / 441
      if res > resThr then .lostResidual (some res) else .tracked (fx + dx) (fy + dy) res

/-! ## The job -/

/-- Fields of a feature job (VIS_FEATURES table, R182). -/
def featForm (j : DescWords) : Bool :=
  let track := bitOf (j.dw 6) 1
  (bitOf (j.dw 6) 0 || track) && decide (1 ≤ j.f 6 7 2 ∧ 1 ≤ j.f 6 21 8 ∧ j.f 6 21 8 ≤ 8192) &&
    decide (64 ≤ j.f 8 15 0 ∧ j.f 8 15 0 ≤ 4096 ∧ 64 ≤ j.f 8 31 16 ∧ j.f 8 31 16 ≤ 4096) &&
    (if track then j.dw 10 != 0 && j.dw 11 != 0 else j.zero 10 12)

/-- The 64 bytes of a feature record. -/
def featRec (id : DW) (status orient age : Nat) (x y : Int) (resp resid : Nat) (desc : Bytes) : Bytes :=
  leWords [id, dwN (status + orient * 4 + age * 2 ^ 16), dwI x, dwI y, dwN (Nat.min resp (2 ^ 32 - 1)), dwN resid, 0, 0] ++
    bslice desc 0 32

/-- One feature job (R183–R191). The residual of a feature lost before one was formed is not stated and is open. -/
def Dev.featJob (d : Dev) (x : Desc) (job : Nat) (j : DescWords) : Res :=
  let w := j.f 8 15 0
  let h := j.f 8 31 16
  let img := d.luma x (j.dw 7) w h
  let l0 : Lvl := { w := w, h := h, p := ((List.range (w * h)).map (fun k => img.at_ (k % w) (k / w))).toArray }
  let cur := pyramid l0
  let pairs := makePairs (d.reg 0xA000)
  let prof := 0xA040 + 16 * j.f 6 23 22
  let maxF := j.f 6 21 8
  let trk := bitOf (j.dw 6) 1
  let psize := (d.lenOf x (j.dw 11))
  let head := if trk then d.rd x (j.dw 11) 0 64 else []
  let n := if trk then (bw head 0).toNat else 0
  let rdr := [imageRead (j.dw 7) h (lumaStride w 1)] ++
    (if trk then [(j.dw 10, 0, pyrSize w h), (j.dw 11, 0, 64 + 64 * Nat.min n 8192)] else []) ++
    (if j.dw 12 = 0 then [] else [(j.dw 12, 0, 8 * Nat.min n 8192)])
  if trk ∧ (bits (bw head 2) 15 0 ≠ w ∨ bits (bw head 2) 31 16 ≠ h ∨ 8192 < n ∨ psize < 64 + 64 * n) then
    { st := .failedCheck, rdr := rdr, post := fun d => d.event (x.ev 0x4B (d4 := 0) (d5 := dwN job)) }
  else
    let key := d.openKey x rdr
    let free (k : Nat) : Nat := (Config.openValue key (8192 * job + k)).toNat % 2 ^ 32
    let list := if trk then d.rd x (j.dw 11) 64 (64 * n) else []
    let pred := if j.dw 12 = 0 then [] else d.rd x (j.dw 12) 0 (8 * n)
    let prv := if trk then pyrParse (byteArr (d.rd x (j.dw 10) 0 (pyrSize w h))) w h else []
    let live := (List.range n).filter (fun k => bits (bw list (16 * k + 1)) 1 0 ≤ 1)
    let done := live.take maxF
    let s32 (b : Bytes) (k : Nat) : Int := (bw b k).toInt
    let recs := done.map (fun k =>
      let id := bw list (16 * k)
      let age := bits (bw list (16 * k + 1)) 31 16
      let fx := s32 list (16 * k + 2)
      let fy := s32 list (16 * k + 3)
      let resp := (bw list (16 * k + 4)).toNat
      let (px, py) := if j.dw 12 = 0 then (fx, fy) else (s32 pred (2 * k), s32 pred (2 * k + 1))
      match track prv cur fx fy px py (d.regF (prof + 8) 6 0) (d.regF (prof + 4) 15 0) with
      | .tracked nx ny res =>
        let ix := (rdiv nx 256)
        let iy := (rdiv ny 256)
        if 0 ≤ ix ∧ 0 ≤ iy ∧ inner w h ix.toNat iy.toNat ∧ img.seen ix.toNat iy.toNat then
          let b := orient l0 ix.toNat iy.toNat
          (some (ix.toNat, iy.toNat), featRec id 1 b (Nat.min 65535 (age + 1)) nx ny resp res (describe pairs l0 ix.toNat iy.toNat b))
        else (none, featRec id 3 (bits (bw list (16 * k + 1)) 6 2) age fx fy resp res [])
      | .lostResidual res => (none, featRec id 2 (bits (bw list (16 * k + 1)) 6 2) age fx fy resp (res.getD (free k)) [])
      | .leftWindow => (none, featRec id 3 (bits (bw list (16 * k + 1)) 6 2) age fx fy resp (free k) []))
    let kept := recs.filterMap (·.1)
    let news := if bitOf (j.dw 6) 0 then
        selectNew w h (j.f 6 7 2) (maxF - kept.length) kept (candidates l0 img.seen (d.reg prof).toNat) else []
    -- the list never exceeds MAX_FEATURES, lost records included (R190)
    let news := bestCands w (maxF - recs.length) news
    let newRecs := news.zipIdx.map (fun c =>
      let b := orient l0 c.1.1 c.1.2.1
      featRec (j.dw 14 + dwN c.2) 0 b 0 (256 * c.1.1) (256 * c.1.2.1) c.1.2.2 0 (describe pairs l0 c.1.1 c.1.2.1 b))
    let next := j.dw 14 + dwN news.length
    let out := leWords [dwN (recs.length + newRecs.length), next, dwN (w + h * 2 ^ 16)] ++ List.replicate 52 0 ++
      (recs.map (·.2)).flatten ++ newRecs.flatten
    let lost := live.length - done.length
    { r4 := dwN (kept.length + news.length * 2 ^ 16), r5 := next, rdr := rdr,
      wr := [(j.dw 9, 0, pyrBytes cur), (j.dw 13, 0, out)],
      post := fun d => if lost = 0 then d else d.event (x.ev 0x4C (d4 := dwN lost) (d5 := dwN job)) }

/-- Two 16-bit counts in a word, summed each and saturated. -/
def pairSum (a b : DW) : DW :=
  dwN (Nat.min (bits a 15 0 + bits b 15 0) 65535 + Nat.min (bits a 31 16 + bits b 31 16) 65535 * 2 ^ 16)

/-- VIS_FEATURES. -/
def featDef : OpDef :=
  { kind := 4
    resv := fun j => j.f 6 30 24 == 0 && j.zero 15 15
    form := fun js => js.all featForm
    uses := fun js => js.flatMap (fun j => [Use.rd (j.dw 7)] ++ (if bitOf (j.dw 6) 1 then [Use.rd (j.dw 10), Use.rd (j.dw 11)] else []) ++
      (if j.dw 12 = 0 then [] else [Use.rd (j.dw 12)]) ++ [Use.wr (j.dw 9), Use.wr (j.dw 13)])
    late := fun d js => if js.all (fun j =>
        let sz (h : DW) : Nat := (d.sheet (shIdx h)).size
        d.imageOk (j.dw 7) (j.f 8 31 16) (lumaStride (j.f 8 15 0) 1) 37 && decide (pyrSize (j.f 8 15 0) (j.f 8 31 16) ≤ sz (j.dw 9)) &&
          decide (64 + 64 * j.f 6 21 8 ≤ sz (j.dw 13)))
      then none else some .refusedMalformed
    needs := fun js => js.flatMap (fun j =>
      (if bitOf (j.dw 6) 1 then [(j.dw 10, pyrSize (j.f 8 15 0) (j.f 8 31 16))] else []))
    images := fun js => js.map (fun j => (j.dw 7, j.f 8 31 16 * lumaStride (j.f 8 15 0) 1))
    axes := fun _ x => batchAxes x.jobs.length
    run := fun d x => visRun pairSum (fun _ b => b) (d.featJob x) x }

/-- VIS_DESC_SEED written before the lock: a write of 0 is ignored; the pair table follows the seed (R187). -/
def visDescSeedWrite (v : DW) (d : Dev) : Dev := if d.locked ∨ v = 0 then d else d.setReg 0xA000 v

end Sys2Proof.Machine
end

