-- ==== Sys2Proof/Machine/FusMath.lean ====
section
/-! DEFINITION. The arithmetic of the fusion leaves (R219–R223): FP32 vectors, matrices and quaternions, sine and arctangent
tables, the series of rotations, poses of variable records, and Cholesky factors. -/

namespace Sys2Proof.Machine

/-- A vector, and a matrix as its rows. -/
abbrev FVec := List DW
abbrev FMat := List FVec

/-- The FP32 value nearest a ratio of integers. -/
def fq (n d : Nat) : DW := fdiv (fofInt n 0) (fofInt d 0)
/-- Its negative. -/
def fqn (n d : Nat) : DW := fneg (fq n d)
abbrev fOne : DW := 0x3F800000
abbrev fHalf : DW := 0x3F000000

/-- Component `i` of a vector. -/
def FVec.at_ (v : FVec) (i : Nat) : DW := v.getD i 0
/-- Element of a matrix. -/
def FMat.at_ (a : FMat) (i j : Nat) : DW := (a.getD i []).getD j 0

/-- A dot product: each product rounded, the terms summed in canonical order (R219, R25). -/
def fdot (a b : FVec) : DW := fsum (List.zipWith fmul a b)
def vadd (a b : FVec) : FVec := List.zipWith fadd a b
def vsub (a b : FVec) : FVec := List.zipWith fsub a b
def vscale (s : DW) (a : FVec) : FVec := a.map (fmul s)
def mscale (s : DW) (a : FMat) : FMat := a.map (vscale s)
def madd (a b : FMat) : FMat := List.zipWith vadd a b
def msub (a b : FMat) : FMat := List.zipWith vsub a b
def mneg (a : FMat) : FMat := a.map (·.map fneg)
/-- Transpose of a matrix of `n` columns. -/
def mtr (n : Nat) (a : FMat) : FMat := (List.range n).map (fun j => a.map (fun r => r.getD j 0))
/-- Matrix times vector. -/
def mvec (a : FMat) (v : FVec) : FVec := a.map (fun r => fdot r v)
/-- Matrix times a matrix of `n` columns. -/
def mmul (n : Nat) (a b : FMat) : FMat := let t := mtr n b; a.map (fun r => t.map (fdot r))
/-- Identity and zero. -/
def mid (n : Nat) : FMat := (List.range n).map (fun i => (List.range n).map (fun j => if i = j then fOne else 0))
def mzero (r c : Nat) : FMat := List.replicate r (List.replicate c 0)
/-- Matrices side by side. -/
def mcat (a b : FMat) : FMat := List.zipWith (· ++ ·) a b

/-- The skew matrix of a 3-vector. -/
def skew (v : FVec) : FMat :=
  [[0, fneg (v.at_ 2), v.at_ 1], [v.at_ 2, 0, fneg (v.at_ 0)], [fneg (v.at_ 1), v.at_ 0, 0]]

/-! ## Quaternions, as w, x, y, z -/

/-- A Horner evaluation, coefficients from the lowest. -/
def horner (x : DW) : List DW → DW
  | [] => 0
  | [c] => c
  | c :: t => fadd c (fmul x (horner x t))

/-- The product of two quaternions, each component left to right (log 40). -/
def qmul (a b : FVec) : FVec :=
  let t (i j : Nat) : DW := fmul (a.at_ i) (b.at_ j)
  [fsub (fsub (fsub (t 0 0) (t 1 1)) (t 2 2)) (t 3 3), fsub (fadd (fadd (t 0 1) (t 1 0)) (t 2 3)) (t 3 2),
   fadd (fadd (fsub (t 0 2) (t 1 3)) (t 2 0)) (t 3 1), fadd (fsub (fadd (t 0 3) (t 1 2)) (t 2 1)) (t 3 0)]

/-- The conjugate. -/
def qconj (q : FVec) : FVec := [q.at_ 0, fneg (q.at_ 1), fneg (q.at_ 2), fneg (q.at_ 3)]

/-- The rotation matrix of a unit quaternion (log 40). -/
def qrot (q : FVec) : FMat :=
  let t (i j : Nat) : DW := fmul (q.at_ i) (q.at_ j)
  let two (a : DW) : DW := fmul 0x40000000 a
  let dg (a b : DW) : DW := fsub fOne (two (fadd a b))
  [[dg (t 2 2) (t 3 3), two (fsub (t 1 2) (t 0 3)), two (fadd (t 1 3) (t 0 2))],
   [two (fadd (t 1 2) (t 0 3)), dg (t 1 1) (t 3 3), two (fsub (t 2 3) (t 0 1))],
   [two (fsub (t 1 3) (t 0 2)), two (fadd (t 2 3) (t 0 1)), dg (t 1 1) (t 2 2)]]

/-- The transpose of a rotation matrix. -/
def rotT (a : FMat) : FMat := mtr 3 a

/-- Divide a quaternion by the root of its sum of squares. -/
def qunit (q : FVec) : FVec := let n := fsqrt (fdot q q); q.map (fun c => fdiv c n)

/-- A quaternion with w ≥ 0 (R220). -/
def qpos (q : FVec) : FVec := if fLt (q.at_ 0) 0 then q.map fneg else q

/-- Decode a stored quaternion (R220). -/
def qread (w : List DW) : FVec := qunit (w.map (fun c => fofInt c.toInt (-30)))

/-- qexp (R223). -/
def qexp (p : FVec) : FVec :=
  let x := fmul (fdot p p) 0x3E800000
  let c := horner x [fOne, fqn 1 2, fq 1 24, fqn 1 720]
  let s := horner x [fOne, fqn 1 6, fq 1 120, fqn 1 5040]
  c :: vscale (fmul fHalf s) p

/-- qlog (R223), after R220. -/
def qlog (q : FVec) : FVec :=
  let q := qpos q
  let v := q.drop 1
  let x := fdot v v
  let c := horner x [fOne, fq 1 6, fq 3 40, fq 5 112, fq 35 1152]
  v.map (fun a => fmul (fmul a 0x40000000) c)

/-- I + k·a[φ]× + b[φ]×², with k = ±1. -/
def series (neg : Bool) (a b : DW) (p : FVec) : FMat :=
  let k := skew p
  let l := mscale a k
  madd ((if neg then msub else madd) (mid 3) l) (mscale b (mmul 3 k k))

/-- The coefficients of Vmat, Jl and Jr at s, and c of Vinv and the inverses (R223). -/
def serA (s : DW) : DW := horner s [fHalf, fqn 1 24, fq 1 720]
def serB (s : DW) : DW := horner s [fq 1 6, fqn 1 120, fq 1 5040]
def serC (s : DW) : DW := horner s [fq 1 12, fq 1 720, fq 1 30240]

def vmat (p : FVec) : FMat := let s := fdot p p; series false (serA s) (serB s) p
def jr (p : FVec) : FMat := let s := fdot p p; series true (serA s) (serB s) p
def vinv (p : FVec) : FMat := series true fHalf (serC (fdot p p)) p
def jrInv (p : FVec) : FMat := series false fHalf (serC (fdot p p)) p

/-! ## Sine and arctangent (R221, R222) -/

/-- π × 2^120, rounded down. -/
abbrev piFix : Nat := 0x3243F6A8885A308D313198A2E037073

/-- The terms of the sine series at a fixed-point argument: terms left, index, term, sum. -/
def sinGo (x : Int) : Nat → Nat → Int → Int → Int
  | 0, _, _, s => s
  | n + 1, k, t, s =>
    let t := -(t * x / (2 ^ 120 : Nat) * x / (2 ^ 120 : Nat)) / ((2 * k * (2 * k + 1) : Nat) : Int)
    sinGo x n (k + 1) t (s + t)

/-- ST[i]: 2^30·sin(πi/2048), rounded half to even (R221). -/
def stTab (i : Nat) : Int :=
  let x : Int := piFix * i / 2048
  rdiv (sinGo x 30 1 x x) (2 ^ 90)

/-- sin(a) in Q2.30 (R221). -/
def sin30 (a : DW) : Int :=
  let q : Nat := a.toNat / 2 ^ 30
  let r0 : Nat := a.toNat % 2 ^ 30
  let r : Nat := if q % 2 = 1 then 2 ^ 30 - r0 else r0
  let i : Nat := r / 2 ^ 20
  let f : Nat := r % 2 ^ 20
  let s : Int := stTab i + (if i < 1024 then rdiv ((stTab (i + 1) - stTab i) * f) (2 ^ 20) else 0)
  if q / 2 % 2 = 1 then -s else s

/-- cos(a) in Q2.30. -/
def cos30 (a : DW) : Int := sin30 (a + 0x40000000)

/-- The terms of Euler's arctangent series at i/1024: terms left, index, term, sum, in units of 2^-120. -/
def atanGo (i : Nat) : Nat → Nat → Nat → Nat → Nat
  | 0, _, _, s => s
  | n + 1, k, t, s =>
    let t := t * (2 * k + 2) * (i * i) / ((2 * k + 3) * (1024 * 1024 + i * i))
    atanGo i n (k + 1) t (s + t)

/-- AT[i]: the FP32 value nearest atan(i/1024) (R222). -/
def atTab (i : Nat) : DW :=
  let t := 2 ^ 120 * 1024 * i / (1024 * 1024 + i * i)
  fround false (atanGo i 120 0 t t) (-120) true

/-- atan2f(y, x) for y ≥ 0 (R222). -/
def atan2f (y x : DW) : DW :=
  let xp := fabs x
  let lo := if fLt y xp then y else xp
  let hi := if fLt y xp then xp else y
  let u := if fkey y = 0 ∧ fkey xp = 0 then 0 else fdiv lo hi
  let k := fmul u 0x44800000
  let one := fkey u = fkey fOne
  let i : Nat := if one then 1023 else
    match (fdec k).dy? with
    | some v => (if v.e ≥ 0 then v.m * pow2 v.e else v.m / (pow2 (-v.e) : Int)).toNat
    | none => 0
  let f := if one then fOne else fsub k (fofInt i 0)
  let t := fadd (atTab i) (fmul f (fsub (atTab (i + 1)) (atTab i)))
  let t := if fLt xp y then fsub 0x3FC90FDB t else t
  if fLt x 0 then fsub 0x40490FDB t else t

/-! ## Cholesky -/

/-- Element (i, j) of a factor being built by columns. -/
def cholAt (l : List FVec) (i j : Nat) : DW := (l.getD j []).getD i 0

/-- The next column of the factor, and its pivot: A[j][j] less the squares of row j, the root, then the quotients. -/
def cholCol (n : Nat) (a : FMat) (l : List FVec) (j : Nat) : DW × FVec :=
  let row (i : Nat) : FVec := (List.range j).map (cholAt l i)
  let p := fsub (a.at_ j j) (fdot (row j) (row j))
  let r := fsqrt p
  (p, (List.range n).map (fun i =>
    if i < j then 0 else if i = j then r else fdiv (fsub (a.at_ i j) (fdot (row i) (row j))) r))

/-- The factor L by columns, in ascending order, with its pivots (R235, R241). -/
def chol (n : Nat) (a : FMat) : List FVec × List DW :=
  (List.range n).foldl (fun (acc : List FVec × List DW) j =>
    let c := cholCol n a acc.1 j
    (acc.1 ++ [c.2], acc.2 ++ [c.1])) ([], [])

/-- Forward substitution L y = b, ascending rows. -/
def fwdSub (l : List FVec) (b : FVec) : FVec :=
  foldIdx (fun i (y : FVec) c =>
    y ++ [fdiv (fsub c (fdot ((List.range i).map (cholAt l i)) y)) (cholAt l i i)]) 0 [] b

/-- Back substitution Lᵀ x = y, descending rows. -/
def backSub (n : Nat) (l : List FVec) (y : FVec) : FVec :=
  ((List.range n).reverse).foldl (fun (x : FVec) i =>
    let ks := (List.range (n - 1 - i)).map (fun k => i + 1 + k)
    fdiv (fsub (y.at_ i) (fdot (ks.map (fun k => cholAt l k i)) x)) (cholAt l i i) :: x) []

/-! ## Variable records -/

/-- A pose: unit quaternion, position in 2^-12 m. -/
structure Pose where
  q : FVec
  p : List Int

/-- Words of a string as a list. -/
def wordsAt (b : Bytes) (i n : Nat) : List DW := (List.range n).map (fun k => bw b (i + k))

/-- The pose of a record. -/
def poseOf (b : Bytes) : Pose := { q := qread (wordsAt b 3 4), p := (wordsAt b 7 3).map (·.toInt) }

/-- Integers in 2^-12 m as FP32 metres. -/
def metres (p : List Int) : FVec := p.map (fun c => fofInt c (-12))

/-- VTYPE of a record. -/
def vtype (b : Bytes) : Nat := bits (bw b 2) 2 0

/-- Dimension of a slot type: POSE, VEL, BIAS, LANDMARK. -/
def slotDim (t : Nat) : Nat := if t = 1 ∨ t = 3 then 6 else 3

/-- Convert to fixed point, counting saturations; NaN at position `k` gives the free value `fv k` (R219, log 41). -/
def fixAll (fv : Nat → Int) (k0 : Nat) (scale : Int) (v : FVec) : List Int × Nat :=
  foldIdx (fun k (acc : List Int × Nat) a =>
    let r := ftoFix (fv (k0 + k)) a scale 32
    (acc.1 ++ [r.1], acc.2 + b2n r.2)) 0 ([], 0) v

/-- A saturating sum of an s32 and a rounded value. -/
def addSat (p x : Int) : Int × Nat := let s := satS 32 (p + x); (s, b2n (s != p + x))

/-- An s32 coordinate with a step in FP32 metres added: p + round(v·4096), saturated once (R261); a NaN adds the open value given. -/
def addStep (open_ : Nat → Int) (k0 : Nat) (p : List Int) (v : FVec) : List Int × Nat :=
  let l := (List.zip p v).zipIdx.map (fun a => addSat a.1.1 ((ftoInt a.1.2 12).getD (open_ (k0 + a.2))))
  (l.map (·.1), sumBy (·.2) l)

end Sys2Proof.Machine
end

