-- ==== Sys2Proof/Machine/Fusion.lean ====
section
/-! DEFINITION. Trajectory (R224–R227), lidar clouds (R228, R229) and projection into cameras (R230–R234). -/

namespace Sys2Proof.Machine

/-! ## FUS registers -/

/-- Rotation of a sensor into the body frame, and its translation in metres (FUS_SENSOR). -/
def Dev.extQ (d : Dev) (s : Nat) : FMat := qrot (qread ((List.range 4).map (fun k => d.reg (0xD000 + 32 * s + 4 * k))))
def Dev.extT (d : Dev) (s : Nat) : FVec := (List.range 3).map (fun k => fofInt (d.reg (0xD000 + 32 * s + 16 + 4 * k)).toInt (-12))
/-- Base of an IMU's FUS_IMU entry. -/
def fusImu (s : Nat) : Nat := 0xC100 + 32 * (s % 4 + (if s < 0x80 then 0 else 4))
/-- Base of a camera's FUS_CAM entry. -/
def fusCam (s : Nat) : Nat := 0xC400 + 64 * (s % 16 + (if s < 0x80 then 0 else 16))
/-- Gravity in the site frame. -/
def Dev.gravity (d : Dev) : FVec := [d.reg 0xC008, d.reg 0xC00C, d.reg 0xC010]

/-! ## IMU sample sets (R224) -/

/-- A sample set: its stamp, the OR of DW2's flags (SETTLING 1, SAT 2, GAP 4), the six values. -/
structure ImuSet where
  t     : Nat
  flags : Nat
  v     : List Int

/-- The plough records a closed plough selector holds: count and words. -/
def Dev.plgRecs (d : Dev) (x : Desc) (m : SelMatch) : List Bytes :=
  match logOf m.sensor with
  | none => []
  | some l => m.units.map (fun c => d.rd x (d.plog l).sheet (16 * (c % d.logSlots l)) 16)

/-- What the reading of those records consumes. -/
def Dev.plgReads (d : Dev) (m : SelMatch) : List (DW × Nat × Nat) :=
  match logOf m.sensor with
  | none => []
  | some l => m.units.map (fun c => ((d.plog l).sheet, 16 * (c % d.logSlots l), 16))

/-- The plough channels of an IMU entry: GX, GY, GZ, AX, AY, AZ. -/
def Dev.imuCh (d : Dev) (s : Nat) : List Nat := (List.range 6).map (fun j => 8 * (s % 4) + d.regF (fusImu s) (3 * j + 2) (3 * j))

/-- The sample sets of the records, in STAMP order, and the STAMPs skipped because a channel lacks its record. -/
def Dev.imuSets (d : Dev) (s : Nat) (rs : List Bytes) : List ImuSet × Nat :=
  let ch := d.imuCh s
  let mine := rs.filter (fun r => ch.contains (recCh r))
  let stamps := mine.foldl (fun (acc : List Nat) r => if acc.contains (recStamp r) then acc else acc ++ [recStamp r]) []
  stamps.foldl (fun (acc : List ImuSet × Nat) t =>
    match ch.mapM (fun c => mine.find? (fun r => recStamp r == t && recCh r == c)) with
    | some six => (acc.1 ++ [{ t := t, flags := six.foldl (fun f r => f ||| bits (bw r 2) 31 29) 0,
                               v := six.map (fun r => sext 24 (bits (bw r 2) 23 0)) }], acc.2)
    | none => (acc.1, acc.2 + 1)) ([], 0)

/-- Rotated measurements of a set less the biases: angular rate and specific force (R224). -/
def Dev.imuMeas (d : Dev) (s : Nat) (bg ba : FVec) (z : ImuSet) : FVec × FVec :=
  let r := d.extQ s
  let ax (o sc : Nat) : FVec := (List.range 3).map (fun j => fmul (fofInt (z.v.getD (o + j) 0) 0) (d.reg (fusImu s + sc)))
  (vsub (mvec r (ax 0 4)) bg, vsub (mvec r (ax 3 8)) ba)

/-- Seconds between two stamps (R224). -/
def dtOf (a b : Nat) : DW := fmul (fofInt ((b : Int) - a) 0) (fq 1 1000000000)

/-- The sets from the last one at or before a time on (or all of them when there is none: then `true`). -/
def setsFrom (t0 : Nat) (l : List ImuSet) : List ImuSet × Bool :=
  let before := l.filter (fun z => decide (z.t ≤ t0))
  match before.getLast? with
  | some z => (z :: l.filter (fun y => decide (t0 < y.t)), false)
  | none => (l, true)

/-! ## FUS_PROPAGATE -/

/-- The running state of the integration. -/
structure Prop_ where
  q   : FVec
  dp  : FVec
  v   : FVec

/-- One interval (R224); also the rotation angle's size. -/
def Dev.propStep (d : Dev) (s : Nat) (bg ba : FVec) (st : Prop_) (a b : ImuSet) : Prop_ × DW :=
  let dt := dtOf a.t b.t
  let (w, acc) := d.imuMeas s bg ba a
  let aw := vadd (mvec (qrot st.q) acc) d.gravity
  let phi := vscale dt w
  ({ q := qunit (qmul st.q (qexp phi)),
     dp := vadd (vadd st.dp (vscale dt st.v)) (vscale (fmul (fmul fHalf dt) dt) aw),
     v := vadd st.v (vscale dt aw) }, fsqrt (fdot phi phi))

/-- The 64 bytes of a knot and the saturations of its conversion. -/
def knotBytes (fv : Nat → Int) (k : Nat) (t flags : Nat) (p0 : List Int) (st : Prop_) : Bytes × Nat :=
  let q := fixAll fv (16 * k) 30 (qpos st.q)
  let dp := fixAll fv (16 * k + 4) 12 st.dp
  let ps := List.zipWith addSat p0 dp.1
  (leWords ([dwN t, dwN (t / 2 ^ 32), dwN (flags * 2 ^ 8)] ++ q.1.map dwI ++ ps.map (fun p => dwI p.1) ++ st.v ++ [0, 0, 0]),
    q.2 + dp.2 + sumBy (·.2) ps)

/-- Execute FUS_PROPAGATE. -/
def Dev.runPropagate (d : Dev) (x : Desc) : Res :=
  let w := x.w
  let m := x.sels.headD (selOf d w 10 true)
  let s := m.sensor
  let b := d.rd x (w.dw 7) 0 192
  let rec0 := bslice b 0 64
  let t0 := bnat rec0 0 8
  let bias := bslice b 128 64
  let bg := wordsAt bias 10 3
  let ba := wordsAt bias 13 3
  let (sets, skipped) := d.imuSets s (d.plgRecs x m)
  let (run, extrap) := setsFrom t0 sets
  let rdr := (w.dw 7, 0, 192) :: d.plgReads m
  let key := d.openKey x rdr
  let fv (k : Nat) : Int := openInt key k
  let p0 := (poseOf rec0).p
  let st0 : Prop_ := { q := (poseOf rec0).q, dp := [0, 0, 0], v := wordsAt (bslice b 64 64) 10 3 }
  let pairs := ((run.zip run.tail).take (w.f 9 15 0)).zipIdx
  let r := pairs.foldl (fun (acc : Prop_ × Bytes × Nat × List Nat × List Nat) p =>
    let (a, z) := p.1
    let (st, ang) := d.propStep s bg ba acc.1 a z
    let gap : Bool := decide (z.flags / 4 % 2 = 1 ∨ a.t + 10000000 < z.t ∨ (0 < p.2 ∧ fLt fHalf ang = true))
    let fl := b2n gap + z.flags / 2 % 2 * 2 + z.flags % 2 * 4 + b2n (extrap && p.2 == 0) * 8
    let k := knotBytes fv p.2 z.t fl p0 st
    (st, acc.2.1 ++ k.1, acc.2.2.1 + k.2, acc.2.2.2.1 ++ [z.t], if gap then acc.2.2.2.2 ++ [p.2] else acc.2.2.2.2))
    (st0, [], 0, [], [])
  let ts := r.2.2.2.1
  let n := ts.length
  let none_ : Nat := (Config.openValue key (16 * n)).toNat
  let first := ts.headD none_
  let last := ts.getLast?.getD none_
  let head := leWords [dwN n, dwN (w.f 10 7 0), dwN first, dwN (first / 2 ^ 32), dwN last, dwN (last / 2 ^ 32)] ++ List.replicate 40 0
  { r4 := dwN n, r5 := dwN skipped, wr := [(w.dw 8, 0, head ++ r.2.1)],
    rdr := rdr,
    post := fun d =>
      let d := d.count cFusSat r.2.2.1
      d.events (r.2.2.2.2.map (fun k => x.ev 0x74 (d4 := dwN (w.f 10 7 0)) (d5 := dwN k))) }

/-- A plough selector of a fusion opcode: an IMU, MODE ALL. -/
def imuSelForm (w : DescWords) : Bool := (logOf (w.f 10 7 0)).isSome && w.f 10 9 8 == 0

/-- An IMU entry is usable: neither scale is zero (R224). -/
def Dev.imuUsable (d : Dev) (w : DescWords) : Bool :=
  let s := (selOf d w 10 true).sensor
  decide (fkey (d.reg (fusImu s + 4)) ≠ 0 ∧ fkey (d.reg (fusImu s + 8)) ≠ 0)

/-- A sheet's size. -/
def Dev.szOf (d : Dev) (h : DW) : Nat := (d.sheet (shIdx h)).size

/-- FUS_PROPAGATE. -/
def propagateDef : OpDef :=
  { kind := 5
    resv := fun w => w.zero 6 6 && w.f 9 31 16 == 0 && w.f 10 15 10 == 0
    form := fun js => js.all (fun w => decide (1 ≤ w.f 9 15 0) && imuSelForm w)
    uses := fun js => js.flatMap (fun w => [Use.rd (w.dw 7), Use.wr (w.dw 8)])
    late := fun d js => js.findSome? (fun w =>
      if d.szOf (w.dw 8) < 64 + 64 * w.f 9 15 0 then some .refusedMalformed
      else match d.checkSel w 10 true with
        | some st => some st
        | none => if d.imuUsable w then none else some .refusedDisabled)
    needs := fun js => js.map (fun w => (w.dw 7, 192))
    run := fun d x => d.runPropagate x }

/-! ## Interpolation (R225–R227) -/

/-- A knot of a trajectory. -/
structure Knot where
  t     : Nat
  flags : Nat
  pose  : Pose

/-- The knots of a sheet, of knots with equal T the earlier. -/
def Dev.knots (d : Dev) (x : Desc) (h : DW) : List Knot :=
  let n := Nat.min (d.rdW x h 0).toNat (d.lenOf x h / 64 - 1)
  let b := d.rd x h 64 (64 * n)
  (List.range n).foldl (fun (acc : List Knot) k =>
    let r := bslice b (64 * k) 64
    let z : Knot := { t := bnat r 0 8, flags := bits (bw r 2) 11 8, pose := poseOf r }
    if acc.any (fun y => y.t == z.t) then acc else acc ++ [z]) []

/-- What the reading of a knot sheet consumes. -/
def Dev.knotReads (d : Dev) (x : Desc) (h : DW) : DW × Nat × Nat := (h, 0, Nat.min (d.lenOf x h) (64 + 64 * (d.rdW x h 0).toNat))

/-- A pose with whether its segment makes it suspect, and its saturations. -/
structure PoseAt where
  pose    : Pose
  suspect : Bool
  sat     : Nat

/-- The segment that serves a time: the one that starts at the last knot not after it, the end segments beyond. -/
def segment (ks : List Knot) (t : Nat) : Option (Knot × Knot) :=
  let ps := ks.zip ks.tail
  match (ps.filter (fun p => decide (p.1.t ≤ t))).getLast? with
  | some p => some p
  | none => ps.head?

/-- The pose at a device time (R225–R227); `fv` gives the free position of axis `k` where the arithmetic ends in NaN. -/
def interp (extrapNs : Nat) (fv : Nat → Int) (ks : List Knot) (t : Nat) : Option PoseAt :=
  match segment ks t with
  | none => none
  | some (a, b) =>
    let near := decide (a.t ≤ t + extrapNs ∧ t ≤ b.t + extrapNs)
    if !near ∨ b.flags % 2 = 1 then none
    else
      let al := fdiv (fofInt ((t : Int) - a.t) 0) (fofInt ((b.t : Int) - a.t) 0)
      let dq := qmul (qconj a.pose.q) b.pose.q
      let tr := mvec (qrot (qconj a.pose.q)) (metres (List.zipWith (· - ·) b.pose.p a.pose.p))
      let phi := qlog dq
      let rho := mvec (vinv phi) tr
      let fa := vscale al phi
      let q := qmul a.pose.q (qexp fa)
      let m := mvec (qrot a.pose.q) (mvec (vmat fa) (vscale al rho))
      let ps := m.zipIdx.map (fun c => ftoFix (fv c.2) c.1 12 64)
      some { pose := { q := q, p := List.zipWith (fun p c => p + c.1) a.pose.p ps }, suspect := decide (b.flags / 2 ≠ 0),
             sat := sumBy (fun c => b2n c.2) ps }

/-- The transform from one interpolated body frame to another (R228): rotation and translation. -/
def relPose (a p : Pose) : FMat × FVec :=
  (qrot (qmul (qconj a.q) p.q), mvec (qrot (qconj a.q)) (metres (List.zipWith (· - ·) p.p a.p)))

/-! ## FUS_CLOUD -/

/-- An input point: position in its unit's list, coordinates, intensity, ring, time, or why it is dropped at once. -/
structure CPt where
  pL    : List Int
  inten : Nat
  ring  : Nat
  t     : Nat
  valid : Bool
  unchecked : Bool

/-- A polar point in Cartesian coordinates (R228). -/
def polarPt (r az el : DW) : List Int :=
  [rdiv (r.toInt * cos30 el * cos30 az) (2 ^ 60), rdiv (r.toInt * cos30 el * sin30 az) (2 ^ 60), rdiv (r.toInt * sin30 el) (2 ^ 30)]

/-- The points of the matched units, in order. -/
def Dev.cloudIn (d : Dev) (x : Desc) (m : SelMatch) : List CPt :=
  let polar := bitOf (d.reg (0x5000 + 0x100 * d.parserOf m.sensor)) 0
  m.units.flatMap (fun u =>
    match Tab.get? d.sns.units u with
    | none => []
    | some z =>
      let w (k : Nat) : DW := z.record.getD k 0
      if w 11 = 0xFFFFFFFF then []
      else
        let n := (w 12).toNat
        let b := d.rd x (d.handleOf z.sheet) (w 11).toNat (16 * n)
        (List.range n).map (fun i =>
          let c (k : Nat) : DW := bw b (4 * i + k)
          { pL := if polar then polarPt (c 0) (c 1) (c 2) else [(c 0).toInt, (c 1).toInt, (c 2).toInt],
            inten := bits (c 3) 23 16, ring := bits (c 3) 30 24, t := z.mapped + 16 * bits (c 3) 15 0,
            valid := bitOf (c 3) 31, unchecked := bitOf (w 0) 17 }))

/-- An output point before voxels. -/
structure OPt where
  p     : List Int
  inten : Nat
  ring  : Nat
  suspect : Bool

/-- The voxel key of a point, none outside the range (R229). -/
def voxKey (vox : Nat) (p : List Int) : Option Nat :=
  let ix := p.map (fun c => c.fdiv vox)
  if ix.all (fun i => decide (-(2 ^ 20 : Int) ≤ i ∧ i ≤ 2 ^ 20 - 1)) then
    let o := ix.map (fun i => (i + 2 ^ 20).toNat)
    some (sumBy (fun k => sumBy (fun a => (o.getD a 0) / 2 ^ k % 2 * 2 ^ (3 * k + a)) (List.range 3)) (List.range 21))
  else none

/-- The 16 bytes of a cloud point. -/
def cloudPt (p : List Int) (n inten ring : Nat) : Bytes :=
  leWords (p.map dwI ++ [dwN (Nat.min n 65535 + inten * 2 ^ 16 + ring * 2 ^ 24 + 2 ^ 31)])

/-- Downsample to voxels (R229): the points kept, in ascending key order; they rank by N, the field that saturates at 65,535. -/
def voxels (vox cap : Nat) (l : List OPt) : List Bytes :=
  let cells : Tab (List OPt) := l.foldl (fun t o =>
    match voxKey vox o.p with
    | some k => Tab.set t k ((Tab.getD t k []) ++ [o])
    | none => t) []
  let best := (sortBy (fun (a b : Nat × List OPt) =>
    let na := Nat.min a.2.length 65535
    let nb := Nat.min b.2.length 65535
    decide (na > nb ∨ (na = nb ∧ a.1 ≤ b.1))) cells).take cap
  (cells.filter (fun c => best.any (fun b => b.1 == c.1))).map (fun c =>
    let n := c.2.length
    let mean (k : Nat) : Int := rdiv ((c.2.map (fun o => o.p.getD k 0)).foldl (· + ·) 0) n
    cloudPt [mean 0, mean 1, mean 2] n (rdiv ((sumBy (·.inten) c.2 : Nat) : Int) n).toNat ((c.2.map (·.ring)).headD 0))

/-- Execute FUS_CLOUD. -/
def Dev.runCloud (d : Dev) (x : Desc) : Res :=
  let w := x.w
  let m := x.sels.headD (selOf d w 10 false)
  let rdr := d.knotReads x (w.dw 7) :: m.units.filterMap (fun u => (Tab.get? d.sns.units u).map (fun z =>
    (d.handleOf z.sheet, (z.record.getD 11 0).toNat, 16 * (z.record.getD 12 0).toNat)))
  let key := d.openKey x rdr
  let fs := d.free
  let cap := d.szOf (w.dw 9) / 32
  let max := 16 * w.f 6 31 16
  let vox := w.f 6 15 0
  let pts := d.cloudIn x m
  let used := pts.take cap
  let ks := d.knots x (w.dw 7)
  let ex := d.regF 0xC000 31 16 * 1000
  let fvAt (k j : Nat) : Int := openInt key (8 * (k + 1) + j)
  let ref := interp ex (openInt key) ks m.stop
  let q := d.extQ m.sensor
  let t := d.extT m.sensor
  let allow := bitOf (d.reg 0xC000) 0
  let res := used.zipIdx.map (fun (p, k) =>
    if !p.valid then (none, 0, 4)
    else if p.unchecked && !allow then (none, 0, 1)
    else match ref, interp ex (fvAt k) ks p.t with
      | some a, some b =>
        let r := relPose a.pose b.pose
        let xb := vadd (mvec r.1 (vadd (mvec q (metres p.pL)) t)) r.2
        let o := fixAll (fvAt k) 3 12 xb
        (some ({ p := o.1, inten := p.inten, ring := p.ring, suspect := a.suspect || b.suspect } : OPt), o.2 + b.sat, 0)
      | _, _ => (none, 0, 3))
  let formed := res.filterMap (·.1)
  let inRange := if vox = 0 then formed else formed.filter (fun o => (voxKey vox o.p).isSome)
  let out := if vox = 0 then (inRange.take max).map (fun o => cloudPt o.p 1 o.inten o.ring) else voxels vox max inRange
  let kept := if vox = 0 then Nat.min inRange.length max else inRange.length
  let dropped := pts.length - kept
  let why (c : Nat) : Nat := (res.filter (fun r => r.2.2 == c)).length
  let sat := sumBy (fun r => r.2.1) res + (ref.map (·.sat)).getD 0
  let head := leWords [dwN out.length, dwN (w.f 10 7 0), dwN m.stop, dwN (m.stop / 2 ^ 32), dwN pts.length, dwN dropped, dwN vox] ++
    List.replicate 36 0
  let nScr := 32 * used.length
  { r4 := dwN out.length, r5 := dwN dropped, flags := flagIf (inRange.any (·.suspect)) fTimeSuspect,
    wr := [(w.dw 8, 0, head ++ out.flatten), (w.dw 9, 0, (List.range nScr).map (fun k => Sys2Proof.Config.freeByte (fs + k)))],
    rdr := rdr,
    post := fun d =>
      let d := { (d.count cFusDropPt dropped).count cFusSat sat with free := fs + nScr }
      [1, 3].foldl (fun d c => if why c = 0 then d else d.event (x.ev 0x73 (d4 := dwN c) (d5 := dwN (why c)))) d }

/-- FUS_CLOUD. -/
def cloudDef : OpDef :=
  { kind := 5
    resv := fun w => w.f 10 15 10 == 0
    form := fun js => js.all (fun w => decide (1 ≤ w.f 6 31 16) && w.f 10 9 8 == 0 &&
      (let s := w.f 10 7 0; decide (0x20 ≤ s ∧ s ≤ 0x27) || decide (0xA0 ≤ s ∧ s ≤ 0xA7)))
    uses := fun js => js.flatMap (fun w => [Use.rd (w.dw 7), Use.wr (w.dw 8), Use.wr (w.dw 9)])
    late := fun d js => js.findSome? (fun w =>
      if d.szOf (w.dw 8) < 64 + 256 * w.f 6 31 16 ∨ d.szOf (w.dw 9) < 32 * 1536 * w.f 10 31 16 then some .refusedMalformed
      else d.checkSel w 10 false)
    needs := fun js => js.map (fun w => (w.dw 7, 64))
    run := fun d x => d.runCloud x }

/-! ## Cameras (R230) -/

/-- The projection formula of a camera, whatever the point: u and v. -/
def Dev.projRaw (d : Dev) (cam : Nat) (p : FVec) : DW × DW :=
  let o := fusCam cam
  let r (k : Nat) : DW := d.reg (o + k)
  let fx := r 8
  let fy := r 12
  let cx := r 16
  let cy := r 20
  let k1 := r 24
  let k2 := r 28
  let k3 := r 32
  let k4 := r 36
  let p1 := r 40
  let p2 := r 44
  let two (a : DW) : DW := fmul 0x40000000 a
  if bitOf (d.reg o) 1 then
    let rho := fsqrt (fadd (fmul (p.at_ 0) (p.at_ 0)) (fmul (p.at_ 1) (p.at_ 1)))
    if fkey rho = 0 then (cx, cy)
    else
      let th := atan2f rho (p.at_ 2)
      let td := fmul th (horner (fmul th th) [fOne, k1, k2, k3, k4])
      let g := fdiv td rho
      (fadd (fmul (fmul fx g) (p.at_ 0)) cx, fadd (fmul (fmul fy g) (p.at_ 1)) cy)
  else
    let x := fdiv (p.at_ 0) (p.at_ 2)
    let y := fdiv (p.at_ 1) (p.at_ 2)
    let r2 := fadd (fmul x x) (fmul y y)
    let rad := horner r2 [fOne, k1, k2, k3]
    let xd := fadd (fadd (fmul x rad) (fmul (fmul (two p1) x) y)) (fmul p2 (fadd r2 (two (fmul x x))))
    let yd := fadd (fadd (fmul y rad) (fmul p1 (fadd r2 (two (fmul y y))))) (fmul (fmul (two p2) x) y)
    (fadd (fmul fx xd) cx, fadd (fmul fy yd) cy)

/-- Z_MIN in metres. -/
def Dev.zMin (d : Dev) : DW := fofInt (d.regF 0xC004 15 0) (-12)

/-- The projection of a point, none when the model does not project it (R230). -/
def Dev.project (d : Dev) (cam : Nat) (p : FVec) : Option (DW × DW) :=
  let o := fusCam cam
  let front := fLt d.zMin (p.at_ 2)
  if bitOf (d.reg o) 1 then
    let rho := fsqrt (fadd (fmul (p.at_ 0) (p.at_ 0)) (fmul (p.at_ 1) (p.at_ 1)))
    if fLe (atan2f rho (p.at_ 2)) (d.reg (o + 48)) && (front || fLt 0 rho) then some (d.projRaw cam p) else none
  else if front then some (d.projRaw cam p) else none

/-- The rounded pixel in an image of `w` by `h`, none outside. -/
def pixelIn (w h : Nat) (p : DW × DW) : Option (Nat × Nat) :=
  match ftoInt p.1 0, ftoInt p.2 0 with
  | some u, some v => if 0 ≤ u ∧ u < w ∧ 0 ≤ v ∧ v < h then some (u.toNat, v.toNat) else none
  | _, _ => none

/-! ## FUS_PROJECT -/

/-- A cloud point carried to the camera: index, stored coordinates, camera coordinates, projection. -/
structure ProjPt where
  i   : Nat
  p   : List Int
  c   : FVec
  uv  : Option (DW × DW)

/-- The points of a cloud in the camera frame (R230); none without both poses. -/
def Dev.projPts (d : Dev) (x : Desc) (key : List Nat) : List ProjPt × Bool × Nat :=
  let w := x.w
  let cam := w.f 6 7 0
  let n := (d.rdW x (w.dw 7) 0).toNat
  let head := d.rd x (w.dw 7) 0 64
  let b := d.rd x (w.dw 7) 64 (16 * n)
  let ks := d.knots x (w.dw 8)
  let ex := d.regF 0xC000 31 16 * 1000
  match interp ex (openInt key) ks (w.q 13), interp ex (fun j => openInt key (4 + j)) ks (bnat head 8 8) with
  | some a, some r =>
    let t := relPose a.pose r.pose
    let rc := rotT (d.extQ cam)
    let tc := d.extT cam
    ((List.range n).map (fun i =>
      let p := (wordsAt b (4 * i) 3).map (·.toInt)
      let c := mvec rc (vsub (vadd (mvec t.1 (metres p)) t.2) tc)
      { i := i, p := p, c := c, uv := d.project cam c }), a.suspect || r.suspect, a.sat + r.sat)
  | _, _ => ([], false, 0)

/-- The depth image (R231). -/
def depthBytes (fv : Nat → Int) (w h : Nat) (l : List ProjPt) : Bytes :=
  let near : Tab (Nat × DW) := l.foldl (fun t p =>
    match p.uv.bind (pixelIn w h) with
    | some (u, v) =>
      let k := v * w + u
      match Tab.get? t k with
      | some z => if fLt (p.c.at_ 2) z.2 then Tab.set t k (p.i, p.c.at_ 2) else t
      | none => Tab.set t k (p.i, p.c.at_ 2)
    | none => t) []
  let px (k : Nat) : Nat :=
    match Tab.get? near k with
    | none => 0
    | some z => (clampI ((ftoInt z.2 8).getD (fv z.1)) 1 0xFFFE).toNat
  (List.range h).flatMap (fun y => padTo 64 ((List.range w).flatMap (fun c => toLe (px (y * w + c)) 2)))

/-- The tile predictions of a stereo pair (R232). -/
def Dev.predBytes (d : Dev) (pair : Nat) (l : List ProjPt) : Bytes :=
  let o := 0xCC00 + 64 * pair
  let w := d.regF (o + 4) 15 0
  let h := d.regF (o + 4) 31 16
  let f := d.reg (o + 8)
  let cx := d.reg (o + 12)
  let cy := d.reg (o + 16)
  let base := d.reg (o + 20)
  let r := rotT (qrot (qread ((List.range 4).map (fun k => d.reg (o + 24 + 4 * k)))))
  let ds := l.filterMap (fun p =>
    let c := mvec r p.c
    if fLt d.zMin (c.at_ 2) then
      match pixelIn w h (fadd (fdiv (fmul f (c.at_ 0)) (c.at_ 2)) cx, fadd (fdiv (fmul f (c.at_ 1)) (c.at_ 2)) cy) with
      | some (u, v) =>
        (ftoInt (fdiv (fmul (fmul 0x41800000 f) base) (c.at_ 2)) 0).map (fun z =>
          (v / 64 * cdiv w 64 + u / 64, (clampI z 0 0xFFEF).toNat))
      | none => none
    else none)
  (List.range (cdiv w 64 * cdiv h 64)).flatMap (fun t =>
    let v := sortBy (fun a b => decide (a ≤ b)) ((ds.filter (fun p => p.1 == t)).map (·.2))
    toLe (if v.isEmpty then 0xFFFF else v.getD ((v.length - 1) / 2) 0) 2)

/-- One association entry (R233), its match and saturations: the nearest projection within RADIUS. -/
def Dev.assocEntry (d : Dev) (x : Desc) (fv : Nat → Nat) (k : Nat) (l : List ProjPt) (ft : List DW) : Bytes × Bool × Nat :=
  let w := x.w
  let fx := fofInt (ft.getD 2 0).toInt (-8)
  let fy := fofInt (ft.getD 3 0).toInt (-8)
  let radius := fofInt (w.f 15 15 0) (-8)
  let cand := l.filterMap (fun p => p.uv.map (fun uv =>
    let du := fsub uv.1 fx
    let dv := fsub uv.2 fy
    (p, fsqrt (fadd (fmul du du) (fmul dv dv)))))
  match bestBy (fun (a b : ProjPt × DW) => fLt a.2 b.2) (cand.filter (fun c => fLe c.2 radius)) with
  | none => (leWords ([ft.getD 0 0, 0xFFFFFFFF] ++ (List.range 3).map (fun j => dwN (fv (8 * k + j))) ++ [dwN (fv (8 * k + 3) % 65536), 0, 0]), false, 0)
  | some (p, dist) =>
    let fr := w.f 6 19 12
    let q := if fr = 0xFF then (p.p, 0)
      else fixAll (fun j => sext 32 (fv (8 * k + j))) 0 12 (mvec (rotT (d.extQ fr)) (vsub (metres p.p) (d.extT fr)))
    (leWords ([ft.getD 0 0, dwN p.i] ++ q.1.map dwI ++ [dwI ((ftoInt dist 8).getD 0), 0, 0]), true, q.2)

/-- Execute FUS_PROJECT. -/
def Dev.runProject (d : Dev) (x : Desc) : Res :=
  let w := x.w
  let o := fusCam (w.f 6 7 0)
  let cw := d.regF (o + 4) 15 0
  let chh := d.regF (o + 4) 31 16
  let hasA := bitOf (w.dw 6) 10
  let fh := if hasA then d.rd x (w.dw 11) 0 64 else []
  let nf := if hasA then (bw fh 0).toNat else 0
  let nc := (d.rdW x (w.dw 7) 0).toNat
  let rdr := [(w.dw 7, 0, Nat.min (d.lenOf x (w.dw 7)) (64 + 16 * nc)), d.knotReads x (w.dw 8)] ++
    (if hasA then [(w.dw 11, 0, Nat.min (d.lenOf x (w.dw 11)) (64 + 64 * nf))] else [])
  if d.lenOf x (w.dw 7) < 64 + 16 * nc ∨ d.lenOf x (w.dw 8) < 64 + 64 * (d.rdW x (w.dw 8) 0).toNat then
    { st := .refusedMalformed, rdr := rdr }
  else if hasA ∧ (bits (bw fh 2) 15 0 ≠ cw ∨ bits (bw fh 2) 31 16 ≠ chh ∨ d.lenOf x (w.dw 11) < 64 + 64 * nf) then
    { st := .refusedMalformed, rdr := rdr }
  else
    let fl := if hasA then d.rd x (w.dw 11) 64 (64 * nf) else []
    let fts := ((List.range nf).map (fun k => wordsAt fl (16 * k) 4)).filter (fun f => decide (bits (f.getD 1 0) 1 0 ≤ 1))
    if hasA ∧ d.szOf (w.dw 12) < 64 + 32 * fts.length then { st := .refusedMalformed, rdr := rdr }
    else
      let key := d.openKey x rdr
      let (pts, sus, sat0) := d.projPts x key
      let fv (k : Nat) : Nat := (Config.openValue key (8 + pts.length + k)).toNat % 2 ^ 32
      let es := fts.zipIdx.map (fun f => d.assocEntry x fv f.2 pts f.1)
      let depth := depthBytes (fun k => openInt key (8 + k)) cw chh pts
      let seen := (pts.filter (fun p => (p.uv.bind (pixelIn cw chh)).isSome)).length
      let made := (es.filter (fun e => e.2.1)).length
      let sat := sat0 + sumBy (fun (e : Bytes × Bool × Nat) => e.2.2) es
      { r4 := dwN seen, r5 := dwN made, flags := flagIf (sus && !pts.isEmpty) fTimeSuspect, rdr := rdr,
        wr := (if bitOf (w.dw 6) 8 then [(w.dw 9, 0, depth)] else []) ++
          (if bitOf (w.dw 6) 9 then [(w.dw 10, 0, d.predBytes (w.f 6 11 11) pts)] else []) ++
          (if hasA then [(w.dw 12, 0, leWords [dwN es.length, dwN (w.f 6 7 0)] ++ List.replicate 56 0 ++ es.flatMap (·.1))] else []),
        post := fun d => d.count cFusSat sat }

/-- A camera ID. -/
def isCam (s : Nat) : Bool := decide (s < 16) || decide (0x80 ≤ s ∧ s < 0x90)

/-- Form of a FUS_PROJECT. -/
def projectForm (w : DescWords) : Bool :=
  let en (k : Nat) : Bool := bitOf (w.dw 6) k
  isCam (w.f 6 7 0) && (w.dw 9 != 0) == en 8 && (w.dw 10 != 0) == en 9 && (w.dw 11 != 0) == en 10 &&
    (w.dw 12 != 0) == en 10 && (!en 10 || w.f 6 19 12 == 0xFF || knownSensor (w.f 6 19 12)) && decide (1 ≤ w.f 15 15 0)

/-- FUS_PROJECT. -/
def projectDef : OpDef :=
  { kind := 5
    resv := fun w => w.f 6 31 20 == 0 && w.f 15 31 16 == 0
    form := fun js => js.all projectForm
    uses := fun js => js.flatMap (fun w => [Use.rd (w.dw 7), Use.rd (w.dw 8)] ++
      (if bitOf (w.dw 6) 10 then [Use.rd (w.dw 11)] else []) ++ (if bitOf (w.dw 6) 8 then [Use.wr (w.dw 9)] else []) ++
      (if bitOf (w.dw 6) 9 then [Use.wr (w.dw 10)] else []) ++ (if bitOf (w.dw 6) 10 then [Use.wr (w.dw 12)] else []))
    late := fun d js => js.findSome? (fun w =>
      let o := fusCam (w.f 6 7 0)
      let p := 0xCC00 + 64 * w.f 6 11 11
      if !bitOf (d.reg o) 0 ∨ (bitOf (w.dw 6) 9 ∧ !bitOf (d.reg p) 8) then some .refusedDisabled
      else if (bitOf (w.dw 6) 8 ∧ !d.imageOk (w.dw 9) (d.regF (o + 4) 31 16) (rowStride (2 * d.regF (o + 4) 15 0))) ∨
          (bitOf (w.dw 6) 9 ∧ d.szOf (w.dw 10) < 2 * (cdiv (d.regF (p + 4) 15 0) 64 * cdiv (d.regF (p + 4) 31 16) 64)) ∨
          (bitOf (w.dw 6) 10 ∧ d.szOf (w.dw 12) < 64) then some .refusedMalformed else none)
    needs := fun js => js.flatMap (fun w => [(w.dw 7, 64), (w.dw 8, 64)] ++ (if bitOf (w.dw 6) 10 then [(w.dw 11, 64)] else []))
    run := fun d x => d.runProject x }

end Sys2Proof.Machine
end

