-- ==== Sys2Proof/Machine/FusFactor.lean ====
section
/-! DEFINITION. Factors (R235–R239) and the gating of sensor groups (R240–R242). -/

namespace Sys2Proof.Machine

/-! ## Observations -/

/-- Slot types each kind needs: POSE 1, VEL 2, BIAS 3, LANDMARK 4; PRIOR takes any of them. -/
def kindSlots (k : Nat) : List (List Nat) :=
  if k = 0 then [[1, 2, 3, 4]] else if k = 1 then [[1], [2], [3], [1], [2], [3]] else if k = 2 then [[1], [4]]
  else if k = 4 then [[1], [1]] else [[1]]

/-- Bytes of the largest record of a kind (factor kinds table). -/
def kindSize (k : Nat) : Nat :=
  if k = 1 then 1984 else if k = 2 then 192 else if k = 3 then 128 else if k = 5 then 192 else 256

/-- A factor before whitening by rows: residual, Jacobian blocks by slot (rows by dimension). -/
structure Factor where
  e : FVec
  j : List FMat

/-- A whitened factor. -/
def Factor.diag (f : Factor) (w : FVec) : Factor :=
  { e := List.zipWith fmul w f.e, j := f.j.map (fun a => List.zipWith vscale w a) }

/-- Whitening by forward substitution with L (R235). -/
def Factor.solveL (f : Factor) (l : List FVec) (n : Nat) : Factor :=
  { e := fwdSub l f.e, j := f.j.map (fun a => mtr n ((mtr (a.headD []).length a).map (fwdSub l))) }

/-- PRIOR. -/
def priorFactor (t : Nat) (v ob : Bytes) : Factor :=
  let mean := bslice ob 28 64
  let w := wordsAt ob 23 6
  if t = 1 then
    let a := poseOf v
    let m := poseOf mean
    let eR := qlog (qmul (qconj m.q) a.q)
    let rt := rotT (qrot m.q)
    let z := mzero 3 3
    let f : Factor :=
      { e := eR ++ mvec rt (metres (List.zipWith (· - ·) a.p m.p)),
        j := [mcat (jrInv eR) z ++ mcat z (mmul 3 rt (qrot a.q))] }
    f.diag w
  else
    let e := if t = 2 then vsub (wordsAt v 10 3) (wordsAt mean 10 3)
      else if t = 3 then vsub (wordsAt v 10 6) (wordsAt mean 10 6)
      else metres (List.zipWith (· - ·) (poseOf v).p (poseOf mean).p)
    ({ e := e, j := [mid e.length] } : Factor).diag (w.take e.length)

/-- REPROJ. -/
def Dev.reprojFactor (d : Dev) (pose lm ob : Bytes) : Factor :=
  let cam := (bw ob 7).toNat
  let a := poseOf pose
  let l := poseOf lm
  let rbc := rotT (d.extQ cam)
  let rt := rotT (qrot a.q)
  let xb := mvec rt (metres (List.zipWith (· - ·) l.p a.p))
  let xc := mvec rbc (vsub xb (d.extT cam))
  let uv := d.projRaw cam xc
  let z : FVec := (wordsAt ob 8 2).map (fun c => fofInt c.toInt (-8))
  let az := fabs (xc.at_ 2)
  let h := fmul 0x3A800000 (if fLt az fOne then fOne else az)
  let g := fdiv fOne (fmul 0x40000000 h)
  let col (k : Nat) : FVec :=
    let sh (s : DW → DW → DW) : DW × DW := d.projRaw cam (xc.zipIdx.map (fun c => if c.2 = k then s c.1 h else c.1))
    let p := sh fadd
    let m := sh fsub
    [fmul (fsub p.1 m.1) g, fmul (fsub p.2 m.2) g]
  let jp := mtr 2 [col 0, col 1, col 2]
  let jb := mmul 3 jp rbc
  let w := fdiv fOne (bw ob 10)
  ({ e := [fsub uv.1 (z.at_ 0), fsub uv.2 (z.at_ 1)],
     j := [mcat (mmul 3 jb (skew xb)) (mneg jb), mmul 3 jb rt] } : Factor).diag [w, w]

/-- POINT_PLANE. -/
def planeFactor (pose ob : Bytes) : Factor :=
  let a := poseOf pose
  let xb := metres ((wordsAt ob 7 3).map (·.toInt))
  let n := wordsAt ob 10 3
  let r := qrot a.q
  let nr := mmul 3 [n] r
  ({ e := [fadd (fdot n (vadd (mvec r xb) (metres a.p))) (bw ob 13)],
     j := [mcat (mmul 3 (mneg nr) (skew xb)) nr] } : Factor).diag [fdiv fOne (bw ob 14)]

/-- WHEEL. -/
def wheelFactor (pi pj ob : Bytes) : Factor :=
  let a := poseOf pi
  let b := poseOf pj
  let rt := rotT (qrot a.q)
  let dl := mvec rt (metres (List.zipWith (· - ·) b.p a.p))
  let e := qlog (qmul (qconj a.q) b.q)
  let m : FVec := wordsAt ob 7 3
  let sk := skew dl
  let rr := mmul 3 rt (qrot b.q)
  let ji := jrInv e
  let ti := mmul 3 (mmul 3 (mneg ji) (rotT (qrot b.q))) (qrot a.q)
  let z : FVec := [0, 0, 0]
  let row (x : FMat) (k : Nat) : FVec := x.getD k []
  let ni := mneg (mid 3)
  ({ e := [fsub (dl.at_ 0) (m.at_ 0), fsub (dl.at_ 1) (m.at_ 1), fsub (e.at_ 2) (m.at_ 2)],
     j := [[row sk 0 ++ row ni 0, row sk 1 ++ row ni 1, row ti 2 ++ z], [z ++ row rr 0, z ++ row rr 1, row ji 2 ++ z]] } :
    Factor).diag ((wordsAt ob 10 3).map (fdiv fOne))

/-- GNSS: the antenna's translation is that of sensor 0x50. -/
def Dev.gnssFactor (d : Dev) (pose ob : Bytes) : Factor :=
  let a := poseOf pose
  let r := qrot a.q
  let t := d.extT 0x50
  let z := (wordsAt ob 7 3).map (·.toInt)
  let e := vadd (metres (List.zipWith (· - ·) a.p z)) (mvec r t)
  let j := mcat (mmul 3 (mneg r) (skew t)) r
  -- W is an upper triangle by rows: the sums run over its own columns
  let w := wordsAt ob 10 6
  let rows : List (Nat × FVec) := [(0, w.take 3), (1, (w.drop 3).take 2), (2, w.drop 5)]
  let app (v : FVec) : FVec := rows.map (fun r => fdot r.2 (v.drop r.1))
  { e := app e, j := [mtr 3 ((mtr 6 j).map app)] }

/-! ## IMU preintegration (R235) -/

/-- What preintegration accumulates. -/
structure Pre where
  dR : FMat
  dv : FVec
  dp : FVec
  s  : FMat
  rbg : FMat
  vbg : FMat
  vba : FMat
  pbg : FMat
  pba : FMat

/-- One interval. -/
def Pre.step (c : Pre) (gnd and_ : DW) (dt : DW) (w a : FVec) : Pre :=
  let h := fmul (fmul fHalf dt) dt
  let e := qrot (qexp (vscale dt w))
  let hR := mscale h c.dR
  let tR := mscale dt c.dR
  let ka := skew a
  let hRa := mmul 3 hR ka
  let tRa := mmul 3 tR ka
  let jw := mscale dt (jr (vscale dt w))
  let z := mzero 3 3
  let et := rotT e
  let i3 := mid 3
  let am := mcat (mcat et z) z ++ mcat (mcat (mneg tRa) i3) z ++ mcat (mcat (mneg hRa) (mscale dt i3)) i3
  let bg := jw ++ z ++ z
  let ba := z ++ tR ++ hR
  let q (b : FMat) (nd : DW) : FMat := mmul 9 (mscale (fdiv (fmul nd nd) dt) b) (mtr 3 b)
  { dp := vadd c.dp (vadd (vscale dt c.dv) (mvec hR a)),
    pba := madd c.pba (msub (mscale dt c.vba) hR),
    pbg := madd c.pbg (msub (mscale dt c.vbg) (mmul 3 hRa c.rbg)),
    dv := vadd c.dv (mvec tR a),
    vba := msub c.vba tR,
    vbg := msub c.vbg (mmul 3 tRa c.rbg),
    s := madd (madd (mmul 9 (mmul 9 am c.s) (mtr 9 am)) (q bg gnd)) (q ba and_),
    rbg := msub (mmul 3 et c.rbg) jw,
    dR := mmul 3 c.dR e }

/-- The logarithm of a rotation matrix, through its quaternion (log 40). -/
def rlog (r : FMat) : FVec :=
  let w := fmul fHalf (fsqrt (fadd fOne (fadd (fadd (r.at_ 0 0) (r.at_ 1 1)) (r.at_ 2 2))))
  let g := fmul 0x40800000 w
  qlog [w, fdiv (fsub (r.at_ 2 1) (r.at_ 1 2)) g, fdiv (fsub (r.at_ 0 2) (r.at_ 2 0)) g, fdiv (fsub (r.at_ 1 0) (r.at_ 0 1)) g]

/-- IMU_PREINT: the sample sets of its selector, the six slot records. -/
def Dev.preintFactor (d : Dev) (s : Nat) (sets : List ImuSet) (vs : List Bytes) (ob : Bytes) : Factor :=
  let v (k : Nat) : Bytes := vs.getD k []
  let ti := bnat ob 28 8
  let tj := bnat ob 36 8
  let a := poseOf (v 0)
  let b := poseOf (v 3)
  let bg := wordsAt (v 2) 10 3
  let ba := wordsAt (v 2) 13 3
  let o := fusImu s
  let z := mzero 3 3
  let run := (setsFrom ti sets).1.filter (fun y => decide (y.t ≤ tj))
  let c0 : Pre := { dR := mid 3, dv := [0, 0, 0], dp := [0, 0, 0], s := mzero 9 9, rbg := z, vbg := z, vba := z, pbg := z, pba := z }
  let c := (run.zip run.tail).foldl (fun (c : Pre) p =>
    let (w, ac) := d.imuMeas s bg ba p.1
    c.step (d.reg (o + 12)) (d.reg (o + 16)) (dtOf p.1.t p.2.t) w ac) c0
  let dbg := vsub bg bg
  let dba := vsub ba ba
  let dt := dtOf ti tj
  let g := d.gravity
  let ri := rotT (qrot a.q)
  let rj := qrot b.q
  let vi := wordsAt (v 1) 10 3
  let vj := wordsAt (v 4) 10 3
  let eR := rlog (mmul 3 (mmul 3 (rotT (mmul 3 c.dR (qrot (qexp (mvec c.rbg dbg))))) ri) rj)
  let tv := mvec ri (vsub (vsub vj vi) (vscale dt g))
  let tp := mvec ri (vsub (vsub (metres (List.zipWith (· - ·) b.p a.p)) (vscale dt vi)) (vscale (fmul dt dt) (vscale fHalf g)))
  let eV := vsub tv (vadd (vadd c.dv (mvec c.vbg dbg)) (mvec c.vba dba))
  let eP := vsub tp (vadd (vadd c.dp (mvec c.pbg dbg)) (mvec c.pba dba))
  let ji := jrInv eR
  let i3 := mid 3
  let n3 := mneg i3
  let rr := mmul 3 ri rj
  let stack (l : List (FMat × FMat)) : FMat := l.flatMap (fun p => mcat p.1 p.2)
  let one (l : List FMat) : FMat := l.flatten
  let cov : FMat :=
    let gw := d.reg (o + 20)
    let aw := d.reg (o + 24)
    let dg : FVec := List.replicate 3 (fmul (fmul gw gw) dt) ++ List.replicate 3 (fmul (fmul aw aw) dt)
    mcat c.s (mzero 9 6) ++ mcat (mzero 6 9) ((List.range 6).map (fun i => (List.range 6).map (fun j => if i = j then dg.at_ i else 0)))
  let f : Factor :=
    { e := eR ++ eV ++ eP ++ vsub (wordsAt (v 5) 10 3) bg ++ vsub (wordsAt (v 5) 13 3) ba,
      j := [stack [(mmul 3 (mmul 3 (mneg ji) (rotT rj)) (qrot a.q), z), (skew tv, z), (skew tp, n3), (z, z), (z, z)],
            one [z, mneg ri, mscale (fneg dt) ri, z, z],
            stack [(mmul 3 (mmul 3 (mneg ji) (rotT (qrot (qexp eR)))) c.rbg, z), (mneg c.vbg, mneg c.vba), (mneg c.pbg, mneg c.pba),
              (n3, z), (z, n3)],
            stack [(ji, z), (z, z), (z, rr), (z, z), (z, z)],
            one [z, ri, z, z, z],
            stack [(z, z), (z, z), (z, z), (i3, z), (z, i3)]] }
  f.solveL (chol 15 cov).1 15

/-! ## FUS_FACTORS -/

/-- The bytes of a factor record (factor record header), Huber scaling applied (R237). -/
def factorRec (kind : Nat) (vars : List Nat) (huber : DW) (f : Factor) : Bytes :=
  let chi := fdot f.e f.e
  let s := fsqrt chi
  let rob := (kind = 2 ∨ kind = 3) ∧ fLt 0 huber ∧ fLt huber s
  let k := fsqrt (fdiv huber s)
  let sc (v : FVec) : FVec := if rob then v.map (fun a => fmul a k) else v
  let body := leWords (sc f.e ++ f.j.flatMap (fun a => a.flatMap sc))
  let size := alignUp (64 + body.length) 64
  leWords ([dwN (kind + vars.length * 2 ^ 4 + f.e.length * 2 ^ 8 + b2n (decide rob) * 2 ^ 16), dwN size] ++
    (List.range 6).map (fun i => dwN (vars.getD i 0)) ++ [chi, 0, 0, 0, 0, 0, 0, 0]) ++ padTo 64 body

/-- What becomes of an entry: a record, or the cause of its skip (R238): 0 time suspect, 2 type mismatch. -/
def Dev.factorEntry (d : Dev) (x : Desc) (s : Nat) (sets : List ImuSet) (ob : Bytes) : Except Nat Bytes :=
  let w := x.w
  let kind := w.f 6 3 0
  let need := kindSlots kind
  let vars := (List.range need.length).map (fun k => bits (bw ob (1 + k)) 17 0)
  let tight := kind = 1 ∨ kind = 2 ∨ kind = 3
  let vs := vars.map (fun v => d.rd x (w.dw 7) (64 * v) 64)
  let fits := vars.all (fun v => decide (64 * v + 64 ≤ d.lenOf x (w.dw 7)))
  if bits (bw ob 0) 3 0 ≠ kind then .error 2
  else if !fits ∨ (vs.zip need).any (fun p => !p.2.contains (vtype p.1)) then .error 2
  else if tight ∧ (bitOf (bw ob 0) 8 ∨ (kind = 1 ∧ x.flags &&& fTimeSuspect ≠ 0)) then .error 0
  else
    let v (k : Nat) : Bytes := vs.getD k []
    let f := if kind = 0 then priorFactor (vtype (v 0)) (v 0) ob
      else if kind = 1 then d.preintFactor s sets vs ob
      else if kind = 2 then d.reprojFactor (v 0) (v 1) ob
      else if kind = 3 then planeFactor (v 0) ob
      else if kind = 4 then wheelFactor (v 0) (v 1) ob
      else d.gnssFactor (v 0) ob
    .ok (factorRec kind vars (d.reg (0xC044 + 8 * w.f 6 7 4)) f)

/-- Reserved fields of an entry (observation list). -/
def entryBad (kind : Nat) (ob : Bytes) : Bool :=
  decide ((bw ob 0).toNat &&& (2 ^ 32 - 1 - 0x10F) ≠ 0) || (List.range 6).any (fun k => decide (bits (bw ob (1 + k)) 31 18 ≠ 0)) ||
    (kind == 2 && bits (bw ob 0) 3 0 == 2 && !isCam (bw ob 7).toNat)

/-- Execute FUS_FACTORS. -/
def Dev.runFactors (d : Dev) (x : Desc) : Res :=
  let w := x.w
  let kind := w.f 6 3 0
  let head := d.rd x (w.dw 8) 0 64
  let n := (bw head 0).toNat
  let m := x.sels.headD (selOf d w 10 true)
  let rdr := [(w.dw 8, 0, 64 + 128 * n), (w.dw 7, 0, d.lenOf x (w.dw 7))] ++ (if kind = 1 then d.plgReads m else [])
  if d.lenOf x (w.dw 8) < 64 + 128 * n ∨ d.szOf (w.dw 9) < 64 + kindSize kind * n then { st := .refusedMalformed, rdr := rdr }
  else
    let body := d.rd x (w.dw 8) 64 (128 * n)
    let obs := (List.range n).map (fun k => bslice body (128 * k) 128)
    if obs.any (entryBad kind) then { st := .refusedMalformed, rdr := rdr }
    else if kind = 2 ∧ obs.any (fun o => bits (bw o 0) 3 0 == 2 && !bitOf (d.reg (fusCam (bw o 7).toNat)) 0) then
      { st := .refusedDisabled, rdr := rdr }
    else
      let sets := if kind = 1 then (d.imuSets m.sensor (d.plgRecs x m)).1 else []
      let rs := obs.map (d.factorEntry x m.sensor sets)
      let recs := rs.filterMap (fun r => match r with | .ok b => some b | .error _ => none)
      let why (c : Nat) : Nat := (rs.filter (fun r => match r with | .error e => e == c | .ok _ => false)).length
      let loose := (kind = 0 ∨ kind = 4 ∨ kind = 5) ∧ (obs.zip rs).any (fun p => bitOf (bw p.1 0) 8 && (match p.2 with | .ok _ => true | .error _ => false))
      let skipped := n - recs.length
      let body := recs.flatten
      let out := leWords [dwN recs.length, dwN (w.f 6 7 4), bw head 2, bw head 3, dwN (64 + body.length)] ++ List.replicate 44 0
      { r4 := dwN recs.length, r5 := dwN skipped, flags := flagIf (why 0 != 0 || decide loose) fTimeSuspect, rdr := rdr,
        wr := [(w.dw 9, 0, out ++ body)],
        post := fun d =>
          [0, 2].foldl (fun d c => if why c = 0 then d else d.event (x.ev 0x73 (d4 := dwN c) (d5 := dwN (why c))))
            (d.count cFusSkip skipped) }

/-- FUS_FACTORS. -/
def factorsDef : OpDef :=
  { kind := 5
    resv := fun w => w.f 6 31 8 == 0 && (w.f 6 3 0 != 1 || w.f 10 15 10 == 0)
    form := fun js => js.all (fun w => decide (w.f 6 3 0 ≤ 5 ∧ w.f 6 7 4 ≤ 11) &&
      (if w.f 6 3 0 = 1 then imuSelForm w else w.zero 10 15))
    uses := fun js => js.flatMap (fun w => [Use.rd (w.dw 7), Use.rd (w.dw 8), Use.wr (w.dw 9)])
    late := fun d js => js.findSome? (fun w =>
      if d.szOf (w.dw 9) < 64 then some .refusedMalformed
      else if w.f 6 3 0 ≠ 1 then none
      else match d.checkSel w 10 true with
        | some st => some st
        | none => if d.imuUsable w then none else some .refusedDisabled)
    needs := fun js => js.map (fun w => (w.dw 8, 64))
    axes := fun d x => batchAxes (d.rdW x (x.w.dw 8) 0).toNat
    run := fun d x => d.runFactors x }

/-! ## FUS_GATE -/

/-- The gate's descriptor and the twelve handles of its GROUPS sheet, read at acceptance; none when that sheet cannot be
read (R240). -/
def Dev.gateJobs (d : Dev) (w : DescWords) : Option (List DescWords) :=
  let s := d.sheet (shIdx (w.dw 9))
  if s.tier ≠ 0 ∨ s.tok ≠ .set ∨ s.size < 48 then none
  else
    let b := d.plainRead (shIdx (w.dw 9)) 0 48
    some [w, Vector.ofFn (fun i => if i.val < 12 then bw b i.val else 0)]

/-- The factor sheets a gate names. -/
def gateGroups (js : List DescWords) : List DW := (List.range 12).map (fun g => (js.getD 1 (Vector.replicate 16 0)).dw g)

/-- A factor record as read: its bytes, and the rows of its residual and of its block for the end pose. -/
structure GRec where
  b : Bytes
  e : FVec
  j : FMat

/-- Split the records of a factor sheet: records left, bytes. -/
def splitRecs : Nat → Bytes → List Bytes
  | 0, _ => []
  | n + 1, b => let k := (bw b 1).toNat; bslice b 0 k :: splitRecs n (b.drop k)

/-- A record with the block of a variable; dimensions come from the variable sheet. -/
def gateRec (dim : Nat → Nat) (end_ : Nat) (b : Bytes) : GRec :=
  let nv := bits (bw b 0) 7 4
  let rd := bits (bw b 0) 15 8
  let vars := (List.range nv).map (fun k => bits (bw b (2 + k)) 17 0)
  match vars.idxOf? end_ with
  | none => { b := b, e := [], j := [] }
  | some k =>
    let before := sumBy (fun v => rd * dim v) (vars.take k)
    let o := 16 + rd + before
    { b := b, e := wordsAt b 16 rd, j := (List.range rd).map (fun r => wordsAt b (o + 6 * r) 6) }

/-- A group as judged (R241). -/
structure GGroup where
  g     : Nat
  comps : List Nat
  recs  : List GRec
  obs   : Bool
  delta : FVec
  cov   : FMat

/-- A symmetric positive system's inverse from its factor. -/
def cholInv (n : Nat) (l : List FVec) : FMat := mtr n ((mid n).map (fun c => backSub n l (fwdSub l c)))

/-- Judge one group: its own correction of the end pose and covariance, or unobserved (R241). -/
def judge (g mask : Nat) (recs : List GRec) : GGroup :=
  let comps := (List.range 6).filter (fun k => mask / 2 ^ k % 2 == 1)
  let n := comps.length
  let cols (j : FMat) : FMat := j.map (fun r => comps.map r.at_)
  let acc := recs.foldl (fun (acc : FMat × FVec) r =>
    if r.j.isEmpty then acc
    else
      let jt := mtr n (cols r.j)
      (madd acc.1 (mmul n jt (cols r.j)), vadd acc.2 (mvec jt r.e))) (mzero n n, List.replicate n 0)
  let (l, piv) := chol n acc.1
  let big := (List.range n).foldl (fun m i => if fLt m (acc.1.at_ i i) then acc.1.at_ i i else m) 0
  let lim := fmul 0x35800000 big
  let obs := piv.all (fun p => fLt 0 p && !fLe p lim)
  { g := g, comps := comps, recs := recs, obs := obs,
    delta := (backSub n l (fwdSub l acc.2)).map fneg, cov := cholInv n l }

/-- χ² of two observed groups over their common components, with their number; none when they share none (R241). -/
def pairChi (a b : GGroup) : Option (Nat × DW) :=
  let com := a.comps.filter (fun k => b.comps.contains k)
  if com.isEmpty then none
  else
    let ia := com.map (fun k => (a.comps.idxOf k))
    let ib := com.map (fun k => (b.comps.idxOf k))
    let dv := List.zipWith (fun i j => fsub (a.delta.at_ i) (b.delta.at_ j)) ia ib
    let s := List.zipWith (fun i j => List.zipWith (fun i' j' => fadd (a.cov.at_ i i') (b.cov.at_ j j')) ia ib) ia ib
    let y := fwdSub (chol com.length s).1 dv
    some (com.length, fdot y y)

/-- Gate thresholds X(k), as FP32 (gate thresholds table). -/
def gateX (level k : Nat) : DW :=
  let t := if level = 0 then [3841, 5991, 7815, 9488, 11070, 12592] else [8807, 11618, 13930, 16010, 17960, 19800]
  fq (t.getD (k - 1) 0) 1000

/-- Subsets of a list, those with its earlier elements first. -/
def subsetsOf : List Nat → List (List Nat)
  | [] => [[]]
  | a :: t => (subsetsOf t).map (a :: ·) ++ subsetsOf t

/-- A mask of group numbers. -/
def gMask (l : List Nat) : Nat := sumBy (fun g => 2 ^ g) l

/-- Scale the residual and Jacobian values of a record; the padding stays zero. -/
def scaleRec (k : DW) (b : Bytes) : Bytes :=
  b.take 64 ++ leWords ((List.range ((b.length - 64) / 4)).map (fun i => fmul (bw b (16 + i)) k))

/-- Execute FUS_GATE (R240–R242). -/
def Dev.runGate (d : Dev) (x : Desc) : Res :=
  let w := x.w
  let hs := gateGroups x.jobs
  let level := w.f 6 0 0
  let doomed (h : DW) : Bool := (d.sheet (shIdx h)).q.any (fun r => r.desc == x.id && !r.write && (match r.st with | .doomed _ => true | _ => false))
  let state (g : Nat) : Nat :=
    let h := hs.getD g 0
    if h = 0 then 0 else if doomed h then 1 else if bnat (d.rd x h 8 8) 0 8 ≠ w.q 13 then 1 else 2
  let present := (List.range 12).filter (fun g => state g == 2)
  let stale := (List.range 12).filter (fun g => state g == 1)
  let absent := (List.range 12).filter (fun g => state g != 2)
  let dim (v : Nat) : Nat := slotDim (vtype (d.rd x (w.dw 8) (64 * v) 64))
  let mask (g : Nat) : Nat := d.regF (0xC040 + 8 * g) 5 0
  let groups := present.map (fun g =>
    let h := hs.getD g 0
    let b := d.rd x h 64 (d.lenOf x h - 64)
    judge g (mask g) ((splitRecs (d.rdW x h 0).toNat b).map (gateRec dim (w.f 7 17 0))))
  let obs := (groups.filter (·.obs)).map (·.g)
  let unobs := (groups.filter (fun g => !g.obs)).map (·.g)
  let grp (g : Nat) : Option GGroup := groups.find? (fun y => y.g == g)
  let chi (a b : Nat) : Option (Nat × DW) := match grp a, grp b with
    | some p, some q => pairChi p q
    | _, _ => none
  let pairs := obs.flatMap (fun a => (obs.filter (fun b => decide (a < b))).filterMap (fun b => (chi a b).map (fun c => (a, b, c.1, c.2))))
  let bad := pairs.filter (fun p => !fLe p.2.2.2 (gateX level p.2.2.1))
  let ok (a b : Nat) : Bool := !bad.any (fun p => (p.1 == a && p.2.1 == b) || (p.1 == b && p.2.1 == a))
  let clique (l : List Nat) : Bool := l.all (fun a => l.all (fun b => a == b || ok a b))
  let m := (bestBy (fun (a b : List Nat) => decide (a.length > b.length)) ((subsetsOf obs).filter clique)).getD []
  let n := obs.length
  let all := n ≤ 1 ∨ m.length = n
  let major := decide (2 * m.length > n)
  let admitted := if all then present else if major then present.filter (fun g => m.contains g || unobs.contains g)
    else present.filter (· == 9)
  let excluded := present.filter (fun g => !admitted.contains g)
  let conflict := !decide all
  let noMaj := conflict && !major
  let degraded := !stale.isEmpty || noMaj
  let k := fdiv fOne (fsqrt (fofInt (w.f 12 15 0) (-8)))
  let recs := admitted.flatMap (fun g => ((grp g).map (fun y => y.recs.map (·.b))).getD [])
  let recs := if noMaj then recs.map (scaleRec k) else recs
  let rdr := (w.dw 8, 0, d.lenOf x (w.dw 8)) :: present.map (fun g => (hs.getD g 0, 0, d.lenOf x (hs.getD g 0)))
  let key := d.openKey x rdr
  let free (i : Nat) : Nat := (Config.openValue key i).toNat
  let head := leWords [dwN recs.length, dwN (free 0 % 16 + b2n conflict * 2 ^ 4 + b2n degraded * 2 ^ 5), w.dw 13, w.dw 14,
    dwN (64 + recs.flatten.length)] ++ List.replicate 44 0
  let big (l : List (Nat × Nat × Nat × DW)) : Option (Nat × Nat × Nat × DW) :=
    bestBy (fun (a b : Nat × Nat × Nat × DW) => fLt b.2.2.2 a.2.2.2) l
  let line (g : Nat) : List DW :=
    let st := if absent.contains g then 0 else if unobs.contains g then 1 else if admitted.contains g then 2 else 3
    let own := pairs.filter (fun p => p.1 == g || p.2.1 == g)
    let top := big own
    [dwN (st + mask g * 4), (top.map (·.2.2.2)).getD (dwN (free (1 + g))),
      dwN ((top.map (fun p => if p.1 = g then p.2.1 else p.1)).getD 0xF), dwN (((grp g).map (·.recs.length)).getD 0)]
  let recW := leWords ([dwN (gMask admitted), dwN (gMask excluded), dwN (gMask unobs), dwN (gMask absent + gMask stale * 2 ^ 16),
    dwN (gMask m + b2n major * 2 ^ 16)] ++ List.replicate 11 0 ++ (List.range 12).flatMap line)
  if d.szOf (w.dw 10) < 64 + recs.flatten.length then { st := .refusedMalformed, rdr := rdr }
  else
    { st := if degraded then .doneDegraded else .done, flags := flagIf conflict fConflict,
      r4 := dwN (gMask admitted + gMask excluded * 2 ^ 16), r5 := dwN (gMask unobs + gMask absent * 2 ^ 16), rdr := rdr,
      wr := [(w.dw 10, 0, head ++ recs.flatten), (w.dw 11, 0, recW)],
      post := fun d =>
        let d := if stale.isEmpty then d else d.event (x.ev 0x72 (d4 := dwN (gMask stale)))
        if !conflict then d
        else if major then
          d.event (x.ev 0x70 (d4 := dwN (gMask excluded)) (d5 := dwN (gMask m)) (d6 := ((big pairs).map (·.2.2.2)).getD 0))
        else d.event (x.ev 0x71 (d4 := dwN (gMask (obs.filter (fun g => bad.any (fun p => p.1 == g || p.2.1 == g))))) (d5 := dwN (gMask obs))) }

/-- FUS_GATE. -/
def gateDef : OpDef :=
  { kind := 5
    resv := fun w => w.f 6 31 1 == 0 && w.f 7 31 18 == 0 && w.f 12 31 16 == 0 && w.zero 15 15
    form := fun js => (js.take 1).all (fun w => decide (0x100 ≤ w.f 12 15 0))
    uses := fun js => (js.take 1).flatMap (fun w => [Use.rd (w.dw 8), Use.rd (w.dw 9), Use.wr (w.dw 10), Use.wr (w.dw 11)]) ++
      ((gateGroups js).filter (· != 0)).map Use.rd
    late := fun d js => (js.take 1).findSome? (fun w =>
      if d.szOf (w.dw 10) < 64 ∨ d.szOf (w.dw 11) < 256 then some .refusedMalformed else none)
    needs := fun js => (js.take 1).map (fun w => (w.dw 8, 64 * w.f 7 17 0 + 64))
    voidOk := fun js => gateGroups js
    run := fun d x => d.runGate x }

end Sys2Proof.Machine
end

