-- ==== Sys2Proof/Machine/Ledger.lean ====
section
/-! DEFINITION. The ledger as a computation on a map: keys, placement, overflow, versions, batches, scans, rulebooks,
field mode and compaction (R267–R284). -/

namespace Sys2Proof.Machine

/-! ## Keys and hashing (R272) -/

/-- The hash of R272. -/
def mix (x s : BitVec 64) : BitVec 64 :=
  let x := x ^^^ s
  let x := (x ^^^ (x >>> 33)) * 0xFF51AFD7ED558CCD
  let x := (x ^^^ (x >>> 33)) * 0xC4CEB9FE1A85EC53
  x ^^^ (x >>> 33)

/-- The ledger seed as 64 bits. -/
def MapSt.seedQ (m : MapSt) : BitVec 64 := m.seed.setWidth 64

/-- The two buckets of a key. -/
def MapSt.buckets (m : MapSt) (k : BitVec 64) : Nat × Nat :=
  let n := 2 ^ m.log2
  let b1 := (mix k m.seedQ).toNat % n
  let b2 := (mix k (m.seedQ ^^^ 0x5BD1E9955BD1E995)).toNat % n
  if b2 = b1 then (b1, b1 ^^^ 1) else (b1, b2)

/-- Spread the bits of an index, bit k to bit 3k. -/
def spread3 : Nat → Nat → Nat
  | 0, _ => 0
  | k + 1, n => n % 2 + 8 * spread3 k (n / 2)

/-- Gather every third bit. -/
def gather3 : Nat → Nat → Nat
  | 0, _ => 0
  | k + 1, n => n % 2 + 2 * gather3 k (n / 8)

/-- A voxel index in range (R272). -/
def vinside (i : Int) : Bool := decide (-(262144 : Int) ≤ i ∧ i ≤ 262143)

/-- The Morton code of three indices in range. -/
def morton (x y z : Int) : Nat :=
  spread3 19 (x + 262144).toNat + 2 * spread3 19 (y + 262144).toNat + 4 * spread3 19 (z + 262144).toNat

/-- The key of a voxel or field vertex. -/
def vkey (kind level : Nat) (x y z : Int) : BitVec 64 :=
  BitVec.ofNat 64 (kind * 2 ^ 62 + level * 2 ^ 58 + morton x y z)

/-- The indices in a voxel key. -/
def unmorton (k : BitVec 64) : Int × Int × Int :=
  let n := k.toNat % 2 ^ 57
  ((gather3 19 n : Nat) - (262144 : Int), (gather3 19 (n / 2) : Nat) - (262144 : Int),
    (gather3 19 (n / 4) : Nat) - (262144 : Int))

def keyKind (k : BitVec 64) : Nat := k.toNat / 2 ^ 62
def keyLevel (k : BitVec 64) : Nat := k.toNat / 2 ^ 58 % 16

/-- A key that gets BADKEY: kind 3, or bit 57 set in a voxel or vertex key (R272). -/
def badKey (k : BitVec 64) : Bool :=
  keyKind k = 3 || (decide (keyKind k < 2) && decide (k.toNat / 2 ^ 57 % 2 = 1))

/-- A live delete epoch. -/
def epochLive : Nat := 0xFFFFFFFF

/-- The pending epoch. -/
def MapSt.p (m : MapSt) : Nat := m.c + 1

/-- Visibility at an epoch (R267). -/
def LEntry.sees (x : LEntry) (e : Nat) : Bool := decide (x.ins ≤ e ∧ e < x.del)

/-! ## A ledger run: the map with the counts its operations add up -/

/-- A map under work, with kicks, overflow inserts, versions, cache hits and misses. -/
structure LRun where
  m      : MapSt
  kicks  : Nat
  ovfIns : Nat
  vers   : Nat
  hits   : Nat
  misses : Nat
  /-- LDG_OVF_HIGH fell due: the count it reports -/
  high   : Option Nat
  deriving DecidableEq, Repr

/-- A run that has counted nothing. -/
def LRun.start (m : MapSt) : LRun := { m := m, kicks := 0, ovfIns := 0, vers := 0, hits := 0, misses := 0, high := none }

/-- The way a miss fills: a free way first, then the least recently used; the lower way on ties (R281). -/
def victimWay (ways : List (Nat × Nat)) : Nat :=
  match (List.range 8).find? (fun w => ways.all (fun p => p.1 ≠ w)) with
  | some w => w
  | none => (ways.getLast?.map (·.1)).getD 0

/-- One access to a bucket line through the cache (R281). -/
def LRun.touch (r : LRun) (b : Nat) : LRun :=
  if r.m.cacheSets = 0 then r else
    let s := b % r.m.cacheSets
    let ways := Tab.getD r.m.cache s []
    match ways.find? (fun p => p.2 = b) with
    | some p => { r with m := { r.m with cache := Tab.set r.m.cache s (p :: ways.filter (· ≠ p)) }, hits := r.hits + 1 }
    | none =>
      let w := victimWay ways
      { r with m := { r.m with cache := Tab.set r.m.cache s ((w, b) :: ways.filter (·.1 ≠ w)) }, misses := r.misses + 1 }

/-- Where an entry lies: a body slot or an overflow slot. -/
structure LPos where
  ovf  : Bool
  slot : Nat
  deriving DecidableEq, Repr

/-- Write an entry into a slot, or EMPTY. -/
def MapSt.put (m : MapSt) (p : LPos) (e : Option LEntry) : MapSt :=
  let m := { m with wrote := m.wrote ++ [(if p.ovf then m.hOvf else m.hBody, p.slot)] }
  match p.ovf, e with
  | false, some x => { m with body := Tab.set m.body p.slot x }
  | false, none => { m with body := Tab.del m.body p.slot }
  | true, some x => { m with ovf := Tab.set m.ovf p.slot x }
  | true, none => { m with ovf := Tab.del m.ovf p.slot }

/-- The lowest EMPTY slot of a bucket. -/
def MapSt.freeSlot (m : MapSt) (b : Nat) : Option Nat :=
  ((List.range 4).map (4 * b + ·)).find? (fun s => (Tab.get? m.body s).isNone)

/-- The overflow start of a key (R274). -/
def MapSt.ovfHash (m : MapSt) (k : BitVec 64) : Nat :=
  (mix k (m.seedQ ^^^ 0xA0761D6478BD642F)).toNat % 2 ^ 20

/-- The overflow chain from a slot up to its first EMPTY slot, at most `fuel` entries. -/
def MapSt.ovfChain (m : MapSt) : Nat → Nat → List (Nat × LEntry)
  | 0, _ => []
  | k + 1, s =>
    match Tab.get? m.ovf s with
    | none => []
    | some x => (s, x) :: MapSt.ovfChain m k ((s + 1) % 2 ^ 20)

/-- The first EMPTY overflow slot at or after a slot. -/
def MapSt.ovfFree (m : MapSt) : Nat → Nat → Nat
  | 0, s => s
  | k + 1, s => if (Tab.get? m.ovf s).isNone then s else MapSt.ovfFree m k ((s + 1) % 2 ^ 20)

/-- The first entry of key `k` that satisfies a test, in the order of R275. -/
def LRun.find (r : LRun) (k : BitVec 64) (ok : LEntry → Bool) : LRun × Option (LPos × LEntry) :=
  let (b1, b2) := r.m.buckets k
  let inB (b : Nat) : Option (LPos × LEntry) := ((List.range 4).map (4 * b + ·)).findSome? (fun s =>
    match Tab.get? r.m.body s with
    | some x => if x.key = k && ok x then some (⟨false, s⟩, x) else none
    | none => none)
  let r1 := r.touch b1
  match inB b1 with
  | some h => (r1, some h)
  | none =>
    let r2 := r1.touch b2
    match inB b2 with
    | some h => (r2, some h)
    | none =>
      (r2, (r.m.ovfChain (r.m.ovf.length + 1) (r.m.ovfHash k)).findSome? (fun p =>
        if p.2.key = k && ok p.2 then some (⟨true, p.1⟩, p.2) else none))

/-- The entry visible at an epoch. -/
def LRun.lookup (r : LRun) (k : BitVec 64) (e : Nat) : LRun × Option (LPos × LEntry) := r.find k (·.sees e)

/-- The live entry. -/
def LRun.live (r : LRun) (k : BitVec 64) : LRun × Option (LPos × LEntry) := r.find k (fun x => x.del = epochLive)

/-- The kick loop of R273. -/
def LRun.kick : Nat → Nat → Nat → LEntry → LRun → LRun × LEntry × Bool
  | 0, _, _, e, r => (r, e, false)
  | fuel + 1, step, b, e, r =>
    let s := 4 * b + step % 4
    match Tab.get? r.m.body s with
    | none => ({ r with m := r.m.put ⟨false, s⟩ (some e) }, e, true)
    | some v =>
      let r := { r.touch b with m := (r.touch b).m.put ⟨false, s⟩ (some e), kicks := r.kicks + 1 }
      let (c1, c2) := r.m.buckets v.key
      let b' := if b = c1 then c2 else c1
      match r.m.freeSlot b' with
      | some f => ({ r.touch b' with m := (r.touch b').m.put ⟨false, f⟩ (some v) }, v, true)
      | none => LRun.kick fuel (step + 1) b' v r

/-- Place a new entry (R273, R274); `none` is LEDGER_FULL. `pct` is LDG_CFG.OVF_EVT_PCT. -/
def LRun.place (pct : Nat) (r : LRun) (e : LEntry) : Option LRun :=
  let (b1, b2) := r.m.buckets e.key
  match r.m.freeSlot b1 with
  | some f => some { r.touch b1 with m := (r.touch b1).m.put ⟨false, f⟩ (some e) }
  | none =>
    match r.m.freeSlot b2 with
    | some f => some { r.touch b2 with m := (r.touch b2).m.put ⟨false, f⟩ (some e) }
    | none =>
      if r.m.ovf.length = 2 ^ 20 then none else
        let (r, v, done) := LRun.kick 64 0 b1 e r
        if done then some r else
          let s := r.m.ovfFree (r.m.ovf.length + 1) (r.m.ovfHash v.key)
          let m := r.m.put ⟨true, s⟩ (some v)
          let due := !m.high && decide (m.ovf.length * 100 ≥ pct * 2 ^ 20)
          some { r with m := { m with high := m.high || due }, ovfIns := r.ovfIns + 1,
                        high := if due then some m.ovf.length else r.high }

/-- Give the live entry `x` a new payload (R276): in place, or as a new version. -/
def LRun.amend (pct : Nat) (r : LRun) (pos : LPos) (x : LEntry) (pay : BitVec 128) : Option (LRun × LEntry) :=
  if x.ins = r.m.p then
    some ({ r with m := r.m.put pos (some { x with pay := pay }) }, { x with pay := pay })
  else
    let r1 := { r with m := r.m.put pos (some { x with del := r.m.p }) }
    let y : LEntry := { key := x.key, ins := r.m.p, del := epochLive, pay := pay }
    match r1.place pct y with
    | some r2 => some ({ r2 with vers := r2.vers + 1 }, y)
    | none => none

/-- Write `pay` under key `k`: amend the live entry, or place a new one. -/
def LRun.upsert (pct : Nat) (r : LRun) (k : BitVec 64) (pay : BitVec 128) : Option (LRun × LEntry × Bool) :=
  match r.live k with
  | (r, some (pos, x)) => (r.amend pct pos x pay).map (fun p => (p.1, p.2, false))
  | (r, none) =>
    let y : LEntry := { key := k, ins := r.m.p, del := epochLive, pay := pay }
    (r.place pct y).map (fun r => (r, y, true))

/-! ## LDG_OPS (R277–R280) -/

/-- Result codes of an operation. -/
inductive LRes where
  | done | absent | exists_ | full | notRun | created | rejected | badKey
  deriving DecidableEq, Repr

def LRes.code : LRes → Nat
  | .done => 0 | .absent => 1 | .exists_ => 2 | .full => 3 | .notRun => 4 | .created => 5 | .rejected => 6
  | .badKey => 7

/-- A result record of 32 bytes. Where no entry is reported its words INSERT, DELETE and PAYLOAD are the free words `fw`. -/
def lresult (fw : Nat → DW) (res : LRes) (ovf : Bool) (x : Option LEntry) : Bytes :=
  let w0 := res.code + 16 * b2n ovf
  match x with
  | some x => toLe w0 4 ++ toLe x.ins 4 ++ toLe x.del 4 ++ toLe 0 4 ++ toLe x.pay.toNat 16
  | none => toLe w0 4 ++ leWords [fw 0, fw 1, 0, fw 2, fw 3, fw 4, fw 5]

/-- The numbers a ledger holds. -/
def MapSt.ledgerKey (m : MapSt) : List Nat :=
  m.c :: m.f :: (m.body ++ m.ovf).flatMap (fun p => [p.1, p.2.key.toNat, p.2.ins, p.2.del, p.2.pay.toNat])

/-- Free words one operation record may draw. -/
abbrev lfree := 16

/-- The log-odds payload after an addition (R279). -/
def logOdds (pay : BitVec 128) (delta lo hi : Int) : BitVec 128 :=
  let n := pay.toNat
  let l := clampI (sext 16 n + delta) lo hi
  let h := n / 2 ^ 16 % 2 ^ 16
  let h' := if delta > 0 then min (h + 1) 65535 else h
  BitVec.ofNat 128 ((l % 65536).toNat + 2 ^ 16 * h' + 2 ^ 32 * (n / 2 ^ 32))

/-- Six FP32 values of an upper triangle as six s16 mantissas with the least exponent that fits (R280). -/
def packCov (c : List DW) : Option (List Int × Int) :=
  let ds := c.filterMap (fun w => (fdec w).dy?)
  if ds.length ≠ c.length then none else
    ((List.range 256).findSome? (fun (i : Nat) =>
      let x : Int := (i : Int) - 128
      let ms : List Int := ds.map (fun d => d.round x)
      if ms.all (fun v => decide (v.natAbs ≤ 32767)) then some (ms, x) else none))

/-- The PART 1 payload of a covariance; a covariance no exponent holds has free mantissas and exponent. -/
def covPay (fw : Nat → DW) (p : Option (List Int × Int)) : BitVec 128 :=
  match p with
  | some (ms, x) => BitVec.ofNat 128 (leNat ((ms.map (fun v => toLe (v % 65536).toNat 2)).flatten ++ toLe (x % 256).toNat 1))
  | none => BitVec.ofNat 128 (leNat (leWords [fw 6, fw 7, fw 8] ++ toLe (fw 9).toNat 1))

/-- Dot product of FP32 lists (R219). -/
def ldot (a b : List DW) : DW := fsum (List.zipWith fmul a b)

/-- Element of a 3×3 symmetric matrix held as its upper triangle. -/
def sym3 (c : List DW) (i j : Nat) : DW :=
  let (i, j) := if i ≤ j then (i, j) else (j, i)
  c.getD (if i = 0 then j else if i = 1 then 2 + j else 5) 0

/-- The lower Cholesky factor of a 3×3 symmetric matrix by ascending columns; `none` at a pivot that is not positive. -/
def chol3 (s : List DW) : Option (List (List DW)) :=
  (List.range 3).foldl (fun acc j =>
    match acc with
    | none => none
    | some cols =>
      let lrow (r : Nat) : List DW := cols.map (fun col => col.getD r 0)
      let piv := fsub (sym3 s j j) (ldot (lrow j) (lrow j))
      if fLt 0 piv then
        let d := fsqrt piv
        some (cols ++ [(List.range 3).map (fun r =>
          if r < j then 0 else if r = j then d else fdiv (fsub (sym3 s r j) (ldot (lrow r) (lrow j))) d)])
      else none) (some [])

/-- Solve L·Lᵀ·k = p for a 3×3 factor held by columns. -/
def cholSolve3 (cols : List (List DW)) (p : List DW) : List DW :=
  let l (r c : Nat) : DW := (cols.getD c []).getD r 0
  let y := (List.range 3).foldl (fun y i =>
    y ++ [fdiv (fsub (p.getD i 0) (ldot ((List.range i).map (l i)) y)) (l i i)]) []
  (List.range 3).foldl (fun k i' =>
    let i := 2 - i'
    let later := (List.range 3).filter (· > i)
    fdiv (fsub (y.getD i 0) (ldot (later.map (fun t => l t i)) k)) (l i i) :: k) []

/-- The fused landmark: new mean, mantissas and exponent of the covariance (R280). -/
def fuse (fw : Nat → DW) (mean : List Int) (cov : List Int) (x : Int) (z : List Int) (r : List DW) :
    Option (List Int × Option (List Int × Int)) :=
  let p := cov.map (fun v => fofInt v x)
  let d := List.zipWith (fun a b => fofInt (a - b) (-12)) z mean
  let s := List.zipWith fadd p r
  match chol3 s with
  | none => none
  | some cols =>
    let prow (i : Nat) : List DW := (List.range 3).map (sym3 p i)
    let k := (List.range 3).map (fun i => cholSolve3 cols (prow i))
    let m' := (List.range 3).map (fun i =>
      satS 32 (mean.getD i 0 + (ftoFix (fw (10 + i)).toInt (ldot (k.getD i []) d) 12 32).1))
    let p' := [(0, 0), (0, 1), (0, 2), (1, 1), (1, 2), (2, 2)].map (fun (i, j) =>
      fsub (sym3 p i j) (ldot (k.getD i []) (prow j)))
    if fLt 0 (p'.getD 0 0) && fLt 0 (p'.getD 3 0) && fLt 0 (p'.getD 5 0) then some (m', packCov p') else none

/-- The PART 0 payload. -/
def meanPay (m : List Int) (count : Nat) : BitVec 128 :=
  BitVec.ofNat 128 (leNat ((m.map (fun v => toLe (v % 2 ^ 32).toNat 4)).flatten ++ toLe count 4))

/-- One LDG_OPS record after its key passed: the run, the result, and whether FULL stops the batch. -/
def LRun.op (fw : Nat → DW) (pct : Nat) (lo hi : Int) (e : Nat) (r : LRun) (rec : Bytes) : LRun × LRes × Option (Bool × LEntry) :=
  let k : BitVec 64 := BitVec.ofNat 64 (bnat rec 8 8)
  let o := bnat rec 0 1 % 16
  let create := bitOf (bw rec 0) 4
  let pay : BitVec 128 := BitVec.ofNat 128 (bnat rec 16 16)
  let fin (t : Option (LRun × LEntry × Bool)) (r0 : LRun) : LRun × LRes × Option (Bool × LEntry) :=
    match t with
    | none => (r0, .full, none)
    | some (r, y, new) =>
      let pos := (r.find y.key (fun x => x = y)).2.map (fun p => p.1.ovf)
      (r, if new then .created else .done, some (pos.getD false, y))
  if badKey k then (r, .badKey, none)
  else if o = 0 then
    match r.lookup k e with
    | (r, some (pos, x)) => (r, .done, some (pos.ovf, x))
    | (r, none) => (r, .absent, none)
  else if o = 1 then
    match r.live k with
    | (r, some (pos, x)) => (r, .exists_, some (pos.ovf, x))
    | (r, none) => fin (r.upsert pct k pay) r
  else if o = 2 then
    match r.live k with
    | (r, some (pos, x)) =>
      let y := { x with del := r.m.p }
      ({ r with m := r.m.put pos (some y) }, .done, some (pos.ovf, y))
    | (r, none) => (r, .absent, none)
  else if o = 3 then fin (r.upsert pct k pay) r
  else if o = 4 then
    match r.live k with
    | (r, some (_, x)) => fin (r.upsert pct k (logOdds x.pay (sext 16 (bnat rec 16 2)) lo hi)) r
    | (r, none) => if create then fin (r.upsert pct k (logOdds 0 (sext 16 (bnat rec 16 2)) lo hi)) r
                   else (r, .absent, none)
  else
    let k1 := k ||| 1
    let z := [sext 32 (bnat rec 16 4), sext 32 (bnat rec 20 4), sext 32 (bnat rec 24 4)]
    let cov := (List.range 6).map (fun i => bw rec (8 + i))
    let both (m : List Int) (n : Nat) (c : Option (List Int × Int)) : Option (LRun × LEntry × Bool) :=
      match r.upsert pct k (meanPay m n) with
      | none => none
      | some (r', y, new) => (r'.upsert pct k1 (covPay fw c)).map (fun t => (t.1, y, new))
    match (r.live k).2, (r.live k1).2 with
    | some (pa, a), some (_, b) =>
      let n := a.pay.toNat
      let q := b.pay.toNat
      let mean := [sext 32 n, sext 32 (n / 2 ^ 32), sext 32 (n / 2 ^ 64)]
      let covm := (List.range 6).map (fun i => sext 16 (q / 2 ^ (16 * i)))
      match fuse fw mean covm (sext 8 (q / 2 ^ 96)) z cov with
      | none => (r, .rejected, some (pa.ovf, a))
      | some (m', c) => fin (both m' (min (n / 2 ^ 96 + 1) 0xFFFFFFFF) c) r
    | _, _ =>
      if create then fin (both z 1 (packCov cov)) r
      else (r, .absent, none)

/-- The whole batch: run, result bytes, mutations and lookups done, index of the record that gave FULL. -/
def LRun.batch (fw : Nat → DW) (pct : Nat) (lo hi : Int) (e : Nat) (r : LRun) (recs : List Bytes) :
    LRun × Bytes × Nat × Nat × Option Nat :=
  foldIdx (fun i (acc : LRun × Bytes × Nat × Nat × Option Nat) rec =>
    let (r, out, mu, lk, full) := acc
    match full with
    | some f => (r, out ++ lresult (fun k => fw (lfree * i + k)) .notRun false none, mu, lk, some f)
    | none =>
      let (r', res, x) := r.op (fun k => fw (lfree * i + k)) pct lo hi e rec
      let isLook := bnat rec 0 1 % 16 = 0
      let ok := res = .done || res = .created
      (r', out ++ lresult (fun k => fw (lfree * i + k)) res ((x.map (·.1)).getD false) (x.map (·.2)),
        if ok && !isLook then mu + 1 else mu, if isLook && res = .done then lk + 1 else lk,
        if res = .full then some i else none)) 0 (r, [], 0, 0, none) recs

/-! ## Scans, rulebooks, field mode -/

/-- Ascending distinct keys. -/
def sortKeys (l : List Nat) : List Nat :=
  l.foldl (fun acc k => if acc.contains k then acc else insertBy (fun a b => decide (a ≤ b)) k acc) []

/-- The keys of a box whose indices are in range, ascending (R282). -/
def boxKeys (kind level : Nat) (x0 y0 z0 : Int) (nx ny nz : Nat) : List Nat :=
  sortKeys ((List.range nx).flatMap (fun (i : Nat) => (List.range ny).flatMap (fun (j : Nat) => (List.range nz).filterMap (fun (k : Nat) =>
    let x : Int := x0 + i
    let y : Int := y0 + j
    let z : Int := z0 + k
    if vinside x && vinside y && vinside z then some (vkey kind level x y z).toNat else none))))

/-- Look keys up in order: the visible entries, at most `cap`, the keys examined, and whether one found no room (R282). -/
def LRun.scan (e : Nat) : Nat → LRun → List Nat → LRun × List LEntry × Nat × Bool
  | _, r, [] => (r, [], 0, false)
  | cap, r, k :: t =>
    match r.lookup (BitVec.ofNat 64 k) e with
    | (r, none) => let q := LRun.scan e cap r t; (q.1, q.2.1, q.2.2.1 + 1, q.2.2.2)
    | (r, some (_, x)) =>
      match cap with
      | 0 => (r, [], 1, true)
      | c + 1 => let q := LRun.scan e c r t; (q.1, x :: q.2.1, q.2.2.1 + 1, q.2.2.2)

/-- A rulebook: pair lists per kernel offset, and pairs left out for their row (R283). -/
def LRun.rulebook (r : LRun) (level side rowWord e inRows : Nat) (outKeys : List (BitVec 64)) :
    LRun × List (List (Nat × Nat)) × Nat :=
  let rad : Int := ((side - 1) / 2 : Nat)
  (List.range (side * side * side)).foldl (fun (acc : LRun × List (List (Nat × Nat)) × Nat) kk =>
    let dx : Int := (kk % side : Nat) - rad
    let dy : Int := (kk / side % side : Nat) - rad
    let dz : Int := (kk / (side * side) : Nat) - rad
    let (r, ps, skip) := foldIdx (fun o (a : LRun × List (Nat × Nat) × Nat) key =>
      let (x, y, z) := unmorton key
      let (x, y, z) := (x + dx, y + dy, z + dz)
      if vinside x && vinside y && vinside z then
        match a.1.lookup (vkey 0 level x y z) e with
        | (r, some (_, en)) =>
          let row := en.pay.toNat / 2 ^ (32 * rowWord) % 2 ^ 32
          if row < inRows then (r, a.2.1 ++ [(row, o)], a.2.2) else (r, a.2.1, a.2.2 + 1)
        | (r, none) => (r, a.2)
      else a) 0 (acc.1, [], acc.2.2) outKeys
    (r, acc.2.1 ++ [ps], skip)) (r, [], 0)

/-- The vertices of one point: key (none outside the index range) and weight, per level and corner (R284). -/
def fieldVerts (vox0 mask : Nat) (pt : Int × Int × Int) : List (Option (BitVec 64) × DW) :=
  (((List.range 16).filter (fun l => decide (mask / 2 ^ l % 2 = 1))).map (fun l =>
    let g : Int := (vox0 * 2 ^ l : Nat)
    let w (x : Int) (c : Nat) : DW :=
      let t := fdiv (fofInt (x - x.fdiv g * g) 0) (fofInt g 0)
      if c = 1 then t else fsub 0x3F800000 t
    (List.range 8).map (fun c =>
      let cx : Nat := c % 2; let cy : Nat := c / 2 % 2; let cz : Nat := c / 4
      let x := pt.1.fdiv g + cx; let y := pt.2.1.fdiv g + cy; let z := pt.2.2.fdiv g + cz
      if vinside x && vinside y && vinside z then
        (some (vkey 1 l x y z), fmul (fmul (w pt.1 cx) (w pt.2.1 cy)) (w pt.2.2 cz))
      else (none, 0)))).flatten

/-- Features of keys at an epoch: payload of each, absent count. -/
def LRun.features (r : LRun) (e : Nat) (keys : List (BitVec 64)) : LRun × List (BitVec 128) × Nat :=
  keys.foldl (fun acc k =>
    match acc.1.lookup k e with
    | (r, some (_, x)) => (r, acc.2.1 ++ [x.pay], acc.2.2)
    | (r, none) => (r, acc.2.1 ++ [0], acc.2.2 + 1)) (r, [], 0)

/-- SCATTER of rows in list order; the index of a FULL (R284). -/
def LRun.scatter (pct : Nat) (r : LRun) (rows : List (BitVec 64 × BitVec 128)) : LRun × Nat × Option Nat :=
  foldIdx (fun i (acc : LRun × Nat × Option Nat) kv =>
    match acc.2.2 with
    | some _ => acc
    | none =>
      if badKey kv.1 then acc
      else if kv.2 = (0 : BitVec 128) && (acc.1.live kv.1).2.isNone then acc
      else match acc.1.upsert pct kv.1 kv.2 with
        | some (r, _, _) => (r, acc.2.1 + 1, none)
        | none => (acc.1, acc.2.1, some i)) 0 (r, 0, none) rows

/-! ## Compaction (R271) -/

/-- Ledger compaction at floor `f`: the map, and the entries reclaimed. -/
def MapSt.compactLedger (m : MapSt) : MapSt × Nat :=
  let keep (t : Tab LEntry) : Tab LEntry := t.filter (fun p => decide (p.2.del > m.f))
  let gone := m.body.length + m.ovf.length - (keep m.body).length - (keep m.ovf).length
  let m1 := { m with body := keep m.body, ovf := keep m.ovf }
  let m2 := m1.ovf.foldl (fun (m : MapSt) p =>
    let (b1, b2) := m.buckets p.2.key
    match (m.freeSlot b1).orElse (fun _ => m.freeSlot b2) with
    | some f => (m.put ⟨true, p.1⟩ none).put ⟨false, f⟩ (some p.2)
    | none => m) m1
  let m3 := m2.ovf.foldl (fun (m : MapSt) p =>
    m.put ⟨true, m.ovfFree (m.ovf.length + 1) (m.ovfHash p.2.key)⟩ (some p.2)) { m2 with ovf := [] }
  ({ m3 with high := false }, gone)

end Sys2Proof.Machine
end

