-- ==== Sys2Proof/Machine/Graph.lean ====
section
/-! DEFINITION. Catchword search as a computation on an index: nodes, distances, traversal, insert, delete, compaction
(R285–R290). -/

namespace Sys2Proof.Machine

/-- Slot and generation of a reference. -/
def refSlot (r : DW) : Nat := r.toNat % 2 ^ 27
def refGen (r : DW) : Nat := r.toNat / 2 ^ 27
def mkRef (gen slot : Nat) : DW := dwN (gen * 2 ^ 27 + slot)

/-- The node a reference names, none when the reference is empty or stale. -/
def MIdx.node (x : MIdx) (r : DW) : Option Node :=
  if r = 0 then none else
    match Tab.get? x.nodes (refSlot r) with
    | some n => if n.gen = refGen r then some n else none
    | none => none

/-- Visibility of a reference at an epoch (R285). -/
def MIdx.sees (x : MIdx) (e : Nat) (r : DW) : Bool :=
  match x.node r with
  | some n => decide (n.ins ≤ e ∧ e < n.del)
  | none => false

/-- The level a reference draws (R285). -/
def MIdx.levelOf (x : MIdx) (r : DW) : Nat :=
  min 7 (ctz (mix (r.setWidth 64) (x.seed.setWidth 64)).toNat 64 / 5)

/-- The adjacency of a node at a layer: 32 references, zeros where none. -/
def MIdx.adj (x : MIdx) (r : DW) (l : Nat) : List DW :=
  match x.node r with
  | some n => if l = 0 then n.adj else if l ≤ n.level then Tab.getD x.upper (n.upper + l - 1) [] else []
  | none => []

/-- Elements of a stored vector or query. -/
def MIdx.elems (x : MIdx) (b : Bytes) (n : Nat) : List Int :=
  (List.range n).map (fun i => if x.s16 then sext 16 (bnat b (2 * i) 2) else sext 8 (bnat b i 1))

/-- Centroid (m, j) (chapter 11). -/
def MIdx.centroid (x : MIdx) (m j : Nat) : List Int :=
  let k := x.dim / x.m
  x.elems (x.book.drop ((m * 256 + j) * k * x.eb)) k

/-- Squared distance of two element lists. -/
def sqDist (a b : List Int) : Int := (List.zipWith (fun p q => (p - q) * (p - q)) a b).sum

/-- The metric's distance of two element lists. -/
def MIdx.dist (x : MIdx) (a b : List Int) : Int :=
  if x.metric = 0 then sqDist a b else -(List.zipWith (· * ·) a b).sum

/-- The codes of a vector: per subspace the nearest centroid, ties to the lower (R286). -/
def MIdx.encode (x : MIdx) (v : List Int) : List Nat :=
  let k := x.dim / x.m
  (List.range x.m).map (fun m =>
    let sub := (v.drop (m * k)).take k
    (bestBy (fun a b => decide (a.2 < b.2)) ((List.range 256).map (fun j => (j, sqDist sub (x.centroid m j))))).elim 0 (·.1))

/-- The least shift that brings a span to 16 bits. -/
def tableShift (span : Nat) : Nat := if span ≤ 65535 then 0 else span.log2 - 15

/-- The query's table of u16 entries (R286). -/
def MIdx.table (x : MIdx) (q : List Int) : List (List Nat) :=
  let k := x.dim / x.m
  let t := (List.range x.m).map (fun m => (List.range 256).map (fun j => x.dist ((q.drop (m * k)).take k) (x.centroid m j)))
  let t0 := t.map (fun row => let b := row.foldl min (row.headD 0); row.map (fun v => (v - b).toNat))
  let sh := tableShift (t0.foldl (fun s row => row.foldl max s) 0)
  t0.map (fun row => row.map (· / 2 ^ sh))

/-- Code distance from a table. -/
def codeDist (tab : List (List Nat)) (n : Node) : Int :=
  ((List.zipWith (fun row c => row.getD c 0) tab n.codes).sum : Nat)

/-- Exact distance to a stored vector. -/
def MIdx.exact (x : MIdx) (q : List Int) (n : Node) : Int := x.dist q (x.elems n.vec x.dim)

/-- A search key: distance, then reference (R27, R286). -/
abbrev SKey := Int × DW

def skLt (a b : SKey) : Bool := decide (a.1 < b.1) || (decide (a.1 = b.1) && decide (a.2.toNat < b.2.toNat))
def skLe (a b : SKey) : Bool := !skLt b a

/-- The key of a reference under a distance. -/
def MIdx.skey (x : MIdx) (dist : Node → Int) (r : DW) : SKey := (((x.node r).map dist).getD 0, r)

/-- The start node visible at an epoch. -/
def MIdx.startAt (x : MIdx) (e : Nat) : Option DW :=
  if x.sees e x.entry then some x.entry else if x.sees e x.prev then some x.prev else none

/-- Greedy walk on one layer. -/
def MIdx.greedy (x : MIdx) (e l : Nat) (dist : Node → Int) : Nat → DW → DW
  | 0, c => c
  | k + 1, c =>
    let b := (x.adj c l).foldl (fun b n => if x.sees e n && skLt (x.skey dist n) (x.skey dist b) then n else b) c
    if b = c then c else MIdx.greedy x e l dist k b

/-- Greedy descent over layers `hi` down to `lo + 1`. -/
def MIdx.descend (x : MIdx) (e : Nat) (dist : Node → Int) (hi lo : Nat) (c : DW) : DW :=
  ((List.range (hi - lo)).map (hi - ·)).foldl (fun c l => x.greedy e l dist (x.nodes.length + 1) c) c

/-- What a beam search leaves behind. -/
structure Beam where
  cand : List SKey
  res  : List SKey
  seen : List DW
  expanded : Nat
  cut  : Bool
  full : Bool
  deriving DecidableEq, Repr

/-- The beam loop of R287 on one layer. -/
def MIdx.beam (x : MIdx) (e l ef maxExpand : Nat) (dist : Node → Int) : Nat → Beam → Beam
  | 0, b => b
  | k + 1, b =>
    match b.cand with
    | [] => b
    | c :: rest =>
      if b.res.length = ef && skLt (b.res.getLastD c) c then b
      else if b.seen.length > 65536 then { b with cut := true, full := true }
      else if b.expanded = maxExpand then { b with cut := true }
      else
        let b1 := (x.adj c.2 l).foldl (fun (b : Beam) n =>
          if !x.sees e n || b.seen.contains n then b else
            let b := { b with seen := b.seen ++ [n] }
            let kn := x.skey dist n
            if b.res.length < ef || skLt kn (b.res.getLastD kn) then
              let res := insertBy skLe kn b.res
              { b with cand := insertBy skLe kn b.cand, res := if res.length > ef then res.dropLast else res }
            else b) { b with cand := rest, expanded := b.expanded + 1 }
        MIdx.beam x e l ef maxExpand dist k b1

/-- A beam that starts from one node. -/
def MIdx.beamFrom (x : MIdx) (e l ef maxExpand : Nat) (dist : Node → Int) (c : DW) : Beam :=
  let kc := x.skey dist c
  x.beam e l ef maxExpand dist (x.nodes.length + 2)
    { cand := [kc], res := [kc], seen := [c], expanded := 0, cut := false, full := false }

/-- Results of one query: (reference, label, distance), expansions, flags. -/
structure QRes where
  rows : List (DW × DW × Int)
  expanded : Nat
  cut  : Bool
  visited : Bool
  lost : Bool
  deriving DecidableEq, Repr

/-- One query (R287). -/
def MIdx.query (x : MIdx) (e ef maxExpand k : Nat) (rr : Option Nat) (qb : Bytes) : QRes :=
  match x.startAt e with
  | none => { rows := [], expanded := 0, cut := false, visited := false, lost := true }
  | some c0 =>
    let q := x.elems qb x.dim
    let dist := codeDist (x.table q)
    let top := ((x.node c0).map (·.level)).getD 0
    let c := x.descend e dist top 0 c0
    let b := x.beamFrom e 0 ef maxExpand dist c
    let res : List SKey := match rr with
      | none => b.res
      | some n => sortBy skLe ((b.res.take n).map (fun p => x.skey (x.exact q) p.2)) ++ b.res.drop n
    { rows := (res.take k).map (fun p => (p.2, ((x.node p.2).map (·.label)).getD 0, p.1)),
      expanded := b.expanded, cut := b.cut, visited := b.full, lost := false }

/-- A query result block (chapter 11). -/
def QRes.bytes (q : QRes) (e k : Nat) : Bytes :=
  padTo 64 (toLe q.rows.length 4 ++ toLe q.expanded 4 ++ toLe e 4 ++ List.replicate 52 0 ++
    (q.rows.map (fun r => le32 r.1 ++ le32 r.2.1 ++ toLe (r.2.2 % 2 ^ 64).toNat 8)).flatten ++
    List.replicate (16 * (k - q.rows.length)) 0)

/-! ## Insert, delete, compact -/

/-- UPPER rows of an index. -/
def MIdx.upperRows (x : MIdx) : Nat := cdiv x.maxNodes 8

/-- UPPER rows that nodes hold. -/
def MIdx.usedRows (x : MIdx) : List Nat :=
  (x.nodes.filter (fun p => p.2.real)).flatMap (fun p => (List.range p.2.level).map (p.2.upper + ·))

/-- The lowest run of `n` free UPPER rows. -/
def MIdx.freeRun (x : MIdx) (n : Nat) : Option Nat :=
  if n = 0 then some 0 else
    let used := x.usedRows
    let starts := 0 :: used.map (· + 1)
    starts.foldl (fun best s =>
      if s + n ≤ x.upperRows && (List.range n).all (fun i => !used.contains (s + i)) &&
          (match best with | none => true | some b => decide (s < b)) then some s else best) none

/-- The slot a new node takes: the lowest freed one, else the lowest never used. -/
def MIdx.takeSlot (x : MIdx) : Option (Nat × Nat) :=
  match x.freed with
  | s :: _ => let g := Tab.getD x.gens s 1; some (s, if g = 31 then 1 else g + 1)
  | [] => if x.gens.length < x.maxNodes then some (x.gens.length, 1) else none

/-- Replace a layer's adjacency of a node. -/
def MIdx.setAdj (x : MIdx) (r : DW) (l : Nat) (a : List DW) : MIdx :=
  match x.node r with
  | none => x
  | some n =>
    if l = 0 then { x with nodes := Tab.set x.nodes (refSlot r) { n with adj := a }, wrote := x.wrote ++ [(x.hNodes, refSlot r)] }
    else { x with upper := Tab.set x.upper (n.upper + l - 1) a, wrote := x.wrote ++ [(x.hUpper, n.upper + l - 1)] }

/-- Add the reverse edge from `v` to the new node (R289 item 4). -/
def MIdx.reverseEdge (x : MIdx) (l : Nat) (v new : DW) : MIdx :=
  let a := x.adj v l
  match x.node v with
  | none => x
  | some nv =>
    match a.findIdx? (· = 0) with
    | some i => x.setAdj v l (a.set i new)
    | none =>
      let vv := x.elems nv.vec x.dim
      let far := foldIdx (fun i (best : Option (Nat × SKey)) r =>
        let kr := x.skey (x.exact vv) r
        match best with
        | none => some (i, kr)
        | some (_, kb) => if skLt kb kr then some (i, kr) else best) 0 none a
      match far with
      | some (i, kf) => if skLt (x.skey (x.exact vv) new) kf then x.setAdj v l (a.set i new) else x
      | none => x

/-- Insert one vector at pending epoch `p` (R289); `none` when there is no room. -/
def MIdx.insert (x : MIdx) (p : Nat) (vec : Bytes) (label : DW) : Option (MIdx × DW) :=
  match x.takeSlot with
  | none => none
  | some (slot, gen) =>
    let ref := mkRef gen slot
    let lv := x.levelOf ref
    match x.freeRun lv with
    | none => none
    | some up =>
      let q := x.elems vec x.dim
      let n : Node := { adj := List.replicate 32 0, ins := p, del := epochLive, label := label, level := lv, gen := gen,
                        upper := up, codes := x.encode q, vec := vec }
      let start := x.startAt p
      let x1 := { x with nodes := Tab.set x.nodes slot n, gens := Tab.set x.gens slot gen,
                         freed := x.freed.filter (· ≠ slot),
                         wrote := x.wrote ++ [(x.hNodes, slot), (x.hVecs, slot)] ++ (List.range lv).map (fun i => (x.hUpper, up + i)),
                         upper := (List.range lv).foldl (fun t i => Tab.set t (up + i) (List.replicate 32 0)) x.upper }
      let entryLv := ((x.node x.entry).map (·.level)).getD 0
      let x2 := match start with
        | none => x1
        | some c0 =>
          let dist := x1.exact q
          let top := ((x1.node c0).map (·.level)).getD 0
          let c := x1.descend p dist top (min top lv) c0
          (((List.range (min lv top + 1)).map (min lv top - ·)).foldl (fun (acc : MIdx × DW) l =>
            let b := x.beamFrom p l x.efBuild (x.nodes.length + 1) dist acc.2
            let near := (b.res.take 32).map (·.2)
            let y := acc.1.setAdj ref l (near ++ List.replicate (32 - near.length) 0)
            (near.foldl (fun y v => y.reverseEdge l v ref) y, near.headD acc.2)) (x1, c)).1
      let x3 := if start.isNone || decide (lv > entryLv) then { x2 with prev := x2.entry, entry := ref } else x2
      some (x3, ref)

/-- Delete one reference at pending epoch `p` (R290): whether it was live. -/
def MIdx.delete (x : MIdx) (p : Nat) (r : DW) : MIdx × Bool :=
  match x.node r with
  | none => (x, false)
  | some n =>
    if n.del ≠ epochLive then (x, false) else
      let x1 := { x with nodes := Tab.set x.nodes (refSlot r) { n with del := p }, wrote := x.wrote ++ [(x.hNodes, refSlot r)] }
      if r = x.entry then
        let best := x1.nodes.foldl (fun (b : Option (Nat × DW)) q =>
          let ref := mkRef q.2.gen q.1
          if x1.sees p ref then
            match b with
            | none => some (q.2.level, ref)
            | some (lv, br) => if q.2.level > lv ∨ (q.2.level = lv ∧ ref.toNat < br.toNat) then some (q.2.level, ref) else b
          else b) none
        ({ x1 with prev := x.entry, entry := (best.map (·.2)).getD 0 }, true)
      else (x1, true)

/-- Compact an index at floor `f` (R290): slots freed. -/
def MIdx.compact (x : MIdx) (f : Nat) : MIdx × Nat :=
  let gone? (p : Nat × Node) : Bool := p.2.real && decide (p.2.del ≤ f)
  let dead := x.nodes.filter gone?
  let live := x.nodes.filter (fun p => !gone? p)
  let gone (r : DW) : Bool := dead.any (fun p => mkRef p.2.gen p.1 = r)
  let clear (l : List DW) : List DW := l.map (fun r => if gone r then 0 else r)
  let rows := (dead.map (fun p => (List.range p.2.level).map (p.2.upper + ·))).flatten
  ({ x with nodes := live.map (fun p => (p.1, { p.2 with adj := clear p.2.adj })),
            upper := x.upper.map (fun p => (p.1, if rows.contains p.1 then [] else clear p.2)),
            freed := sortKeys (x.freed ++ dead.map (·.1)),
            prev := if gone x.prev then 0 else x.prev }, dead.length)

end Sys2Proof.Machine
end

