-- ==== Sys2Proof/Machine/MapOps.lean ====
section
/-! DEFINITION. The map opcodes as operations on sheets and maps: MAP_*, LDG_*, SRC_* (R266–R291). -/

namespace Sys2Proof.Machine

/-- A map check: FAILED_CHECK and MAP_CHECK with a cause and an index. -/
def mapFail (x : Desc) (cause index : Nat) (rdr : List (DW × Nat × Nat) := []) : Res :=
  { st := .failedCheck, rdr := rdr, post := fun d => d.event (x.ev 0x93 (dwN cause) (dwN index)) }

/-- The live map of a header: no VOID header (R269), every region still its own sheet. -/
def Dev.mapFor (d : Dev) (x : Desc) (h : DW) : Except Res MapSt :=
  let s := d.sheet (shIdx h)
  if s.void ≠ .done then .error (Res.fail s.void.passed)
  else match Tab.get? d.maps (shIdx h) with
    | some m => if m.regions.all (fun r => (d.sheetOf r).isSome) then .ok m else .error (mapFail x 0 0)
    | none => .error (mapFail x 0 0)

/-- Store a map and what its header holds behind the create block, and mark for the mirror every line the stage wrote when the header is
tracked (R315): the slots written or changed, every region for a map made anew, and the header's line when it changed or `head` says so. -/
def Dev.setMap (d : Dev) (x : Desc) (h : DW) (m : MapSt) (fresh head : Bool := false) : Dev :=
  let i := shIdx h
  let old := Tab.get? d.maps i
  let d := { d with maps := Tab.set d.maps i m.marked }
  let mark (d : Dev) (p : DW × Nat × Nat) : Dev := d.markLinesOf x h p.1 p.2.1 p.2.2
  let d := if fresh then m.extents.foldl mark d
    else (m.written ++ ((old.map (fun o => o.diff m)).getD [])).foldl mark d
  if fresh || head || (old.map MapSt.headTail) != some m.headTail then mark (d.rawWrite i 320 m.headTail) (h, 320, 64) else d

/-- The epoch a read uses, none outside F–C (R267). -/
def MapSt.epoch (m : MapSt) (sel : Bool) (e : DW) : Option Nat :=
  if sel then (if m.f ≤ e.toNat ∧ e.toNat ≤ m.c then some e.toNat else none) else some m.c

/-- LDG_CFG.OVF_EVT_PCT. -/
def Dev.ovfPct (d : Dev) : Nat := d.regF 0x12000 6 0

/-- Store a ledger run: the map, its counters, LDG_OVF_HIGH (R273, R274, R276, R281). -/
def Dev.putRun (d : Dev) (x : Desc) (h : DW) (r : LRun) : Dev :=
  let d := d.setMap x h r.m
  let d := ((((d.count cLdgKick r.kicks).count cLdgOvf r.ovfIns).count cLdgVersion r.vers).count cLdgHit r.hits).count cLdgMiss r.misses
  match r.high with
  | some n => d.event (x.ev 0x91 (dwN n))
  | none => d

/-- A FULL at an operation: LDG_FULL and its counter (R278). -/
def Dev.ledgerFull (d : Dev) (x : Desc) (r : LRun) (i : Nat) : Dev :=
  (d.count cLdgFull).event (x.ev 0x90 (dwN i) (dwN r.m.ovf.length))

/-- A count as a saturated word. -/
def satN (n : Nat) : DW := dwN (Nat.min n (2 ^ 32 - 1))

/-! ## MAP_CREATE, MAP_COMMIT, MAP_COMPACT -/

/-- Field ranges of a create block (map create block table, R266). -/
def createForm (v : Variant) (b : Bytes) : Bool :=
  let w (k : Nat) : DW := bw b k
  let n := bits (w 1) 7 5
  let lg := bits (w 1) 4 0
  w 0 == 0x4D415031 && decide (10 ≤ lg ∧ lg ≤ if v = .bl6440 then 24 else 26) && decide (n ≤ 4) && bits (w 1) 31 8 == 0 &&
    decide (1 ≤ bits (w 3) 15 0) && bits (w 3) 31 16 == 0 && allZero ((List.range 9).map (fun k => w (7 + k))) &&
    (List.range 4).all (fun i =>
      let e (k : Nat) : DW := w (16 + 16 * i + k)
      if i < n then
        let x := createIdx b i
        decide (1 ≤ x.dim ∧ x.dim ≤ 1024 ∧ 8 ≤ x.m ∧ x.m ≤ 128 ∧ x.dim % x.m = 0 ∧ x.metric ≤ 2 ∧ 32 ≤ x.efBuild ∧ x.efBuild ≤ 1024 ∧
            1 ≤ x.maxNodes ∧ x.maxNodes ≤ 2 ^ 27) &&
          bits (e 0) 31 22 == 0 && bits (e 1) 31 11 == 0 && bits (e 2) 31 28 == 0 && allZero ((List.range 7).map (fun k => e (9 + k)))
      else allZero ((List.range 16).map e))

/-- A region sheet of a context: owned, no ribbon, in one of the tiers, of at least a size. -/
def Dev.regionOk (d : Dev) (c : Nat) (h : DW) (tiers : List Nat) (size : Nat) : Bool :=
  match d.sheetOf h with
  | some s => d.mayWrite c (shIdx h) s && !s.ribbon && tiers.contains s.tier && decide (size ≤ s.size)
  | none => false

/-- The map of a create block, none where R266 fails. -/
def Dev.createMap (d : Dev) (c : Nat) (hdr : DW) (b : Bytes) : Option MapSt :=
  let w (k : Nat) : DW := bw b k
  let v := d.board.variant
  let n := bits (w 1) 7 5
  let idx := (List.range n).map (createIdx b)
  let src (i : Nat) : DW := w (24 + 16 * i)
  let m : MapSt :=
    { create := b, log2 := bits (w 1) 4 0, seed := w 2, vox0 := bits (w 3) 15 0, hBody := w 4, hOvf := w 5, hCache := w 6, c := 0,
      f := 0, body := [], ovf := [], high := false, wrote := [], cacheSets := if w 6 = 0 then 0 else (d.sheet (shIdx (w 6))).size / 1024,
      cache := [], idx := idx }
  let named := hdr :: m.regions ++ (List.range n).map src
  let others := (d.maps.filter (fun p => p.1 != shIdx hdr && (d.sheetOf (d.handleOf p.1)).isSome)).flatMap
    (fun p => d.handleOf p.1 :: p.2.regions)
  let bodyOk := d.regionOk c m.hBody [if v = .bl6440 then 1 else 2] (2 ^ m.log2 * 128)
  let cacheOk := m.hCache == 0 || (v != .bl6440 && d.regionOk c m.hCache [1] 1 && (d.sheet (shIdx m.hCache)).size % 2 ^ 20 == 0)
  let idxOk := (List.range n).all (fun i =>
    let x := createIdx b i
    let s := d.sheet (shIdx (src i))
    d.regionOk c x.hCb [1] x.bookLen && d.regionOk c x.hNodes [1, 2] (x.maxNodes * x.ns) &&
      d.regionOk c x.hUpper [1, 2] (x.upperRows * 128) && d.regionOk c x.hVecs [1, 2] (x.maxNodes * x.stride) &&
      (d.sheetOf (src i)).isSome && d.mayRead c (shIdx (src i)) s && decide (s.tier ≤ 1) && s.tok == .set && decide (x.bookLen ≤ s.size))
  if createForm v b && d.regionOk c hdr [1] 4096 && bodyOk && d.regionOk c m.hOvf [1] (2 ^ 25) && cacheOk && idxOk &&
      nodupB (named.map (·.toNat)) && !named.any (fun h => others.contains h) then
    some { m with idx := (List.range n).map (fun i =>
      let x := createIdx b i
      { x with book := d.rawRead (shIdx (src i)) 0 x.bookLen }) }
  else none

/-- MAP_CREATE. -/
def mapCreateDef : OpDef :=
  { kind := 8
    resv := fun w => w.f 8 5 0 == 0 && w.zero 9 15
    uses := fun js => js.flatMap (fun w => [Use.rd (w.dw 6), Use.wrAny (w.dw 7)])
    needs := fun js => js.map (fun w => (w.dw 6, (w.dw 8).toNat + 320))
    run := fun d x =>
      let w := x.w
      let b := d.rd x (w.dw 6) (w.dw 8).toNat 320
      let rdr := [(w.dw 6, (w.dw 8).toNat, 320)]
      match d.createMap x.ctx (w.dw 7) b with
      | none => mapFail x 0 0 rdr
      | some m => { rdr := rdr, wr := [(w.dw 7, 0, b)], post := fun d => d.setMap x (w.dw 7) m true } }

/-- MAP_COMMIT (R270). -/
def mapCommitDef : OpDef :=
  { kind := 8
    resv := fun w => w.dw 6 == 0 && w.zero 8 15
    uses := fun js => js.map (fun w => Use.wrAny (w.dw 7))
    run := fun d x =>
      let h := x.w.dw 7
      match d.mapFor x h with
      | .error r => r
      | .ok m =>
        if m.c = 0xFFFFFFFE then
          { st := .refusedQuota, setToo := [h], post := fun d => d.event (x.ev 0x92 (dwN m.c)) }
        else { r4 := dwN (m.c + 1), post := fun d => (d.setMap x h { m with c := m.c + 1 } false true).count cLdgCommit } }

/-- MAP_COMPACT at an object's reclaiming (R271, R290): the map and the items reclaimed. -/
def MapSt.compact (m : MapSt) (obj : Nat) (floor : Nat) : MapSt × Nat :=
  let m := { m with f := Nat.max m.f (Nat.min floor m.c) }
  match obj with
  | 0 => m.compactLedger
  | k + 1 =>
    match m.idx[k]? with
    | some x => let y := x.compact m.f; ({ m with idx := m.idx.set k y.1 }, y.2)
    | none => (m, 0)

/-- MAP_COMPACT (R271, R290). -/
def mapCompactDef (kind : Nat) : OpDef :=
  { kind := kind
    resv := fun w => w.f 6 31 3 == 0 && w.zero 9 15
    form := fun js => js.all (fun w => decide (w.f 6 2 0 ≤ 4))
    uses := fun js => js.map (fun w => Use.wrAny (w.dw 7))
    run := fun d x =>
      let h := x.w.dw 7
      let obj := x.w.f 6 2 0
      match d.mapFor x h with
      | .error r => r
      | .ok m =>
        if obj > m.idx.length then Res.fail .refusedMalformed
        else
          let q := m.compact obj (x.w.dw 8).toNat
          { r4 := dwN q.2, r5 := dwN q.1.f,
            post := fun d => (d.setMap x h q.1 false true).count (if obj = 0 then cLdgReclaim else cSrcReclaim) q.2 } }

/-! ## LDG_* -/

/-- LDG_OPS (R277–R280). -/
def ldgOpsDef : OpDef :=
  { kind := 8
    resv := fun w => w.f 6 31 2 == 0 && w.f 9 31 21 == 0 && w.zero 13 15
    form := fun js => js.all (fun w => decide (1 ≤ w.f 9 20 0 ∧ w.f 9 20 0 ≤ 2 ^ 20) &&
      decide (sext 16 (w.f 11 15 0) ≤ sext 16 (w.f 11 31 16)) && (bitOf (w.dw 6) 0 || w.dw 12 == 0))
    uses := fun js => js.flatMap (fun w =>
      [if bitOf (w.dw 6) 1 then Use.rdAny (w.dw 7) else Use.wrAny (w.dw 7), Use.rd (w.dw 8), Use.wr (w.dw 10)])
    late := fun d js => if js.all (fun w => decide (32 * w.f 9 20 0 ≤ (d.sheet (shIdx (w.dw 10))).size)) then none
      else some .refusedMalformed
    needs := fun js => js.map (fun w => (w.dw 8, 64 * w.f 9 20 0))
    axes := fun _ x => if bitOf (x.w.dw 6) 1 then batchAxes (x.w.f 9 20 0) else noAxes
    run := fun d x =>
      let w := x.w
      let h := w.dw 7
      let n := w.f 9 20 0
      let ro := bitOf (w.dw 6) 1
      let b := d.rd x (w.dw 8) 0 (64 * n)
      let rdr := [(w.dw 8, 0, 64 * n)]
      let recs := (List.range n).map (fun k => bslice b (64 * k) 64)
      match d.mapFor x h with
      | .error r => { r with rdr := rdr }
      | .ok m =>
        match m.epoch (bitOf (w.dw 6) 0) (w.dw 12) with
        | none => mapFail x 2 0 rdr
        | some e =>
          if recs.any (fun r => let o := bnat r 0 1 % 16; if ro then o != 0 else decide (5 < o)) then mapFail x 1 0 rdr
          else
            let key := d.openKey x rdr ++ m.ledgerKey
            let q := LRun.batch (openWord key) d.ovfPct (sext 16 (w.f 11 15 0))
              (sext 16 (w.f 11 31 16)) e (LRun.start m) recs
            let full := q.2.2.2.2
            { st := if full.isSome then .refusedQuota else .done, flags := flagIf full.isSome fLedgerFull, rdr := rdr,
              r4 := satN q.2.2.1, r5 := satN q.2.2.2.1, wr := [(w.dw 10, 0, q.2.1)], setToo := if full.isSome then [h] else [],
              post := fun d =>
                let d := d.putRun x h q.1
                match full with
                | some i => d.ledgerFull x q.1 i
                | none => d } }

/-- LDG_SCAN (R282). -/
def ldgScanDef : OpDef :=
  { kind := 8
    resv := fun w => w.f 6 31 6 == 0 && w.f 11 31 22 == 0 && w.f 12 31 11 == 0 && w.dw 15 == 0
    form := fun js => js.all (fun w =>
      decide (1 ≤ w.f 11 10 0 ∧ w.f 11 10 0 ≤ 1024 ∧ 1 ≤ w.f 11 21 11 ∧ w.f 11 21 11 ≤ 1024 ∧ 1 ≤ w.f 12 10 0 ∧ w.f 12 10 0 ≤ 1024 ∧
        w.f 11 10 0 * w.f 11 21 11 * w.f 12 10 0 ≤ 2 ^ 24))
    uses := fun js => js.flatMap (fun w => [Use.rdAny (w.dw 7), Use.wr (w.dw 13)])
    late := fun d js => if js.all (fun w => decide (64 ≤ (d.sheet (shIdx (w.dw 13))).size)) then none else some .refusedMalformed
    run := fun d x =>
      let w := x.w
      let h := w.dw 7
      match d.mapFor x h with
      | .error r => r
      | .ok m =>
        match m.epoch (bitOf (w.dw 6) 4) (w.dw 14) with
        | none => mapFail x 2 0
        | some e =>
          let keys := boxKeys (w.f 6 5 5) (w.f 6 3 0) (w.dw 8).toInt (w.dw 9).toInt (w.dw 10).toInt (w.f 11 10 0) (w.f 11 21 11) (w.f 12 10 0)
          let q := LRun.scan e (((d.sheet (shIdx (w.dw 13))).size - 64) / 32) (LRun.start m) keys
          let es := q.2.1
          let trunc := q.2.2.2
          { st := if trunc then .doneDegraded else .done, r4 := dwN es.length, r5 := dwN q.2.2.1,
            wr := [(w.dw 13, 0, leWords [dwN es.length, dwN e, dwN (b2n trunc)] ++ List.replicate 52 0 ++ es.flatMap LEntry.bytes)],
            post := fun d => d.putRun x h q.1 } }

/-- The bytes of a rulebook (R210). -/
def bookBytes (rows inRows : Nat) (segs : List (List (Nat × Nat))) : Bytes :=
  let pairs := sumBy List.length segs
  let starts := (segs.foldl (fun (a : Nat × List Nat) s => (a.1 + s.length, a.2 ++ [a.1 + s.length])) (0, [0])).2
  padTo 64 (leWords [dwN segs.length, dwN rows, dwN inRows, dwN pairs]) ++ padTo 64 (leWords (starts.map dwN)) ++
    leWords (segs.flatten.flatMap (fun p => [dwN p.1, dwN p.2]))

/-- LDG_RULEBOOK (R283). -/
def ldgRulebookDef : OpDef :=
  { kind := 8
    resv := fun w => w.f 6 31 9 == 0 && w.zero 12 15
    form := fun js => js.all (fun w => decide (w.f 6 5 4 ≤ 2))
    uses := fun js => js.flatMap (fun w => [Use.rdAny (w.dw 7), Use.rd (w.dw 8), Use.wr (w.dw 9)])
    needs := fun js => js.map (fun w => (w.dw 8, 64))
    run := fun d x =>
      let w := x.w
      let h := w.dw 7
      let len := d.lenOf x (w.dw 8)
      let b := d.rd x (w.dw 8) 0 len
      let n := bnat b 0 4
      let rdr := [(w.dw 8, 0, Nat.min len (64 + 8 * n))]
      match d.mapFor x h with
      | .error r => { r with rdr := rdr }
      | .ok m =>
        match m.epoch (bitOf (w.dw 6) 8) (w.dw 11) with
        | none => mapFail x 2 0 rdr
        | some e =>
          let keys : List (BitVec 64) := (List.range n).map (fun k => BitVec.ofNat 64 (bnat b (64 + 8 * k) 8))
          if len < 64 + 8 * n ∨ keys.any (fun k => keyKind k != 0 || badKey k || keyLevel k != w.f 6 3 0) then mapFail x 3 0 rdr
          else
            let q := (LRun.start m).rulebook (w.f 6 3 0) (2 * w.f 6 5 4 + 1) (w.f 6 7 6) e (w.dw 10).toNat keys
            let out := bookBytes n (w.dw 10).toNat q.2.1
            if (d.sheet (shIdx (w.dw 9))).size < out.length then mapFail x 4 0 rdr
            else { rdr := rdr, r4 := satN (sumBy List.length q.2.1), r5 := satN q.2.2, wr := [(w.dw 9, 0, out)],
                   post := fun d => d.putRun x h q.1 } }

/-- The points of a cloud sheet (chapter 09, cloud layout): its VOX and its points. -/
def cloudOf (b : Bytes) : Nat × List (Int × Int × Int) :=
  (bnat b 24 4, (List.range (Nat.min (bnat b 0 4) ((b.length - 64) / 16))).map (fun k =>
    ((bw b (16 + 4 * k)).toInt, (bw b (17 + 4 * k)).toInt, (bw b (18 + 4 * k)).toInt)))

/-- A cloud sheet as a descriptor reads it: VOX, points and the bytes consumed. -/
def Dev.cloud (d : Dev) (x : Desc) (h : DW) : Nat × List (Int × Int × Int) × Nat :=
  let len := d.lenOf x h
  let n := Nat.min (64 + 16 * bnat (d.rd x h 0 4) 0 4) len
  let c := cloudOf (d.rd x h 0 n)
  (c.1, c.2, n)

/-- The eight BF16 features of a payload as FP32 bytes. -/
def masterBytes (p : BitVec 128) : Bytes := (List.range 8).flatMap (fun k => toLe (p.toNat / 2 ^ (16 * k) % 2 ^ 16 * 2 ^ 16) 4)

/-- LDG_FIELD GATHER (R284). -/
def Dev.runGather (d : Dev) (x : Desc) (m : MapSt) : Res :=
  let w := x.w
  let c := d.cloud x (w.dw 8)
  let rdr := [(w.dw 8, 0, c.2.2)]
  match m.epoch (bitOf (w.dw 6) 17) (w.dw 13) with
  | none => mapFail x 2 0 rdr
  | some e =>
    let vs := c.2.1.flatMap (fieldVerts m.vox0 (w.f 6 16 1))
    let keys := sortKeys (vs.filterMap (fun v => v.1.map (·.toNat)))
    let q := (LRun.start m).features e (keys.map (BitVec.ofNat 64))
    let idx (v : Option (BitVec 64) × DW) : DW := match v.1 with
      | some k => dwN ((keys.findIdx? (fun j => j == k.toNat)).getD 0)
      | none => 0xFFFFFFFF
    let outs : List (DW × Bytes) :=
      [(w.dw 9, padTo 64 (toLe keys.length 4) ++ keys.flatMap (fun k => toLe k 8)),
        (w.dw 10, q.2.1.flatMap (fun p => padTo 64 (toLe p.toNat 16))),
        (w.dw 11, leWords (vs.map idx)), (w.dw 12, leWords (vs.map (·.2)))] ++
      (if w.dw 14 = 0 then [] else [(w.dw 14, q.2.1.flatMap masterBytes)])
    if outs.any (fun o => decide ((d.sheet (shIdx o.1)).size < o.2.length)) then mapFail x 4 0 rdr
    else { rdr := rdr, r4 := satN keys.length, r5 := satN q.2.2, wr := outs.map (fun o => (o.1, 0, o.2)),
           post := fun d => d.putRun x (w.dw 7) q.1 }

/-- LDG_FIELD SCATTER (R284, R278). -/
def Dev.runScatter (d : Dev) (x : Desc) (m : MapSt) : Res :=
  let w := x.w
  let lk := d.lenOf x (w.dw 8)
  let lv := d.lenOf x (w.dw 9)
  let n := bnat (d.rd x (w.dw 8) 0 4) 0 4
  let rdr := [(w.dw 8, 0, Nat.min lk (64 + 8 * n)), (w.dw 9, 0, Nat.min lv (16 * n))]
  if lk < 64 + 8 * n ∨ lv < 16 * n then mapFail x 3 0 rdr
  else
    let kb := d.rd x (w.dw 8) 64 (8 * n)
    let vb := d.rd x (w.dw 9) 0 (16 * n)
    let rows := (List.range n).map (fun k => ((BitVec.ofNat 64 (bnat kb (8 * k) 8), BitVec.ofNat 128 (bnat vb (16 * k) 16)) : BitVec 64 × BitVec 128))
    let q := (LRun.start m).scatter d.ovfPct rows
    let full := q.2.2
    { st := if full.isSome then .refusedQuota else .done, flags := flagIf full.isSome fLedgerFull, rdr := rdr, r4 := satN q.2.1,
      setToo := if full.isSome then [w.dw 7] else [],
      post := fun d =>
        let d := d.putRun x (w.dw 7) q.1
        match full with
        | some i => d.ledgerFull x q.1 i
        | none => d }

/-- LDG_FIELD: MODE 0 GATHER, 1 SCATTER. -/
def ldgFieldDef : OpDef :=
  { kind := 8
    resv := fun w => w.f 6 31 18 == 0 && w.dw 15 == 0
    form := fun js => js.all (fun w => !bitOf (w.dw 6) 0 || w.f 6 16 1 == 0)
    uses := fun js => js.flatMap (fun w =>
      if bitOf (w.dw 6) 0 then [Use.wrAny (w.dw 7), Use.rd (w.dw 8), Use.rd (w.dw 9)]
      else [Use.rdAny (w.dw 7), Use.rd (w.dw 8), Use.wr (w.dw 9), Use.wr (w.dw 10), Use.wr (w.dw 11), Use.wr (w.dw 12)] ++
        (if w.dw 14 = 0 then [] else [Use.wr (w.dw 14)]))
    needs := fun js => js.map (fun w => (w.dw 8, 64))
    run := fun d x =>
      match d.mapFor x (x.w.dw 7) with
      | .error r => r
      | .ok m => if bitOf (x.w.dw 6) 0 then d.runScatter x m else d.runGather x m }

/-! ## SRC_* -/

/-- Form of an SRC_QUERY (its table). -/
def queryForm (w : DescWords) : Bool :=
  let k := w.f 6 15 8
  let ef := w.f 6 26 16
  let rr := w.f 11 26 16
  decide (1 ≤ k ∧ k ≤ 128 ∧ k ≤ ef ∧ ef ≤ 1024 ∧ 1 ≤ w.f 9 15 0 ∧ 1 ≤ w.f 11 15 0) &&
    (if bitOf (w.dw 6) 3 then decide (k ≤ rr ∧ rr ≤ ef) else rr == 0)

/-- The expansions of a query that waited for a prefetch still in flight (R288). How many depends on timing: an open number of them. -/
def Dev.prefetchLate (d : Dev) (expanded : Nat) : Dev :=
  { (d.count cSrcLate ((Config.freeValue d.free).toNat % (expanded + 1))) with free := d.free + 1 }

/-- SRC_QUERY (R287, R288). -/
def srcQueryDef : OpDef :=
  { kind := 7
    resv := fun w => w.f 6 31 27 == 0 && w.f 9 31 16 == 0 && w.f 11 31 27 == 0 && w.zero 13 15
    form := fun js => js.all queryForm
    uses := fun js => js.flatMap (fun w => [Use.rdAny (w.dw 7), Use.rd (w.dw 8), Use.wr (w.dw 10)])
    late := fun d js => if js.all (fun w => decide (w.f 9 15 0 * alignUp (64 + 16 * w.f 6 15 8) 64 ≤ (d.sheet (shIdx (w.dw 10))).size)) then none
      else some .refusedMalformed
    axes := fun _ x => batchAxes (x.w.f 9 15 0)
    run := fun d x =>
      let w := x.w
      let i := w.f 6 1 0
      let n := w.f 9 15 0
      match d.mapFor x (w.dw 7) with
      | .error r => r
      | .ok m =>
        match m.idx[i]?, m.epoch (bitOf (w.dw 6) 2) (w.dw 12) with
        | none, _ => Res.fail .refusedMalformed
        | some _, none => mapFail x 2 i
        | some ix, some e =>
          if d.lenOf x (w.dw 8) < n * ix.stride then Res.fail .refusedMalformed
          else
            let b := d.rd x (w.dw 8) 0 (n * ix.stride)
            let qs := (List.range n).map (fun k => ix.query e (w.f 6 26 16) (w.f 11 15 0) (w.f 6 15 8)
              (if bitOf (w.dw 6) 3 then some (w.f 11 26 16) else none) (bslice b (k * ix.stride) ix.stride))
            let lost := (qs.filter (·.lost)).length
            let exp := sumBy (·.expanded) qs
            { rdr := [(w.dw 8, 0, n * ix.stride)], r4 := satN (sumBy (fun q => q.rows.length) qs), r5 := satN exp,
              flags := flagIf (qs.any (·.cut)) fNotConverged, wr := [(w.dw 10, 0, qs.flatMap (fun q => q.bytes e (w.f 6 15 8)))],
              post := fun d =>
                let d := (((d.count cSrcQuery n).count cSrcExpand exp).count cSrcLost lost).prefetchLate exp
                foldIdx (fun k (d : Dev) (q : QRes) =>
                  let d := if q.lost then d.event (x.ev 0x94 (dwN i) (dwN e)) else d
                  if q.visited then d.event (x.ev 0x95 (dwN k)) else d) 0 d qs } }

/-- Insert items in order: the index, a reference for each inserted one (R289). -/
def MIdx.insertAll (x : MIdx) (p : Nat) (items : List (Bytes × DW)) : MIdx × List DW × Bool :=
  items.foldl (fun (acc : MIdx × List DW × Bool) it =>
    if acc.2.2 then acc
    else match acc.1.insert p it.1 it.2 with
      | some (y, r) => (y, acc.2.1 ++ [r], false)
      | none => (acc.1, acc.2.1, true)) (x, [], false)

/-- SRC_INSERT (R289). -/
def srcInsertDef : OpDef :=
  { kind := 7
    resv := fun w => w.f 6 31 2 == 0 && w.f 10 31 21 == 0 && w.zero 12 15
    form := fun js => js.all (fun w => decide (1 ≤ w.f 10 20 0 ∧ w.f 10 20 0 ≤ 2 ^ 20))
    uses := fun js => js.flatMap (fun w => [Use.wrAny (w.dw 7), Use.rd (w.dw 8), Use.rd (w.dw 9), Use.wr (w.dw 11)])
    late := fun d js => if js.all (fun w => decide (4 * w.f 10 20 0 ≤ (d.sheet (shIdx (w.dw 11))).size)) then none else some .refusedMalformed
    needs := fun js => js.map (fun w => (w.dw 9, 4 * w.f 10 20 0))
    run := fun d x =>
      let w := x.w
      let i := w.f 6 1 0
      let n := w.f 10 20 0
      match d.mapFor x (w.dw 7) with
      | .error r => r
      | .ok m =>
        match m.idx[i]? with
        | none => Res.fail .refusedMalformed
        | some ix =>
          if d.lenOf x (w.dw 8) < n * ix.stride then Res.fail .refusedMalformed
          else
            let b := d.rd x (w.dw 8) 0 (n * ix.stride)
            let lb := d.rd x (w.dw 9) 0 (4 * n)
            let q := ix.insertAll m.p ((List.range n).map (fun k => (bslice b (k * ix.stride) ix.stride, bw lb k)))
            let done := q.2.1.length
            { st := if q.2.2 then .refusedQuota else .done, r4 := dwN done, setToo := if q.2.2 then [w.dw 7] else [],
              rdr := [(w.dw 8, 0, n * ix.stride), (w.dw 9, 0, 4 * n)],
              wr := [(w.dw 11, 0, leWords (q.2.1 ++ List.replicate (n - done) 0))],
              post := fun d => (d.setMap x (w.dw 7) { m with idx := m.idx.set i q.1 }).count cSrcInsert done } }

/-- SRC_DELETE (R290). -/
def srcDeleteDef : OpDef :=
  { kind := 7
    resv := fun w => w.f 6 31 2 == 0 && w.f 9 31 21 == 0 && w.zero 11 15
    form := fun js => js.all (fun w => decide (1 ≤ w.f 9 20 0 ∧ w.f 9 20 0 ≤ 2 ^ 20))
    uses := fun js => js.flatMap (fun w => [Use.wrAny (w.dw 7), Use.rd (w.dw 8), Use.wr (w.dw 10)])
    late := fun d js => if js.all (fun w => decide (4 * w.f 9 20 0 ≤ (d.sheet (shIdx (w.dw 10))).size)) then none else some .refusedMalformed
    needs := fun js => js.map (fun w => (w.dw 8, 4 * w.f 9 20 0))
    run := fun d x =>
      let w := x.w
      let i := w.f 6 1 0
      let n := w.f 9 20 0
      match d.mapFor x (w.dw 7) with
      | .error r => r
      | .ok m =>
        match m.idx[i]? with
        | none => Res.fail .refusedMalformed
        | some ix =>
          let b := d.rd x (w.dw 8) 0 (4 * n)
          let q := (List.range n).foldl (fun (acc : MIdx × List DW) k =>
            let r := acc.1.delete m.p (bw b k)
            (r.1, acc.2 ++ [if r.2 then 0 else 1])) (ix, [])
          { rdr := [(w.dw 8, 0, 4 * n)], wr := [(w.dw 10, 0, leWords q.2)],
            post := fun d => d.setMap x (w.dw 7) { m with idx := m.idx.set i q.1 } } }

/-- The voxel of a point (R229). -/
def voxOf (vox : Nat) (p : Int × Int × Int) : Int × Int × Int := (p.1.fdiv vox, p.2.1.fdiv vox, p.2.2.fdiv vox)

/-- The key of R229, none outside its range. -/
def cloudKey (vox : Nat) (p : Int × Int × Int) : Option Nat :=
  let v := voxOf vox p
  let ok (i : Int) : Bool := decide (-(2 ^ 20 : Int) ≤ i ∧ i ≤ 2 ^ 20 - 1)
  let o (i : Int) : Nat := (i + 2 ^ 20).toNat
  if ok v.1 && ok v.2.1 && ok v.2.2 then some (spread3 21 (o v.1) + 2 * spread3 21 (o v.2.1) + 4 * spread3 21 (o v.2.2)) else none

/-- Keys present and strictly rising. -/
def keysRise : Option Nat → List (Option Nat) → Bool
  | _, [] => true
  | p, k :: t => match k with
    | none => false
    | some n => (match p with | some q => decide (q < n) | none => true) && keysRise (some n) t

/-- The neighbours of a query point: (distance, index) in order, at most `k` (R291). -/
def knn (vox radius k : Nat) (ref : List (Int × Int × Int)) (q : Int × Int × Int) : List (Nat × Nat) :=
  let near (a b : Int) : Bool := decide ((a - b).natAbs ≤ 1)
  let v := voxOf vox q
  let c := ref.zipIdx.filterMap (fun p =>
    let u := voxOf vox p.1
    let d2 := (p.1.1 - q.1).natAbs ^ 2 + (p.1.2.1 - q.2.1).natAbs ^ 2 + (p.1.2.2 - q.2.2).natAbs ^ 2
    if near u.1 v.1 && near u.2.1 v.2.1 && near u.2.2 v.2.2 && decide (d2 ≤ radius * radius) then some (d2, p.2) else none)
  (sortBy (fun (a b : Nat × Nat) => decide (a.1 < b.1 ∨ (a.1 = b.1 ∧ a.2 ≤ b.2))) c).take k

/-- SRC_KNN (R291). -/
def srcKnnDef : OpDef :=
  { kind := 7
    resv := fun w => w.f 6 31 5 == 0 && w.zero 12 15
    form := fun js => js.all (fun w => decide (1 ≤ w.f 6 4 0 ∧ w.f 6 4 0 ≤ 16))
    uses := fun js => js.flatMap (fun w => [Use.rd (w.dw 7), Use.rd (w.dw 8), Use.wr (w.dw 9)] ++
      (if w.dw 10 = 0 then [] else [Use.wr (w.dw 10)]))
    needs := fun js => js.flatMap (fun w => [(w.dw 7, 64), (w.dw 8, 64)])
    axes := fun d x => batchAxes (bnat (d.rd x (x.w.dw 8) 0 4) 0 4)
    run := fun d x =>
      let w := x.w
      let k := w.f 6 4 0
      let ref := d.cloud x (w.dw 7)
      let qry := d.cloud x (w.dw 8)
      let rdr := [(w.dw 7, 0, ref.2.2), (w.dw 8, 0, qry.2.2)]
      if ref.1 = 0 ∨ !keysRise none (ref.2.1.map (cloudKey ref.1)) then mapFail x 5 0 rdr
      else
        let rows := qry.2.1.map (knn ref.1 (w.dw 11).toNat k ref.2.1)
        let row (f : Nat × Nat → DW) (l : List (Nat × Nat)) : Bytes :=
          padTo 64 (leWords (l.map f ++ List.replicate (k - l.length) 0xFFFFFFFF))
        let outs : List (DW × Bytes) := (w.dw 9, rows.flatMap (row (fun p => dwN p.2))) ::
          (if w.dw 10 = 0 then [] else [(w.dw 10, rows.flatMap (row (fun p => satN p.1)))])
        if outs.any (fun o => decide ((d.sheet (shIdx o.1)).size < o.2.length)) then mapFail x 4 0 rdr
        else { rdr := rdr, r4 := satN (sumBy List.length rows), wr := outs.map (fun o => (o.1, 0, o.2)) } }

end Sys2Proof.Machine
end

