-- ==== Sys2Proof/Machine/Plough.lean ====
section
/-! DEFINITION. The plough (chapter 06): input conditioning (R151–R153), half-band stages (R154, R155), records (R156–R158),
timed swaps (R159–R161) and logs (R162–R164). -/

namespace Sys2Proof.Machine

/-- A channel. -/
def Dev.pch (d : Dev) (k : Nat) : PlgCh := d.plg.chans.getD k PlgCh.reset
/-- Replace a channel. -/
def Dev.setPch (d : Dev) (k : Nat) (c : PlgCh) : Dev := { d with plg := { d.plg with chans := d.plg.chans.setIfInBounds k c } }

/-! ## Configuration words and coefficients -/

/-- Fields of a PLG_CH word. -/
def chEn (w : DW) : Bool := bitOf w 0
def chScs (w : DW) : Bool := bitOf w 1
def chStages (w : DW) : Nat := bits w 5 3
def chShift (w : DW) : Nat := bits w 19 16
/-- Taps of stage `s`, and where its set starts in a stage block (PLG_COEF). -/
def chTaps (w : DW) (s : Nat) : Nat × Nat :=
  let t := bits w 15 6 / 4 ^ s % 4
  if t = 0 then (11, 0) else if t = 1 then (19, 3) else (23, 8)
/-- A channel word holds no reserved or out-of-range value (R159). -/
def chOk (w : DW) : Bool :=
  decide (bits w 31 20 = 0) && !bitOf w 2 && decide (chStages w ≤ 5) && tapsOk (bits w 15 6) && decide (chShift w ≤ 8)
/-- Samples a record spans back: 2D under the chain (R156). -/
def chDelay (w : DW) : Nat := sumBy (fun s => ((chTaps w s).1 - 1) / 2 * 2 ^ s) (List.range (chStages w))

/-- The default coefficient sets, in the order of a stage block (R155). -/
def coefDefault : List Int :=
  [2404175, -349805, 42782, 2600468, -738198, 318767, -109052, 25167, 2625634, -805306, 411042, -201327, 83886, -16777]

/-- A coefficient word of a bank as stored. -/
def Plg.coefWord (p : Plg) (bank : Bool) (s i : Nat) : DW :=
  Tab.getD (p.banks.getD (b2n bank) []) (16 * s + i) (dwI (coefDefault.getD i 0) &&& 0xFFFFFF)
/-- The coefficient it spells. -/
def Plg.coef (p : Plg) (bank : Bool) (s i : Nat) : Int := sext 24 (p.coefWord bank s i).toNat
/-- Set a coefficient word. -/
def Plg.setCoef (p : Plg) (bank : Bool) (s i : Nat) (w : DW) : Plg :=
  let t := p.banks.getD (b2n bank) []
  let t' := Tab.put (dwI (coefDefault.getD i 0) &&& 0xFFFFFF) t (16 * s + i) w
  { p with banks := p.banks.setIfInBounds (b2n bank) t' }

/-! ## Stages (R154) -/

/-- One stage fed one input: the new history, and the output with whether it saturated. -/
def hbStep (n : Nat) (h : Nat → Int) (st : HbStage) (v : Int) : HbStage × Option (Int × Bool) :=
  let x := (v :: st.x).take n
  let st' : HbStage := { x := x, j := st.j + 1 }
  if st.j % 2 = 0 then (st', none)
  else
    let c := (n - 1) / 2
    let acc := (List.range ((n + 1) / 4)).foldl
      (fun a i => a + h i * (x.getD (c - 2 * i - 1) 0 + x.getD (c + 2 * i + 1) 0)) (x.getD c 0 * 2 ^ 22)
    let r := rshr acc 23
    (st', some (satS 24 r, decide (satS 24 r ≠ r)))

/-- A sample through the stages from stage `s` on: histories, the chain output if the last stage fires, saturations. -/
def runChain (coef : Nat → Nat → Int) (taps : Nat → Nat × Nat) : Nat → Int → List HbStage → List HbStage × Option Int × Nat
  | _, v, [] => ([], some v, 0)
  | s, v, h :: t =>
    match hbStep (taps s).1 (fun i => coef s ((taps s).2 + i)) h v with
    | (h', none) => (h' :: t, none, 0)
    | (h', some (o, sat)) =>
      let r := runChain coef taps (s + 1) o t
      (h' :: r.1, r.2.1, r.2.2 + b2n sat)

/-! ## Samples (R149, R151, R153) -/

/-- The configuration a pending swap installs in a channel. -/
def PlgSwap.cfgOf (s : PlgSwap) (k : Nat) (c : PlgCh) : DW := if s.applyCh then s.chans.getD k c.cfg else c.cfg

/-- Offer one sampling instant of an IMU to its eight channels: values, or a missed sample and its cause (0 overrun, 1 bad
unit). A channel that holds two unprocessed samples misses it (cause 2). -/
def Dev.plgOffer (d : Dev) (imu stamp : Nat) (vals : Option (Vector Int 8)) (cause : Nat) : Dev :=
  if !d.plg.en then d
  else (List.range 8).foldl (fun d j =>
    let k := 8 * imu + j
    let c := d.pch k
    let starting := match d.plg.swap with
      | some s => !c.switched && chEn (s.cfgOf k c)
      | none => false
    if !(chEn c.cfg || starting) then d
    else
      let p : PSample := match vals with
        | some v => if (c.pend.filter (fun q => q.value.isSome)).length ≥ 2 then { value := none, stamp := stamp, cause := 2 }
          else { value := some (v.toList.getD j 0), stamp := stamp, cause := 0 }
        | none => { value := none, stamp := stamp, cause := cause }
      d.setPch k { c with pend := c.pend ++ [p] }) d

/-! ## Logs (R162–R164) -/

/-- Sensor ID of a log. -/
def logSensor (l : Nat) : Nat := if l < 4 then 0x30 + l else 0xB0 + (l - 4)

/-- The record whose slot the next record would take is not released (R123, R162). -/
def Dev.logFull (d : Dev) (l : Nat) : Bool :=
  let g := d.plog l
  let n := d.logSlots l
  if g.count < n then n == 0
  else
    let c := g.count - n
    let t := recStamp (d.logRec l c)
    !(Tab.getD g.holds c []).isEmpty || decide (d.now ≤ t + d.retainNs (logSensor l)) || d.mayMatch (logSensor l) true t

/-- Write a record into a log, or drop it and count (R162, R164); own records written are forwarded while the mirror is UP
(R163); selectors its STAMP reaches close (R121). A log that was never registered takes nothing. -/
def Dev.logWrite (d : Dev) (l : Nat) (b : Bytes) : Dev :=
  let g := d.plog l
  let note (d : Dev) : Dev :=
    (d.modLog l (fun g => { g with lastStamp := Nat.max g.lastStamp (recStamp b) })).closeReached (logSensor l) true (recStamp b)
  if g.sheet = 0 then d
  else if !g.live || d.logFull l then
    let d := (d.count cPlgLogDrop).modLog l (fun g => { g with lostRun := true })
    note (if g.lostRun then d else d.event { code := 0x43, d4 := dwN l })
  else
    let i := shIdx g.sheet
    let d := (d.rawWrite i (16 * (g.count % d.logSlots l)) b).modSheet i Sheet.portWrite
    let d := d.modLog l (fun g => { g with count := g.count + 1, lostRun := false })
    let d := if l < 4 ∧ d.mir.state = 1 then { d with mir := { d.mir with plgFwd := d.mir.plgFwd ++ [(l, b)] } } else d
    note d

/-! ## One slot (R149–R158) -/

/-- Reset a channel's history for a configuration: index 0 is next (R154, R160). -/
def PlgCh.clear (c : PlgCh) (cfg : DW) : PlgCh :=
  { c with stages := List.replicate (chStages cfg) { x := [], j := 0 }, n := 0, hist := [], block := [], satPend := false }

/-- Install a configuration and bank: history resets when STAGES, TAPS or IN_SHIFT change; a channel that starts has none
(R160). -/
def PlgCh.install (c : PlgCh) (cfg : DW) (bank : Bool) : PlgCh :=
  let starts := chEn cfg && !chEn c.cfg
  let changed := bits cfg 19 3 != bits c.cfg 19 3
  let c' := if starts ∨ changed then c.clear cfg else c
  let c' := if starts then { c' with prev := 0, prevStamps := [] } else c'
  { c' with cfg := cfg, bank := bank }

/-- The input at index `n` forms a record. -/
def PlgCh.forms (c : PlgCh) : Bool := c.n % 2 ^ chStages c.cfg == 2 ^ chStages c.cfg - 1

/-- PLG_SWAP completes once every channel has switched (R160). Words staged after an ARM stay staged for the next (R161). -/
def Dev.swapDone (d : Dev) : Dev :=
  match d.plg.swap with
  | none => d
  | some s =>
    if !d.plg.chans.toList.all (·.switched) then d
    else
      let act := !d.plg.active
      let un (k : Nat) (c : PlgCh) : PlgCh :=
        let mine := s.owner.isNone && s.applyCh && c.staged == s.chans[k]?
        { c with switched := false, staged := if mine then none else c.staged }
      let d := { d with plg := { d.plg with active := act, swap := none, chans := d.plg.chans.mapIdx un } }
      let d := (d.count cPlgSwap).event { code := 0x40, d4 := dwN s.switchedOn, d5 := dwN (b2n act) }
      match s.owner with
      | some id => d.endDesc id { st := .done, r4 := dwN s.switchedOn, r5 := dwN (b2n act) }
      | none => d

/-- A record leaves a channel: suppressed (R157), or counted and written. -/
def Dev.plgRecord (d : Dev) (k stamp : Nat) (value : Int) (settling sat gap scs : Bool) : Dev :=
  let c := d.pch k
  let ch := d.setPch k { c with satRun := if sat then c.satRun else false, gapRun := if gap then c.gapRun else false }
  if (c.lastRec.map (fun t => decide (stamp ≤ t))).getD false then ch
  else
    let c := ch.pch k
    let b := leWords [dwN stamp, dwN (stamp / 2 ^ 32),
      dwN ((dwI value &&& 0xFFFFFF).toNat + k * 2 ^ 24 + b2n settling * 2 ^ 29 + b2n sat * 2 ^ 30 + b2n gap * 2 ^ 31),
      dwN (c.outSeq.toNat + b2n scs * 2 ^ 16 + b2n c.bank * 2 ^ 17)]
    let l := k / 8
    let before := (d.plog l).count
    let d := (ch.setPch k { c with outSeq := c.outSeq + 1 }).logWrite l b
    if (d.plog l).count = before then d else d.setPch k { (d.pch k) with lastRec := some stamp }

/-- A conditioned or inserted sample passes a channel at its next index (R152–R158). -/
def Dev.plgSample (d : Dev) (k : Nat) (p : PSample) (stamp : Nat) : Dev :=
  let c := d.pch k
  let raw : Int := match p.value with
    | some v => rshr v (chShift c.cfg)
    | none => c.prev
  let x := satS 24 raw
  let inSat := p.value.isSome && decide (x ≠ raw)
  let (st, out, sats) := runChain (d.plg.coef c.bank) (chTaps c.cfg) 0 x c.stages
  let forms := c.forms
  let hist := ((stamp, inSat, p.value.isNone) :: c.hist).take 1024
  let block := (x, stamp) :: c.block
  let sp := c.satPend || decide (sats ≠ 0)
  let bits := sats + b2n inSat
  let c' : PlgCh :=
    { c with stages := st, n := c.n + 1, prev := x, prevStamps := (stamp :: c.prevStamps).take 2, hist := hist,
             block := if forms then [] else block, satPend := sp && !forms,
             satRun := c.satRun || decide (bits ≠ 0), gapRun := c.gapRun || p.value.isNone }
  let d := d.setPch k c'
  let d := if bits = 0 then d
    else
      let d := d.count cPlgSat bits
      if c.satRun then d else d.event { code := 0x41, d4 := dwN k, d5 := dwN c.outSeq.toNat }
  let d := if p.value.isSome then d
    else
      let d := d.count cPlgGap
      if c.gapRun then d else d.event { code := 0x42, d4 := dwN k, d5 := dwN p.cause }
  if !forms then d
  else if chScs c.cfg then
    let span := hist.take (2 ^ chStages c.cfg)
    let first := ((block.getLast?).map (·.2)).getD stamp
    d.plgRecord k (rdiv ((first : Int) + stamp) 2).toNat (rdiv (block.foldl (fun a b => a + b.1) 0) (2 ^ chStages c.cfg)) false
      (span.any (·.2.1)) (span.any (·.2.2)) true
  else
    let dl := chDelay c.cfg
    if c.n < dl then d
    else
      let span := hist.take (2 * dl + 1)
      d.plgRecord k ((hist[dl]?.map (·.1)).getD stamp) (out.getD 0) (decide (c.n < 2 * dl)) (sp || span.any (·.2.1))
        (span.any (·.2.2)) false

/-- 10 ms (R160). -/
def plgSwapWait : Nat := 10000000

/-- The channel takes samples before or after the swap. -/
def PlgSwap.feeds (s : PlgSwap) (k : Nat) (c : PlgCh) : Bool := chEn c.cfg || chEn (s.cfgOf k c)

/-- A sample already passed in the channel is stamped at or after SWAP_TIME. One that passes with none before it in the 10 ms
after SWAP_TIME finds the channel switched, so such a stamp shows an input within them. -/
def PlgSwap.passed (s : PlgSwap) (c : PlgCh) : Bool := chEn c.cfg && c.prevStamps.head?.any (fun t => decide (s.at_ ≤ t))

/-- The channel switches at the sample `stamp`: after 10 ms without input, without a record; else at a sample at or after
SWAP_TIME that forms a record under the current configuration, and a channel that starts at its first one (R160). -/
def PlgSwap.switchesAt (s : PlgSwap) (k : Nat) (c : PlgCh) (stamp : Nat) : Option Bool :=
  if c.switched ∨ stamp < s.at_ then none
  else if s.at_ + plgSwapWait < stamp ∧ !s.passed c then some false
  else if chEn c.cfg then (if c.forms then some true else none)
  else if chEn (s.cfgOf k c) then some false else none

/-- PLOUGH_SLOT (R149): the slot of a channel takes its oldest unprocessed sample, which may switch the channel. An inserted sample
continues the interval of the two samples before it; with fewer than two its stamp is not stated and is free. -/
def ploughSlot (k : Nat) (d : Dev) : Dev :=
  let c := d.pch k
  match c.pend with
  | [] => d
  | p :: rest =>
    if !d.plg.en then d
    else
      let (stamp, d) : Nat × Dev := match p.value, c.prevStamps with
        | some _, _ => (p.stamp, d)
        | none, [a, b] => (a + (a - b), d)
        | none, _ => ((Sys2Proof.Config.freeValue d.free).toNat, { d with free := d.free + 1 })
      let d := d.setPch k { c with pend := rest }
      let c := d.pch k
      let d := match d.plg.swap with
        | some s =>
          match s.switchesAt k c stamp with
          | none => d
          | some onRecord =>
            let d := d.setPch k { (c.install (s.cfgOf k c) (!d.plg.active)) with switched := true }
            { d with plg := { d.plg with swap := some { s with switchedOn := s.switchedOn + b2n onRecord } } }
        | none => d
      let d := if chEn (d.pch k).cfg then d.plgSample k p stamp else d
      d.swapDone

/-! ## Swaps (R159–R161) -/

/-- The checks of PLG_SWAP beyond R16, R17 and those of its sheet (R159). -/
def Dev.checkPlgSwap (d : Dev) (w : DescWords) : Option Status :=
  let n := if bitOf (w.dw 8) 0 then 448 else 320
  let off := (w.dw 7).toNat
  if w.target ≠ hPlough ∨ ¬ w.within 8 1 ∨ ¬ w.zero 9 9 ∨ ¬ w.zero 12 15 ∨ off % 64 ≠ 0 ∨ ¬ targetOk d.now (w.q 10) ∨
    (d.sheet (shIdx (w.dw 6))).size < off + n then some .refusedMalformed else none

/-- An accepted PLG_SWAP waits in acceptance order. -/
def Dev.runPlgSwap (d : Dev) (x : Desc) : Dev := { d with plg := { d.plg with waiting := d.plg.waiting ++ [x.id] } }

/-- A swap image is well formed: no non-zero bits above a coefficient, no reserved word, channel words in range. -/
def imageOk (b : Bytes) (applyCh : Bool) : Bool :=
  (List.range 80).all (fun i => decide (bits (bw b i) 31 24 = 0) && (decide (i % 16 < 14) || bw b i == 0)) &&
    (!applyCh || (List.range 32).all (fun k => chOk (bw b (80 + k))))

/-- Every channel has yet to switch. A SWAP_TIME that has passed is reached now (R159). -/
def Dev.armSwap (d : Dev) (s : PlgSwap) : Dev :=
  let un (c : PlgCh) : PlgCh := { c with switched := false }
  { d with plg := { d.plg with swap := some { s with at_ := Nat.max s.at_ d.now }, chans := d.plg.chans.map un } }

/-- PLG_SWAP_LOAD (R159): with no swap pending, the first waiting PLG_SWAP whose sheet it may read loads its image into the
inactive bank. -/
def plgSwapLoad (d : Dev) : Dev :=
  match d.plg.swap, d.plg.waiting with
  | none, id :: rest =>
    let d := d.grantFor id
    match d.desc? id, d.tokens id with
    | some _, (some st, _) => d.endDesc id { st := st }
    | some x, (none, true) =>
      let ap := bitOf (x.w.dw 8) 0
      let off := (x.w.dw 7).toNat
      let n := if ap then 448 else 320
      let b := d.rd x (x.w.dw 6) off n
      let (d, fl, bad) := d.eccDecodeReads x [(x.w.dw 6, off, n)]
      if bad then d.endDesc id { st := .failedUncorrectable, flags := fl }
      else if !imageOk b ap then d.endDesc id { st := .refusedMalformed, flags := fl }
      else
        let p := (List.range 80).foldl (fun (p : Plg) i =>
          if i % 16 < 14 then p.setCoef (!p.active) (i / 16) (i % 16) (bw b i) else p) d.plg
        let d := { d with plg := { p with waiting := rest } }
        let d := d.modDesc id (fun y => { y with phase := .dispatched, flags := y.flags ||| fl })
        let chans := if ap then (List.range 32).map (fun k => bw b (80 + k)) else []
        d.armSwap { owner := some id, at_ := x.w.q 10, applyCh := ap, chans := chans, switchedOn := 0 }
    | _, _ => d
  | _, _ => d

/-- PLG_CTL written before the lock (R161): ARM with no swap pending arms one at PLG_SWAP_TIME. -/
def plgCtlArmWrite (v : DW) (d : Dev) : Dev :=
  if d.locked then d
  else
    let d := d.setOwn 0x9010 (v &&& 2)
    if bitOf v 0 ∧ d.plg.swap.isNone then
      let at_ := (d.reg 0x9008).toNat + 2 ^ 32 * (d.reg 0x900C).toNat
      let chans := d.plg.chans.toList.map (fun c => c.staged.getD c.cfg)
      d.armSwap { owner := none, at_ := at_, applyCh := bitOf v 1, chans := chans, switchedOn := 0 }
    else d

/-- PLG_SWAP_IDLE_SWITCH (R160): 10 ms after SWAP_TIME the channels that received no input in them switch. -/
def plgSwapIdleSwitch (d : Dev) : Dev :=
  match d.plg.swap with
  | none => d
  | some s =>
    if d.now < s.at_ + plgSwapWait then d
    else
      let sw (k : Nat) (c : PlgCh) : PlgCh :=
        let got := s.feeds k c &&
          (s.passed c || c.pend.any (fun p => decide (s.at_ ≤ p.stamp ∧ p.stamp ≤ s.at_ + plgSwapWait)))
        if c.switched ∨ got then c else { (c.install (s.cfgOf k c) (!d.plg.active)) with switched := true }
      { d with plg := { d.plg with chans := d.plg.chans.mapIdx sw } }.swapDone

/-! ## Register writes before the lock (R161, PLG tables) -/

/-- PLG_CH.CFG: at once while the engine is off, staged while it runs. A word written at once takes the place of one staged
for the same channel, also in a swap that is armed. -/
def Dev.plgChWrite (d : Dev) (k : Nat) (v : DW) : Dev :=
  let c := d.pch k
  let w := fldWrite (rwlPlg 0x9100) (if d.plg.en then c.staged.getD c.cfg else c.cfg) v
  if d.plg.en then d.setPch k { c with staged := some w }
  else
    let d := d.setPch k { (c.install w c.bank) with staged := none }
    let upd (s : PlgSwap) : PlgSwap := if s.owner.isNone then { s with chans := s.chans.set k w } else s
    { d with plg := { d.plg with swap := d.plg.swap.map upd } }

/-- PLG_COEF: a write to the active bank is ignored. -/
def Dev.plgCoefWrite (d : Dev) (bank : Bool) (s i : Nat) (v : DW) : Dev :=
  if bank = d.plg.active then d else { d with plg := d.plg.setCoef bank s i (v &&& 0xFFFFFF) }

/-- PLG_LOG.SHEET: a T1 sheet of ACCESS DEVICE of a context of class OWNER, of whole 4 KiB; 0 takes the log away; other
handles are ignored. -/
def Dev.plgLogWrite (d : Dev) (l : Nat) (h : DW) : Dev :=
  let ok := match d.sheetOf h with
    | some s => s.tier == 0 && s.access == 2 && s.size % 4096 == 0 && !isLanding (shIdx h) && d.owner s.ctx
    | none => false
  if h = 0 then d.modLog l (fun _ => PlgLog.reset)
  else if ok then d.modLog l (fun _ => { PlgLog.reset with sheet := h, live := true }) else d

/-- PLG_DELAY of a channel. -/
def Dev.plgDelay (d : Dev) (k : Nat) : DW :=
  let w := (d.pch k).cfg
  if chScs w then dwN (2 ^ chStages w - 1 + 2 ^ 11) else dwN (2 * chDelay w)

end Sys2Proof.Machine
end

