-- ==== Sys2Proof/Machine/Mirror.lean ====
section
/-! DEFINITION. Mirror links (R308–R312, R314), pairing, heartbeats and loss (R309, R324, R325), split mode (R326), queue-pair
rates (R310), and forwarded units and plough records (R124, R125, R163, R313). -/

namespace Sys2Proof.Machine

/-! ## Identity and configuration digest -/

/-- COLOPHON's variant code. -/
def Variant.code : Variant → Nat
  | .bl6480 => 0x80 | .bl6460 => 0x60 | .bl6440 => 0x40

/-- COLOPHON (R393). -/
def Dev.colophon (d : Dev) : DW :=
  dwN (0x4A420000 + d.board.variant.code * 2 ^ 8 + d.board.letter.toNat * 2 ^ 4 + d.board.number.toNat)

/-- The byte string of R401 over some register words. -/
def setupString (v : Variant) (offs : List Nat) (val : Nat → DW) : Bytes :=
  offs.flatMap (fun o => toLe o 4 ++ le32 (val o &&& dwN (fldMask (rwlAt v o))))

/-- The configuration digest of R309: the VIS, TEN, PRS, SRC and LDG blocks. -/
def Dev.configDigest (d : Dev) : Digest :=
  let v := d.board.variant
  sha3 (setupString v ((rwlOffsets v).filter (fun o => decide (0xA000 ≤ o ∧ o < 0xC000) || decide (0x10000 ≤ o ∧ o < 0x13000))) d.reg)

/-! ## Ports, links, reasons -/

/-- A mirror port exists on the variant and is enabled. -/
def Dev.mirOn (d : Dev) (m : Nat) : Bool :=
  decide (m = 0 ∨ d.board.variant ≠ .bl6440) && bitOf (d.reg (0x14100 + 32 * m)) 0

/-- Role bit: 1 verso. -/
def Dev.roleBit (d : Dev) : Nat := b2n d.mir.verso

/-- The payload of ROLE. -/
def Dev.rolePayload (d : Dev) : Bytes :=
  toLe d.roleBit 4 ++ le32 d.colophon ++ Digest.bytes d.sec.meas ++ Digest.bytes d.configDigest ++ Digest.bytes d.vault.idDigest ++
    le32 Config.stagingRkey ++ le64 Config.stagingBase ++ le32 Config.stagingBytes

/-- Send ROLE on a link (R309). -/
def Dev.sendRole (d : Dev) (m : Nat) : Dev :=
  (d.mirSendOn m 0 0x02 0 [] (bslice d.rolePayload 0 128)).modLink m (fun l => { l with sentAt := d.now })

/-- The first reason of the links that are up, NO_LINK when none is. -/
def Dev.downReason (d : Dev) : Nat × Nat :=
  let l := [0, 1].filter (fun m => (d.link m).up)
  match l with
  | [] => (1, 0)
  | a :: t => t.foldl (fun b m => if (d.link m).reason < b.1 then ((d.link m).reason, m) else b) ((d.link a).reason, a)

/-- While the pair is not up, the first reason that applies is reported, and a new one raises MIR_DOWN (R309). -/
def Dev.mirReason (d : Dev) : Dev :=
  let (reason, port) := d.downReason
  if d.mirUp ∨ d.mir.reason = reason then d
  else
    let d := { d with mir := { d.mir with reason := reason } }
    d.event { code := 0xB1, d4 := dwN (reason + port * 16) }

/-- Armed mirrored plans, by slot. -/
def Dev.mirSlots (d : Dev) : List Nat := (d.plans.filter (fun p => p.2.mirrored)).map (·.1)

/-- A link's pairing has changed: control copies are matched afresh. -/
def Dev.clearSeen (d : Dev) : Dev := { d with mir := { d.mir with seen := [] } }

/-- Drop a forwarded unit being received: its place in a landing sheet is given back (R114). -/
def Dev.dropRx (d : Dev) (own : Nat) : Dev :=
  match Tab.get? d.mir.rx own with
  | none => d
  | some u =>
    let d := { d with mir := { d.mir with rx := Tab.del d.mir.rx own } }
    if u.dropped then d else d.landingLeft (own + 128) u.sheet

/-- Drop every forwarded unit being received of which `p` holds of its own sensor ID. -/
def Dev.dropRxs (d : Dev) (p : Nat → Bool) : Dev := ((d.mir.rx.map (·.1)).filter p).foldl Dev.dropRx d

/-- Abort the MIR_RESYNC descriptors of a slot (R322, R323). -/
def Dev.abortResync (d : Dev) (slot : Nat) : Dev :=
  (d.descs.filter (fun x => match x.await_ with | .resync s => s == slot | _ => false)).foldl
    (fun d x => d.abortDesc x.id .abortedFence) d

/-- A resync of a slot ends without completing (R322). -/
def MirSlot.endSync (m : MirSlot) (s : Sync) : MirSlot :=
  { m with sync := s, adopt := false, bulk := none, fill := [], fillFor := none, fillEnd := false }

/-- FAULT of recto's last DIGEST (R325). -/
def MirSlot.rectoFault (m : MirSlot) (verso : Bool) : Bool :=
  if verso then (m.peerDigs.head?.map (·.fault)).getD false else (m.owns.head?.map (·.1.fault)).getD false

/-- The pair is no longer up: nothing is forwarded, and running resyncs end with the slot DIVERGED (R309, R322). -/
def Dev.pairEnd (d : Dev) (state : Nat) : Dev :=
  let was := d.mirUp
  let d := { d with mir := { d.mir with state := state, quiet := none, fwd := [], plgFwd := [], rxSeq := [] } }
  let d := (d.dropRxs (fun _ => true)).clearSeen
  if !was then d
  else d.mirSlots.foldl (fun d s =>
    let d := d.modSlot s (fun m => { m with lossFault := m.rectoFault d.mir.verso })
    let m := d.mslot s
    if m.sync = .repair ∨ m.sync = .bulk then (d.modSlot s (fun m => m.endSync .diverged)).abortResync s else d) d

/-- The pairing of the links has changed: with none paired the pair is down for the reason that applies (R309). -/
def Dev.pairCheck (d : Dev) : Dev := (if d.mirUp && d.pairedLinks.isEmpty then d.pairEnd 0 else d).mirReason

/-- The pair is up (R309, R325): MIR_UP; PLAN is sent for every armed mirrored slot, and when the pair was up before each of them waits
for the partner's PLAN to start a bulk resync. -/
def Dev.pairUp (d : Dev) : Dev :=
  let alone : Bool := d.mir.upAt.isSome
  let d := { d with mir := { d.mir with state := 1, reason := 0, upAt := some d.now, lostAt := none, quiet := none } }
  let mask := (d.pairedLinks).foldl (fun n m => n + 2 ^ m) 0
  let d := d.event { code := 0xB0, d4 := dwN (d.roleBit + mask * 2) }
  d.mirSlots.foldl (fun d s =>
    let d := if alone then d.modSlot s (fun m => { m with sync := .unpaired, resume := true, peer := none }) else d
    d.sendPlan s true) d

/-- A held pair comes up once a link is paired and, after a loss, heartbeats have returned (R309, R325). -/
def Dev.tryUp (d : Dev) : Dev :=
  let back : Bool := match d.mir.lostAt, d.mir.lastHb with
    | some l, some h => decide (l < h)
    | some _, none => false
    | none, _ => true
  if !d.mirUp && !d.pairedLinks.isEmpty && back then d.pairUp else d

/-- MIR_LINK (R309, R311, R324): a mirror port's link goes up, which starts the ROLE exchange, or down. -/
def mirLink (m : Nat) (up : Bool) (d : Dev) : Dev :=
  let l := d.link m
  if (up ∧ ¬ d.mirOn m) ∨ l.up = up then d
  else
    let d := (d.modLink m (fun _ => { Link.reset with up := up, reason := if up then 6 else 1, sentAt := d.now })).clearSeen
    let d := if up then d.sendRole m else d.ptpLinkDown (6 + m)
    let d := d.event { code := 0xB3, d4 := dwN (m + b2n up * 2) }
    if up then d else d.pairCheck

/-! ## Receiving (R311, R312, R314) -/

/-- A received message. -/
structure Msg where
  type  : Nat
  seq   : BitVec 16
  len   : Nat
  epoch : QW
  ver   : Nat
  dlo   : Bytes
  pay   : Bytes

/-- Take a message apart; none when it is too short for a header or its MAGIC is wrong. -/
def Msg.parse (b : Bytes) : Option Msg :=
  if b.length < 32 ∨ bnat b 0 2 ≠ 0x4A42 then none
  else some { type := bnat b 2 1, ver := bnat b 3 1, seq := BitVec.ofNat 16 (bnat b 4 2), len := bnat b 6 2,
              epoch := BitVec.ofNat 64 (bnat b 8 8), dlo := bslice b 16 16, pay := b.drop 32 }

/-- Drop a message and count it (R312). -/
def Dev.mirDrop (d : Dev) : Dev := d.count cMirDrop

/-- The receive path of a queue pair: MAGIC and TYPE, the link held or paired, SEQ, LENGTH. A SEQ gap puts the queue pair into
the error state; the messages it carries are lost until it is re-established. -/
def Dev.mirRx (d : Dev) (port q type : Nat) (b : Bytes) (lenOk : Msg → Bool) (f : Msg → Dev → Dev) : Dev :=
  let l := d.link port
  if !d.mirOn port || !l.up then d
  else match Msg.parse b with
    | none => d.mirDrop
    | some m =>
      if m.type ≠ type ∨ (¬ l.paired ∧ type ≠ 0x01 ∧ type ≠ 0x02) then d.mirDrop
      else
        let qp := l.qps.getD q QPair.reset
        let put (d : Dev) (p : QPair) : Dev := d.modLink port (fun l => { l with qps := l.qps.setIfInBounds q p })
        if qp.err then d
        else if m.seq ≠ qp.rx then put d { qp with err := true }
        else
          let d := put d { qp with rx := qp.rx + 1 }
          if m.pay.length ≠ 64 * m.len ∨ !lenOk m then d.mirDrop else f m d

/-- A control message of QP0 with a payload of some 64-byte units, its second copy discarded (R311). -/
def Dev.mirCtl (d : Dev) (port type units : Nat) (b : Bytes) (slot : Msg → Nat) (f : Msg → Dev → Dev) : Dev :=
  d.mirRx port 0 type b (fun m => m.len == units) (fun m d =>
    let key (p : Nat) : Nat × BitVec 64 × Nat := (type, m.epoch, slot m + 16 * p)
    if d.mir.seen.contains (key (1 - port)) then
      { d with mir := { d.mir with seen := d.mir.seen.filter (fun k => k != key (1 - port)) } }
    else
      let d := if d.pairedLinks.length = 2 then { d with mir := { d.mir with seen := d.mir.seen ++ [key port] } } else d
      f m d)

/-- The slot word of a control message. -/
def Msg.slot (m : Msg) : Nat := bits (bw m.pay 0) 3 0

/-! ## ROLE (R308, R309) -/

/-- The first reason for which a ROLE message fails on a link, 0 when it passes. -/
def Dev.roleReason (d : Dev) (port : Nat) (ver : Nat) (p : PeerRole) : Nat :=
  let other := d.link (1 - port)
  if p.verso = d.mir.verso then 2
  else if bits p.colophon 15 8 ≠ bits d.colophon 15 8 then 3
  else if p.meas ≠ d.sec.meas then 4
  else if ver ≠ 1 then 5
  else if other.up ∧ other.paired ∧ (other.peer.map (·.ident)) ≠ some p.ident then 7 else 0

/-- MIR_ROLE_RX (R308, R309, R325): a ROLE message is checked; the link is paired or held. A link already paired answers with
its own ROLE. -/
def mirRoleRx (port : Nat) (b : Bytes) (d : Dev) : Dev :=
  d.mirRx port 0 0x02 b (fun m => m.len == 2) (fun m d =>
    let dg (k : Nat) : Digest := BitVec.ofNat 256 (bnat m.pay (4 * k) 32)
    let p : PeerRole :=
      { verso := bitOf (bw m.pay 0) 0, colophon := bw m.pay 1, meas := dg 2, config := dg 10, ident := dg 18, rkey := bw m.pay 26,
        base := BitVec.ofNat 64 (bnat m.pay 108 8), bytes := bw m.pay 29 }
    let was := (d.link port).paired
    let reason := d.roleReason port m.ver p
    let d := (d.modLink port (fun l => { l with peer := some p, reason := reason, paired := decide (reason = 0) })).clearSeen
    if reason ≠ 0 then d.pairCheck
    else
      let d := if was then d.sendRole port else d
      let d := d.tryUp
      let diff : Bool := decide (p.config ≠ d.configDigest)
      let d := if diff ∧ ¬ d.mir.configDiff then d.event { code := 0xB8 } else d
      { d with mir := { d.mir with configDiff := diff } })

/-- MIR_ROLE_RETRY (R309): every 100 ms a held link sends ROLE again; one that heard none reports NO_ANSWER. -/
def mirRoleRetry (port : Nat) (d : Dev) : Dev :=
  let l := d.link port
  if !l.up || l.paired || decide (d.now < l.sentAt + 100000000) then d
  else
    let d := d.modLink port (fun l => { l with reason := if l.peer.isNone then 6 else l.reason, peer := none })
    (d.mirReason).sendRole port

/-! ## Heartbeats and loss (R324) -/

/-- HEARTBEAT_TX (R324, R349): every 1 ms HEARTBEAT goes out on every up link, and each up link that brought none in the last
millisecond counts a miss. A device out of service sends none. -/
def heartbeatTx (d : Dev) : Dev :=
  if d.now < d.mir.hbDue ∨ d.flt.devOos then d
  else
    let mask := d.pairedLinks.foldl (fun n m => n + 2 ^ m) 0
    let pay := toLe (d.mir.state + mask * 8) 4
    let d := [0, 1].foldl (fun d m =>
      let l := d.link m
      if !l.up then d
      else
        let missed : Bool := match l.lastHb with
          | some t => decide (t + 1000000 < d.now)
          | none => true
        let d := if missed then d.count cMirHbMiss else d
        d.mirSendOn m 0 0x01 d.now [] pay) d
    { d with mir := { d.mir with hbDue := d.now + 1000000 } }

/-- HEARTBEAT_RX (R324): the partner lives. -/
def heartbeatRx (port : Nat) (b : Bytes) (d : Dev) : Dev :=
  d.mirRx port 0 0x01 b (fun m => m.len == 1) (fun _ d =>
    let d := d.modLink port (fun l => { l with lastHb := some d.now })
    { d with mir := { d.mir with lastHb := some d.now } }.tryUp)

/-- LOSS_MS without a heartbeat is counted from the last one on any link, and from when the pair came up (R324). None before the pair
was first up, nor once the partner is lost. -/
def Dev.lossFrom (d : Dev) : Option Nat :=
  if d.mir.state = 3 then none else d.mir.upAt.map (fun t => Nat.max t (d.mir.lastHb.getD 0))
/-- MIR_PEER_LOST (R322, R324): no HEARTBEAT for LOSS_MS makes the device ALONE; its links are held. Where no heartbeat ever came, the
event's time of the last one is open. -/
def mirPeerLost (d : Dev) : Dev :=
  match d.lossFrom with
  | none => d
  | some t =>
    if d.now < t + d.regF 0x14000 8 0 * 1000000 then d
    else
      let hold (l : Link) : Link := { l with paired := false, peer := none, reason := if l.up then 6 else l.reason }
      let (last, d) : Nat × Dev := match d.mir.lastHb with
        | some t => (t, d)
        | none => ((Sys2Proof.Config.freeValue d.free).toNat, { d with free := d.free + 1 })
      let d := d.pairEnd 3
      let d := { d with mir := { d.mir with lostAt := some d.now, links := d.mir.links.map hold } }
      (d.event { code := 0xB2, d5 := dwN last }).mirReason

/-! ## Split mode (R326) -/

/-- Until when the queues of QP2 and QP3 hold 1 ms of traffic or more, now at the earliest (R326). -/
def Dev.trafficTill (d : Dev) : Nat :=
  (d.mir.links.toList.flatMap (fun l => [l.qps.getD 2 QPair.reset, l.qps.getD 3 QPair.reset])).foldl
    (fun t p => Nat.max t (p.busy - 10 ^ 6)) d.now

/-- Enter or leave split mode. Firings stay DIVERGED after it until a period whose digests match. -/
def Dev.setSplit (d : Dev) (on : Bool) : Dev :=
  let d := { d with mir := { d.mir with
    state := if on then 2 else 1
    quiet := if on then some (d.trafficTill) else none
    rxSeq := []
    fwd := if on then [] else d.mir.fwd
    plgFwd := if on then [] else d.mir.plgFwd } }
  let d := d.mirSlots.foldl (fun d s => d.modSlot s (fun m => { m with stale := true })) d
  d.event { code := 0xB6, d4 := dwN (b2n on) }

/-- SPLIT on QP0. -/
def Dev.sendSplit (d : Dev) (on : Bool) : Dev := d.mirControl 0x06 d.now [] (toLe (b2n on) 4)

/-- MIR_SPLIT_ENTER (R326): the oldest unit waiting for forwarding has waited longer than SPLIT_MS. -/
def mirSplitEnter (d : Dev) : Dev :=
  match d.mir.fwd with
  | w :: _ =>
    if d.mir.state = 1 ∧ w.since + d.regF 0x14000 25 16 * 1000000 < d.now then (d.sendSplit true).setSplit true else d
  | [] => d

/-- MIR_SPLIT_LEAVE (R326): QP2 and QP3 have stayed below 1 ms of traffic for 1 s. -/
def mirSplitLeave (d : Dev) : Dev :=
  match d.mir.quiet with
  | some t => if d.mir.state = 2 ∧ t + 10 ^ 9 ≤ d.now then (d.sendSplit false).setSplit false else d
  | none => d

/-- MIR_SPLIT_RX (R326): the partner enters or leaves split mode. -/
def mirSplitRx (port : Nat) (b : Bytes) (d : Dev) : Dev :=
  d.mirCtl port 0x06 1 b (fun _ => 0) (fun m d =>
    let on := bitOf (bw m.pay 0) 0
    if (on ∧ d.mir.state = 1) ∨ (¬ on ∧ d.mir.state = 2) then d.setSplit on else d)

/-! ## Queue pairs (R310, R312) -/

/-- MIR_FOREIGN_PACKET (R312): anything the port does not accept is dropped and counted. -/
def mirForeignPacket (port : Nat) (d : Dev) : Dev := if d.mirOn port then d.mirDrop else d

/-- MIR_QP_REESTABLISH (R310, R314): a queue pair that entered the error state here, by a SEQ gap, or on either side by exhausted retries
or the partner's SEQ gap, starts again on its link with SEQ and PSN 0; the messages queued on it, and unit fragments in progress on QP1,
are lost. -/
def mirQpReestablish (port q : Nat) (d : Dev) : Dev :=
  if !(d.link port).up then d
  else
    let lost (own : Nat) : Bool := q == 1 && d.linkFor (own % 2) == some port
    let p := (d.link port).qps.getD q QPair.reset
    let d := d.modLink port (fun l => { l with qps := l.qps.setIfInBounds q { QPair.reset with rate := p.rate } })
    let d := d.dropRxs lost
    if q = 1 then { d with mir := { d.mir with rxSeq := d.mir.rxSeq.filter (fun r => !lost r.1) } } else d

/-- MIR_CNP_RX (chapter 13, transport table): a CNP halves the queue pair's rate. -/
def mirCnpRx (port q : Nat) (d : Dev) : Dev :=
  (d.modLink port (fun l =>
    let p := l.qps.getD q QPair.reset
    { l with qps := l.qps.setIfInBounds q { p with rate := p.rate / 2 } })).count cMirCnp

/-- MIR_RATE_RESTORE (chapter 13, transport table): 55 µs without CNP restore 5 % of line rate. -/
def mirRateRestore (port q : Nat) (d : Dev) : Dev :=
  d.modLink port (fun l =>
    let p := l.qps.getD q QPair.reset
    { l with qps := l.qps.setIfInBounds q { p with rate := Nat.min 10000 (p.rate + 500) } })

/-! ## Forwarding (R124, R163, R313) -/

/-- Bytes of a landed unit's data in its sheet: raw payload and parsed output, as the record places them. -/
def unitBytes (r : Vector DW 16) : Nat × Nat :=
  let w (k : Nat) : Nat := (r.getD k 0).toNat
  let kind := w 0 / 2 ^ 8 % 2 ^ 8
  let parsed := if kind = 1 then 16 * w 12 else if kind = 2 then 40 * w 12 else if w 11 = 0xFFFFFFFF then 0 else 64
  let stop := if w 11 = 0xFFFFFFFF then w 10 + w 8 else w 11 + parsed
  (w 10, stop - w 10)

/-- Data bytes a UNIT fragment carries at most. -/
abbrev fragMax := 2 ^ 20 - 128

/-- Words that leave through an edge of the device are decoded (R331, R334): corrections counted, uncorrectable words counted
and reported; whether one was unusable. -/
def Dev.edgeDecode (d : Dev) (i off n : Nat) : Dev × Bool :=
  let r := d.eccHome i off n 0 none
  (r.1, r.2.2)

/-- Send a landed unit on QP1 as UNIT fragments (R313); a unit with an unusable word is not forwarded (R334). -/
def Dev.sendUnit (d : Dev) (u : LUnit) : Dev :=
  let (off, n) := unitBytes u.record
  let (d, bad) := d.edgeDecode u.sheet off n
  if bad then d else
  let data := d.plainRead u.sheet off n
  let arrival := (u.record.getD 2 0).toNat + 2 ^ 32 * (u.record.getD 3 0).toNat
  let d := (List.range (Nat.max 1 (cdiv n fragMax))).foldl (fun d k =>
    let b := (data.drop (k * fragMax)).take fragMax
    let sub := bslice (toLe u.sensor 4 ++ toLe n 4 ++ toLe (k * fragMax) 4 ++ le32 (crc32c b)) 0 64
    d.mirData 1 (u.sensor % 2) 0x10 arrival (sub ++ leWords u.record.toList ++ b)) d
  d.count cMirFwd

/-- Send one plough record (R163). -/
def Dev.sendPlough (d : Dev) (imu : Nat) (b : Bytes) : Dev :=
  d.mirData 1 ((0x30 + imu) % 2) 0x11 (recStamp b) (bslice (toLe imu 4 ++ toLe 1 4) 0 64 ++ b)

/-- Nanoseconds a unit takes on the link that carries it. -/
def Dev.wireNs (d : Dev) (s n : Nat) : Nat :=
  match d.linkFor (s % 2) with
  | some m => ((d.link m).qps.getD 1 QPair.reset).wireNs n
  | none => 0

/-- Drain the forwarding queues while the mirror is UP: plough records, and the oldest unit once its wire time has passed. -/
def Dev.drainForward (d : Dev) : Dev :=
  if d.mir.state ≠ 1 then d
  else
    let recs := d.mir.plgFwd
    let d := recs.foldl (fun d p => d.sendPlough p.1 p.2) { d with mir := { d.mir with plgFwd := [] } }
    match d.mir.fwd with
    | [] => d
    | w :: rest =>
      match Tab.get? d.sns.units w.unit with
      | none => { d with mir := { d.mir with fwd := rest } }
      | some u =>
        if w.since + d.wireNs u.sensor (unitBytes u.record).2 ≤ d.now then ({ d with mir := { d.mir with fwd := rest } }).sendUnit u
        else d

/-! ## Receiving forwarded units (R124, R125, R313) -/

/-- A fragment of forwarded data failed its CRC (R313, R337): the unit is discarded and counted. -/
def Dev.mirCrcBad (d : Dev) (port q : Nat) (seq : BitVec 16) (want got : DW) : Dev :=
  ((d.count cMirCrc).crcMismatch (4 + port) 1 want got).event { code := 0xBA, d4 := dwN (q + port * 4), d5 := dwN seq.toNat }

/-- Take the landing sheet of a forwarded unit at its first fragment (R313): a camera's whole sheet, or its place in the
sensor's current one. -/
def Dev.placeForward (d : Dev) (s : Nat) (rcd : Bytes) (total : Nat) : Option (Nat × Nat × Dev) :=
  if d.slotHeld s then none
  else if bnat rcd 1 1 = 0 then (d.takeLanding total).map (fun p => (p.1, 0, p.2))
  else (d.packUnit s total 0).map (fun p => (p.1, p.2.1, p.2.2.2))

/-- A forwarded unit is dropped: counted for the forwarded ID (R124, R313). -/
def Dev.dropForward (d : Dev) (s : Nat) (rcd : Bytes) : Dev :=
  (d.dropUnit s (bw rcd 1)).noteMapped s (bnat rcd 24 8)

/-- Land a complete forwarded unit (R124, R313): SHEET and offsets are the receiver's, FORWARDED is set, the rest is the
sender's. -/
def Dev.landForward (d : Dev) (s : Nat) (u : RxUnit) : Dev :=
  let r := u.record
  let raw := (bw r 10).toNat
  let shift (k : Nat) : DW := if (bw r k).toNat = 0xFFFFFFFF then bw r k else dwN (u.off + ((bw r k).toNat - raw))
  let flags := bits (bw r 0) 22 16 ||| aForwarded
  let w (k : Nat) : DW :=
    if k = 0 then dwN (s + bits (bw r 0) 15 8 * 2 ^ 8 + flags * 2 ^ 16) else if k = 10 then dwN u.off else if k = 11 then shift 11
    else bw r k
  let d := d.rawWrite u.sheet u.off u.data
  d.putUnit s (Vector.ofFn (fun k => w k.val)) (bw r 1).toNat (bnat r 24 8) flags u.sheet

/-- Units a forwarded unit's SEQ shows that the partner landed and did not forward (R334): those between it and the one before it, less
the units its own record counts as dropped (log 100). -/
def Dev.forwardGap (d : Dev) (own : Nat) (rcd : Bytes) : Dev :=
  let seq := bw rcd 1
  let d := match Tab.get? d.mir.rxSeq own with
    | some last =>
      let n := (seq - last).toNat - 1 - (bw rcd 13).toNat
      if n = 0 ∨ seq.toNat ≤ last.toNat then d else d.dropUnit (own + 128) (last + 1) n
    | none => d
  { d with mir := { d.mir with rxSeq := Tab.set d.mir.rxSeq own seq } }

/-- The first fragment of a forwarded unit opens it, with its place in a landing sheet or dropped. -/
def Dev.openRx (d : Dev) (own total : Nat) (rcd : Bytes) : Dev :=
  let d := (d.dropRx own).forwardGap own rcd
  let mk (dropped : Bool) (sh o : Nat) : RxUnit :=
    { sensor := own, record := rcd, total := total, data := [], dropped := dropped, sheet := sh, off := o }
  let put (d : Dev) (u : RxUnit) : Dev := { d with mir := { d.mir with rx := Tab.set d.mir.rx own u } }
  match d.placeForward (own + 128) rcd total with
  | some (sh, o, d) => put d (mk false sh o)
  | none => put (d.dropForward (own + 128) rcd) (mk true 0 0)

/-- MIR_UNIT_RX (R124, R125, R313): a fragment of a forwarded unit. A first fragment opens the unit, the last one lands it; a
CRC mismatch or a fragment out of order discards it. While the sensor's entry has EN = 0 a unit is dropped and counted once. -/
def mirUnitRx (port : Nat) (b : Bytes) (d : Dev) : Dev :=
  let dataLen (m : Msg) : Nat := Nat.min (64 * m.len - 128) ((bw m.pay 1).toNat - (bw m.pay 2).toNat)
  d.mirRx port 1 0x10 b (fun m => decide (2 ≤ m.len ∧ m.len ≤ 16384) && m.len == 2 + cdiv (dataLen m) 64) (fun m d =>
    let own := bits (bw m.pay 0) 7 0
    let s := own + 128
    let total := (bw m.pay 1).toNat
    let off := (bw m.pay 2).toNat
    let rcd := bslice m.pay 64 64
    let data := (m.pay.drop 128).take (dataLen m)
    if ¬ ownSensor own then d.mirDrop
    else if ¬ d.snsOn s then
      let first : Bool := off = 0 || (Tab.get? d.mir.rx own).isSome
      let d := d.dropRx own
      if first then { d with mir := { d.mir with rxSeq := Tab.del d.mir.rxSeq own } }.mirDrop else d
    else
      let d := if off = 0 then d.openRx own total rcd else d
      match Tab.get? d.mir.rx own with
      | none => d
      | some u =>
        if crc32c data ≠ bw m.pay 3 then
          let d := (d.mirCrcBad port 1 m.seq (bw m.pay 3) (crc32c data)).dropRx own
          if u.dropped then d else d.dropForward s rcd
        else if u.data.length ≠ off then d.dropRx own
        else
          let u := { u with data := u.data ++ data }
          if u.data.length < total then { d with mir := { d.mir with rx := Tab.set d.mir.rx own u } }
          else
            let d := { d with mir := { d.mir with rx := Tab.del d.mir.rx own } }
            if u.dropped then d else d.landForward s u)

/-- MIR_PLOUGH_RX (R163): forwarded plough records go unchanged into the log of the forwarded IMU. -/
def mirPloughRx (port : Nat) (b : Bytes) (d : Dev) : Dev :=
  d.mirRx port 1 0x11 b (fun m => decide (1 ≤ m.len) && m.len == 1 + cdiv (16 * (bw m.pay 1).toNat) 64) (fun m d =>
    let imu := bits (bw m.pay 0) 1 0
    (List.range (bw m.pay 1).toNat).foldl (fun d k => d.logWrite (4 + imu) (bslice m.pay (64 + 16 * k) 16)) d)

end Sys2Proof.Machine
end

