-- ==== Sys2Proof/Machine/MirSync.lean ====
section
/-! DEFINITION. Tracked state of the mirrored pair: PLAN and SCHED (R304, R327, R328), deltas and digests (R315–R317),
comparison, line repair and bulk resync (R318–R323), MIR_TRACK and MIR_RESYNC. -/

namespace Sys2Proof.Machine

/-! ## Tracked lines -/

/-- The sheets a slot tracks with their lines, ascending by INDEX; a map header stands for itself and every region but CACHE
(R315). -/
def Dev.trackedSegs (d : Dev) (slot : Nat) : List (DW × Nat) :=
  let hs := (d.mslot slot).tracked.flatMap (fun h =>
    match Tab.get? d.maps (shIdx h) with
    | some m => h :: m.regions.filter (fun r => r != m.hCache)
    | none => [h])
  (sortBy (fun a b => decide (shIdx a ≤ shIdx b)) hs).map (fun h => (h, cdiv (d.sheet (shIdx h)).size 64))

/-- Line `n` of some segments. -/
def lineAt : List (DW × Nat) → Nat → Option (DW × Nat)
  | [], _ => none
  | (h, k) :: t, n => if n < k then some (h, n) else lineAt t (n - k)

/-- Lines of some segments. -/
def segLines (l : List (DW × Nat)) : Nat := sumBy (·.2) l

/-- Same line of the same sheet. -/
def DeltaRec.same (a b : DeltaRec) : Bool := a.sheet == b.sheet && a.offset == b.offset

/-- The records of one list whose line is absent from another. -/
def absentFrom (l other : List DeltaRec) : List DeltaRec := l.filter (fun r => !other.any r.same)

/-- An 80-byte record. -/
def DeltaRec.bytes (r : DeltaRec) : Bytes := le32 r.sheet ++ toLe r.stage 4 ++ toLe r.offset 8 ++ bslice r.data 0 64

/-- The record in 80 bytes. -/
def DeltaRec.parse (b : Bytes) : DeltaRec := { sheet := bw b 0, stage := bits (bw b 1) 10 0, offset := bnat b 8 8, data := bslice b 16 64 }

/-- The records of a payload of a known number. -/
def parseRecs (b : Bytes) (n : Nat) : List DeltaRec := (List.range n).map (fun k => DeltaRec.parse (bslice b (80 * k) 80))

/-- Canonical order: STAGE, SHEET INDEX, OFFSET (R316). -/
def recLe (a b : DeltaRec) : Bool :=
  decide (a.stage < b.stage ∨ (a.stage = b.stage ∧ (shIdx a.sheet < shIdx b.sheet ∨
    (shIdx a.sheet = shIdx b.sheet ∧ a.offset ≤ b.offset))))

/-- The canonical delta stream (R316). -/
def deltaStream (period slot : Nat) (l : List DeltaRec) : Bytes :=
  toLe period 8 ++ toLe slot 4 ++ toLe 0 4 ++ l.flatMap DeltaRec.bytes

/-- The line of a tracked sheet as it stands. -/
def Dev.lineNow (d : Dev) (h : DW) (line : Nat) : DeltaRec :=
  { sheet := h, stage := 0, offset := 64 * line, data := d.rawRead (shIdx h) (64 * line) 64 }

/-- Write a received line into a tracked sheet or region; a copy of the sheet is no longer its content. A map follows its header. -/
def Dev.applyLine (d : Dev) (slot : Nat) (r : DeltaRec) : Dev :=
  if !(d.trackedSegs slot).any (fun p => p.1 == r.sheet) then d
  else
    let i := shIdx r.sheet
    match d.regionOf i with
    | some (k, h, m) => { d with maps := Tab.set d.maps k (m.regionWrite h r.offset r.data) }
    | none =>
      let d := (d.rawWrite i r.offset (r.data.take ((d.sheet i).size - r.offset))).invalidate i
      match Tab.get? d.maps i with
      | some m => { d with maps := Tab.set d.maps i (m.ofHeader (d.rawRead i 0 headLen)) }
      | none => d

/-! ## Slot events and stale traffic (R328) -/

/-- An event that names a slot goes to the ring of its arming context. -/
def Dev.slotEvent (d : Dev) (slot code d4 : Nat) (d5 d6 : DW := 0) : Dev :=
  d.event { code := code, ctx := (Tab.get? d.plans slot).map (·.ctx), d4 := dwN (slot + d4), d5 := d5, d6 := d6 }

/-- A message names the partner's latest armed PLAN of the slot (R328, log 30). -/
def Dev.fromPeer (d : Dev) (slot : Nat) (w : DW) : Bool :=
  match (d.mslot slot).peer with
  | some p => p.armed && p.ctx == bits w 13 8 && p.gen.toNat == bits w 23 16
  | none => false

/-- An armed mirrored plan of a slot. -/
def Dev.mplan (d : Dev) (slot : Nat) : Option Plan := (Tab.get? d.plans slot).filter (·.mirrored)

/-! ## Resynchronisation -/

/-- The adopter POLICY names, given the FAULT bits of recto and verso (R319): 0 none, 1 recto, 2 verso. -/
def Dev.adopterOf (d : Dev) (recto verso : Bool) : Nat :=
  let p := d.regF 0x14004 1 0
  if p = 1 then 2 else if p = 2 then 1 else if p = 3 then 0
  else if recto && verso then 0 else if recto then 1 else 2

/-- This device is the adopter named by a code. -/
def Dev.isAdopter (d : Dev) (who : Nat) : Bool := who == (if d.mir.verso then 2 else 1)

/-- RESYNC on QP0: a request with its adopter, or done (R323). -/
def Dev.sendResync (d : Dev) (slot who : Nat) (request : Bool) : Dev :=
  match d.mplan slot with
  | none => d
  | some p =>
    d.mirControl 0x07 (p.epoch.toNat + p.next) []
      (toLe (slotWord slot p.ctx p.ctxGen.toNat false + who * 16 + b2n request * 64) 4)

/-- The adopter code of a running resync. -/
def Dev.adopterNow (d : Dev) (slot : Nat) : Nat :=
  if (d.mslot slot).adopt = d.mir.verso then 2 else 1

/-- The period number of the next firing of a slot, and of its last one. -/
def Plan.nextPeriod (p : Plan) : Nat := p.epoch.toNat + p.next
def Plan.lastPeriod (p : Plan) : Option Nat := if p.next = 0 then none else some (p.nextPeriod - 1)

/-- This device's own DIGEST and delta of a period, and the partner's. -/
def MirSlot.ownOf (m : MirSlot) (k : Nat) : Option (Dig × List DeltaRec) := m.owns.find? (fun p => p.1.period.toNat == k)
def MirSlot.peerDig (m : MirSlot) (k : Nat) : Option Dig := m.peerDigs.find? (fun p => p.period.toNat == k)
def MirSlot.peerDelta (m : MirSlot) (k : Nat) : List DeltaRec := ((m.theirs.find? (fun p => p.1 == k)).map (·.2)).getD []
/-- FILL lines received for a period. -/
def MirSlot.fillOf (m : MirSlot) (k : Nat) : List DeltaRec := (m.fill.filter (fun p => p.1 == k)).map (·.2)

/-- Periods of which deltas and DIGESTs are kept for a partner that is behind (log 104). -/
abbrev mirKeep := 4

/-- Start a bulk resync of a slot from a period on (R321). -/
def Dev.startBulk (d : Dev) (slot who since : Nat) (owner : Option Nat) : Dev :=
  d.modSlot slot (fun m => { m with
    sync := .bulk
    adopt := d.isAdopter who
    bulk := some { since := since, done := none, pos := 0, lines := 0, doneSending := false, owner := owner, overridden := false }
    fill := m.fill.filter (fun p => decide (since ≤ p.1))
    fillFor := if (m.ownOf since).isSome then some (BitVec.ofNat 64 since) else none
    fillEnd := false
    resume := false })

/-- A VOID sheet becomes usable again with the content it has. -/
def Sheet.mend (s : Sheet) : Sheet := { s with void := .done, tok := if s.tok = .void then .set else s.tok }

/-- After a resync the VOID headers of the slot's tracked maps are usable again (R269). -/
def Dev.mapsUsable (d : Dev) (slot : Nat) : Dev :=
  (d.mslot slot).tracked.foldl (fun d h =>
    if (Tab.get? d.maps (shIdx h)).isSome && (d.sheetOf h).isSome then d.modSheet (shIdx h) Sheet.mend else d) d

/-- A bulk copy is complete (R321, R323): SYNCED, MIR_RESYNCED, and every MIR_RESYNC of the slot completes. -/
def Dev.bulkDone (d : Dev) (slot : Nat) : Dev :=
  match (d.mslot slot).bulk with
  | none => d
  | some b =>
    let adopt := (d.mslot slot).adopt
    let d := d.modSlot slot (fun m => { m.endSync .synced with wasDiv := false })
    let d := if adopt then d.mapsUsable slot else d
    let d := (d.count cMirBulk).slotEvent slot 0xB5 16 (if adopt then dwN b.lines else 0)
    (d.descs.filter (fun x => match x.await_ with | .resync s => s == slot | _ => false)).foldl
      (fun d x => d.endDesc x.id { st := .done, r4 := dwN b.lines, r5 := dwN (b2n b.overridden) }) d

/-- A line repair is complete (R320). -/
def Dev.repairDone (d : Dev) (slot lines : Nat) : Dev :=
  let adopt := (d.mslot slot).adopt
  let d := d.modSlot slot (fun m => m.endSync .synced)
  let d := if adopt then d.mapsUsable slot else d
  (d.count cMirRepair).slotEvent slot 0xB5 0 (dwN lines)

/-- Records a FILL message of at most 1 MiB can carry into a staging window of some bytes. -/
def fillMax (window : Nat) : Nat := Nat.min 13107 ((window - 32) / 64 * 64 / 80)

/-- Write one FILL message into the partner's staging window with RDMA WRITE, after the one before it, and from the start of the window
where it would not fit (R320, log 105). -/
def Dev.putFill (d : Dev) (period : Nat) (b : Bytes) : Dev :=
  match (d.linkFor 1).bind (fun m => (d.link m).peer.map (fun p => (m, p))) with
  | none => d
  | some (m, p) =>
    let n := 32 + alignUp b.length 64
    let at_ := if d.mir.fillAt + n ≤ p.bytes.toNat then d.mir.fillAt else 0
    let d := d.mirPut m 3 0x30 period [] b (fun qp msg =>
      .mirrorWrite m (mirQpn 3) qp.psn p.rkey (p.base + BitVec.ofNat 64 at_) (dwN (at_ / 64)) msg)
    { d with mir := { d.mir with fillAt := alignUp (at_ + n) 64 } }

/-- Send records as FILL messages of a period (R320). -/
def Dev.sendFill (d : Dev) (period : Nat) (l : List DeltaRec) : Dev :=
  let window := (((d.linkFor 1).bind (fun m => (d.link m).peer)).map (fun p => p.bytes.toNat)).getD 0
  let n := fillMax window
  if n = 0 then d
  else (List.range (cdiv l.length n)).foldl (fun d k => d.putFill period (((l.drop (n * k)).take n).flatMap DeltaRec.bytes)) d

/-- A resync whose pieces cannot complete starts over as a bulk resync from the next period, of which the partner is told
(R320–R322). -/
def Dev.toBulk (d : Dev) (slot : Nat) : Dev :=
  match d.mplan slot with
  | none => d
  | some p =>
    let who := d.adopterNow slot
    let old := (d.mslot slot).bulk
    let d := (d.startBulk slot who p.nextPeriod (old.bind (·.owner))).sendResync slot who true
    d.modSlot slot (fun m => { m with bulk := m.bulk.map (fun b => { b with overridden := (old.map (·.overridden)).getD false }) })

/-- The adopter takes the bulk lines of a period: in sequence they advance the copy, which ends with the last line; a gap among them
restarts it (R321). -/
def Dev.takeBulk (d : Dev) (slot k : Nat) (l : List DeltaRec) : Dev :=
  let segs := d.trackedSegs slot
  let start := ((d.mslot slot).bulk.map (·.pos)).getD 0
  let inOrder : Bool := l.zipIdx.all (fun r =>
    (lineAt segs (start + r.2)).map (fun p => (p.1, 64 * p.2)) == some (r.1.sheet, r.1.offset))
  if !inOrder then d.toBulk slot
  else
    let d := l.foldl (fun d r => d.applyLine slot r) d
    let d := d.modSlot slot (fun m => { m with bulk := m.bulk.map (fun b =>
      { b with pos := b.pos + l.length, lines := b.lines + l.length, done := some k }) })
    if segLines segs ≤ start + l.length then (d.sendResync slot (d.adopterNow slot) false).bulkDone slot else d

/-- The partner's delta of a period is complete: all records its DIGEST counts have arrived. -/
def MirSlot.theirsDone (m : MirSlot) (k : Nat) : Bool :=
  match m.peerDig k with
  | some p => p.count.toNat == (m.peerDelta k).length
  | none => false

/-- Carry a repair or one period of a bulk resync as far as what has arrived allows (R320, R321): the source sends the
adopter's lines it did not write; the adopter applies the source's delta and then those lines. -/
def Dev.advanceSync (d : Dev) (slot : Nat) : Dev :=
  let m := d.mslot slot
  match m.fillFor with
  | none => d
  | some k =>
    match m.ownOf k.toNat with
    | none => d
    | some (_, own) =>
      if m.fillEnd ∨ ¬ m.theirsDone k.toNat ∨ (m.sync ≠ .repair ∧ m.sync ≠ .bulk) then d
      else
        let theirs := m.peerDelta k.toNat
        if !m.adopt then
          let d := d.sendFill k.toNat ((absentFrom theirs own).map (fun r => d.lineNow r.sheet (r.offset / 64)))
          let d := d.modSlot slot (fun m => { m with fillEnd := true })
          if m.sync = .repair then d.repairDone slot 0 else d
        else
          let need := absentFrom own theirs
          let fill := m.fillOf k.toNat
          if !(absentFrom need fill).isEmpty then d
          else
            let mine := fill.take need.length
            let rest := fill.drop need.length
            let d := (theirs ++ mine).foldl (fun d r => d.applyLine slot r) d
            let d := d.modSlot slot (fun m => { m with fillEnd := true })
            if m.sync = .repair then d.repairDone slot (theirs.length + mine.length)
            else if rest.isEmpty ∧ (m.bulk.map (·.pos)).getD 0 < segLines (d.trackedSegs slot) then d
            else d.takeBulk slot k.toNat rest

/-- Start the line repair of a period (R320). -/
def Dev.startRepair (d : Dev) (slot who : Nat) (k : BitVec 64) : Dev :=
  (d.modSlot slot (fun m => { m with
    sync := .repair
    adopt := d.isAdopter who
    fill := m.fill.filter (fun p => decide (k.toNat ≤ p.1))
    fillFor := some k
    fillEnd := false })).advanceSync slot

/-- This device's part of the running repair, or of the last firing's period of a bulk resync, is done, so the next firing need not be held
back (R320, R321). -/
def Dev.syncReady (d : Dev) (slot : Nat) : Bool :=
  let m := d.mslot slot
  match m.sync, m.bulk, (d.mplan slot).bind Plan.lastPeriod with
  | .repair, _, _ => false
  | .bulk, some b, some k => decide (k < b.since) || b.done == some k
  | _, _, _ => true

/-- The bound of R320 has passed for the pieces of a period. -/
def Dev.repairExpire (d : Dev) (slot : Nat) : Dev := if d.syncReady slot then d else d.toBulk slot

/-! ## Digests (R316, R317, R319) -/

/-- Compare both digests of a period once each is held (R319, R322, R326). -/
def Dev.compareDig (d : Dev) (slot k : Nat) : Dev :=
  let m := d.mslot slot
  match (m.ownOf k).map (·.1), m.peerDig k with
  | some a, some b =>
    if m.compared = some a.period ∨ m.sync = .unpaired ∨ ¬ d.mirUp then d
    else
      let d := d.modSlot slot (fun m => { m with compared := some a.period })
      let (rf, vf) := if d.mir.verso then (b.fault, a.fault) else (a.fault, b.fault)
      let who := d.adopterOf rf vf
      let start (d : Dev) : Dev :=
        match m.sync with
        | .synced => if who = 0 then d.modSlot slot (fun m => { m with sync := .diverged }) else d.startRepair slot who a.period
        | .repair => d.toBulk slot
        | _ => d
      if a.digest = b.digest ∧ a.count = b.count ∧ a.bytes = b.bytes then
        let d := if d.mir.state = 2 then d else d.modSlot slot (fun m => { m with stale := false })
        if d.mir.state = 2 ∧ m.sync = .synced ∧ who ≠ 0 then d.startRepair slot who a.period else d
      else
        let p := a.period
        let d := d.slotEvent slot 0xB4 (who * 16) (dwN p.toNat) (dwN (p.toNat / 2 ^ 32))
        let d := if d.regF 0x14004 1 0 = 0 ∧ rf ∧ vf then d.slotEvent slot 0xB9 0 (dwN p.toNat) (dwN (p.toNat / 2 ^ 32)) else d
        start d
  | _, _ => d

/-- DELTA messages of a firing (R317): up to 13,106 records each, behind a sub-header. -/
def Dev.sendDelta (d : Dev) (slot : Nat) (p : Plan) (k : BitVec 64) (l : List DeltaRec) : Dev :=
  (List.range (Nat.max 1 (cdiv l.length 13106))).foldl (fun d i =>
    let rs := (l.drop (13106 * i)).take 13106
    let b := rs.flatMap DeltaRec.bytes
    let sub := bslice (toLe (slotWord slot p.ctx p.ctxGen.toNat false) 4 ++ le64 k ++ toLe (13106 * i) 4 ++ toLe rs.length 4 ++
      le32 (crc32c b)) 0 64
    d.mirData 2 0 0x20 k.toNat (sub ++ b)) d

/-- DIGEST_FINAL (R304, R316, R317, R319, R373): the digest of the last firing is final; DELTA, DIGEST and SCHED go out, and
the digests are compared. -/
def digestFinal (slot : Nat) (d : Dev) : Dev :=
  let m := d.mslot slot
  match d.mplan slot, m.unsent with
  | some p, some (k, f) =>
    let fault := f || d.sec.tampered
    let dg : Dig := { period := k, digest := sha3 (deltaStream k.toNat slot m.own), count := dwN m.own.length,
                      bytes := BitVec.ofNat 64 (80 * m.own.length), fault := fault }
    let d := d.modSlot slot (fun m =>
      let m := { m with owns := ((dg, m.own) :: m.owns).take mirKeep, unsent := none }
      if m.sync = .bulk ∧ (m.bulk.map (fun b => decide (b.since ≤ k.toNat))).getD false then
        { m with fill := m.fill.filter (fun p => decide (k.toNat ≤ p.1)), fillFor := some k, fillEnd := false }
      else m)
    let d :=
      if !d.mirUp then d
      else
        let d := if m.sync = .unpaired then d else d.sendDelta slot p k m.own
        let db := Digest.bytes dg.digest
        let w := slotWord slot p.ctx p.ctxGen.toNat
        let d := d.mirControl 0x05 k.toNat (db.take 16) (toLe (w fault) 4 ++ le32 dg.count ++ le64 dg.bytes ++ db.drop 16)
        d.mirControl 0x04 k.toNat [] (toLe (w false) 4 ++ toLe p.debt 4)
    (d.compareDig slot k.toNat).advanceSync slot
  | _, _ => d

/-- What a completed firing leaves for its digest (R316): the canonical list of its lines, and FAULT. A line with an unusable
word has DATA zero and sets FAULT (R334). -/
def Dev.firingDelta (d : Dev) (slot : Nat) (period : BitVec 64) (fault : Bool) : Dev :=
  let r := (sortBy recLe (d.mslot slot).cur).foldl (fun (acc : Dev × List DeltaRec × Bool) x =>
    let (d, bad) := acc.1.edgeDecode (shIdx x.sheet) x.offset 64
    (d, acc.2.1 ++ [if bad then { x with data := List.replicate 64 0 } else x], acc.2.2 || bad)) (d, [], fault)
  r.1.modSlot slot (fun m => { m with own := r.2.1, cur := [], lines := [], unsent := some (period, r.2.2) })

/-! ## Messages that name a slot -/

/-- Adopter of the resync that follows a loss (R325). -/
def Dev.resumeAdopter (d : Dev) (slot : Nat) : Nat :=
  d.adopterOf (d.mslot slot).lossFault false

/-- The adopter a MIR_RESYNC names; under POLICY 3 with DIR 0 it is verso (R323, log 30). -/
def Dev.resyncWho (d : Dev) (w : DescWords) : Nat :=
  let me := if d.mir.verso then 2 else 1
  match w.f 6 5 4 with
  | 1 => me
  | 2 => 3 - me
  | _ => let a := d.adopterOf false false; if a = 0 then 2 else a

/-- A MIR_RESYNC in progress starts the bulk resync of its slot and tells the partner. An UNPAIRED slot takes part in none: it starts once
the slot pairs (R323, R327). -/
def Dev.askResync (d : Dev) (slot : Nat) (x : Desc) : Dev :=
  match d.mplan slot with
  | some p =>
    if (d.mslot slot).sync = .unpaired then d
    else (d.startBulk slot (d.resyncWho x.w) p.nextPeriod (some x.id)).sendResync slot (d.resyncWho x.w) true
  | none => d

/-- Pair or unpair an armed mirrored slot by the partner's PLAN (R318, R325, R327). A slot that was DIVERGED is so again (R319). -/
def Dev.pairSlot (d : Dev) (slot : Nat) : Dev :=
  let m := d.mslot slot
  match d.mplan slot with
  | none => d
  | some p =>
    let apart (d : Dev) : Dev :=
      (d.modSlot slot (fun m => { m.endSync .unpaired with
        wasDiv := m.wasDiv || m.sync == .diverged || m.sync == .repair || m.sync == .bulk })).abortResync slot
    match m.peer with
    | some q =>
      if !q.armed then apart d
      else if m.ident ≠ some q.ident then (apart d).slotEvent slot 0xB7 0
      else if m.resume then
        let who := d.resumeAdopter slot
        if who = 0 then d.modSlot slot (fun m => { m with sync := .diverged, resume := false }) else d.startBulk slot who p.nextPeriod none
      else if m.sync = .unpaired then
        let d := d.modSlot slot (fun m => { m with sync := if m.wasDiv then .diverged else .synced })
        match d.descs.find? (fun x => match x.await_ with | .resync s => s == slot | _ => false) with
        | some x => d.askResync slot x
        | none => d
      else d
    | none => d.modSlot slot (fun m => { m with sync := .unpaired })

/-- MIR_PLAN_RX (R327): the partner's plan identity pairs or unpairs the slot. -/
def mirPlanRx (port : Nat) (b : Bytes) (d : Dev) : Dev :=
  d.mirCtl port 0x03 1 b (fun m => m.slot + 256 * b2n (bitOf (bw m.pay 0) 4)) (fun m d =>
    let w := bw m.pay 0
    let p : PeerPlan := { armed := bitOf w 4, ctx := bits w 13 8, gen := BitVec.ofNat 8 (bits w 23 16),
                          ident := BitVec.ofNat 256 (bnat m.pay 16 32) }
    let again : Bool := match (d.mslot m.slot).peer with
      | some q => q.ctx == p.ctx && q.gen == p.gen
      | none => false
    -- what an earlier plan of the partner sent is not kept for a new one (R328)
    let d := if again then d
      else
        let d := d.modSlot m.slot (fun s => { s with theirs := [], peerDigs := [], compared := none })
        match Tab.get? d.plans m.slot with
          | some q => { d with plans := Tab.set d.plans m.slot { q with peer := [] } }
          | none => d
    (d.modSlot m.slot (fun s => { s with peer := some p })).pairSlot m.slot)

/-- A control message accepted only for the partner's armed plan, else dropped and counted (R328). -/
def Dev.slotCtl (d : Dev) (port type : Nat) (b : Bytes) (f : Msg → Dev → Dev) : Dev :=
  d.mirCtl port type 1 b Msg.slot (fun m d => if d.fromPeer m.slot (bw m.pay 0) then f m d else d.count cMirStale)

/-- MIR_SCHED_RX (R304, R328): the partner's debt of a period, or a late message, discarded with SCH_SYNC_MISSED. -/
def mirSchedRx (port : Nat) (b : Bytes) (d : Dev) : Dev :=
  d.slotCtl port 0x04 b (fun m d =>
    match d.mplan m.slot with
    | none => d
    | some p =>
      if m.epoch.toNat + 1 < p.epoch.toNat + p.next then
        d.event { code := 0xA4, tag := p.tag, ctx := some p.ctx, d4 := dwN m.slot, d5 := dwN m.epoch.toNat }
      else
        let rest := p.peer.filter (fun q => q.1 != m.epoch)
        { d with plans := Tab.set d.plans m.slot { p with peer := rest ++ [(m.epoch, (bw m.pay 1).toNat)] } })

/-- MIR_DIGEST_RX (R319, R328). -/
def mirDigestRx (port : Nat) (b : Bytes) (d : Dev) : Dev :=
  d.slotCtl port 0x05 b (fun m d =>
    let dg : Dig := { period := m.epoch, digest := BitVec.ofNat 256 (leNat (m.dlo ++ bslice m.pay 16 16)), count := bw m.pay 1,
                      bytes := BitVec.ofNat 64 (bnat m.pay 8 8), fault := bitOf (bw m.pay 0) 4 }
    let d := d.modSlot m.slot (fun s => { s with peerDigs := (dg :: s.peerDigs.filter (fun q => q.period != m.epoch)).take mirKeep })
    (d.compareDig m.slot m.epoch.toNat).advanceSync m.slot)

/-- MIR_DELTA_RX (R317, R328): a batch of the partner's delta; a CRC mismatch loses it. -/
def mirDeltaRx (port : Nat) (b : Bytes) (d : Dev) : Dev :=
  d.mirRx port 2 0x20 b (fun m => decide (1 ≤ m.len) && m.len == 1 + cdiv (80 * (bw m.pay 4).toNat) 64) (fun m d =>
    let w := bw m.pay 0
    let slot := bits w 3 0
    let n := (bw m.pay 4).toNat
    let data := bslice m.pay 64 (80 * n)
    let k : BitVec 64 := BitVec.ofNat 64 (bnat m.pay 4 8)
    if !d.fromPeer slot w then d.count cMirStale
    else if crc32c data ≠ bw m.pay 5 then d.mirCrcBad port 2 m.seq (bw m.pay 5) (crc32c data)
    else
      let rs := parseRecs data n
      let first := (bw m.pay 3).toNat
      (d.modSlot slot (fun s =>
        let had := s.peerDelta k.toNat
        let rest := s.theirs.filter (fun p => p.1 != k.toNat)
        if first = 0 then { s with theirs := ((k.toNat, rs) :: rest).take mirKeep }
        else if first = had.length then { s with theirs := ((k.toNat, had ++ rs) :: rest).take mirKeep } else s)).advanceSync slot)

/-- A FILL payload is whole records, padded (R314, R320). -/
def fillLenOk (m : Msg) : Bool := decide (m.len ≤ 16384) && m.len == cdiv (80 * (64 * m.len / 80)) 64

/-- An armed mirrored slot takes part in adoptions and tracks every sheet of some lines. -/
def Dev.fillTakes (d : Dev) (rs : List DeltaRec) (s : Nat) : Bool :=
  let z := d.mslot s
  (d.mplan s).isSome && z.sync != .unpaired && (z.peer.map (·.armed)).getD false &&
    !((z.sync == .repair || z.sync == .bulk) && !z.adopt) && rs.all (fun r => (d.trackedSegs s).any (fun p => p.1 == r.sheet))

/-- A slot takes the FILL lines of a period (R320, R321): those of the running repair or bulk period carry it on, bulk lines that come in
time are applied, late ones restart the copy, and lines of a later period wait for it. -/
def Dev.slotFill (d : Dev) (s k : Nat) (rs : List DeltaRec) : Dev :=
  let z := d.mslot s
  let late : Bool := ((d.mplan s).map (·.running)).getD false
  if z.fillFor.map (·.toNat) = some k ∧ z.fillEnd then
    if z.sync ≠ .bulk then d else if late then d.toBulk s else d.takeBulk s k rs
  else if (z.fillFor.map (fun f => decide (k < f.toNat))).getD false then d
  else (d.modSlot s (fun z => { z with fill := z.fill ++ rs.map (fun r => (k, r)) })).advanceSync s

/-- MIR_FILL_RX (R320, R321, R328): lines written into the staging window are taken by the slot that tracks them (log 30). A write past
the window is dropped. -/
def mirFillRx (port : Nat) (imm : DW) (b : Bytes) (d : Dev) : Dev :=
  d.mirRx port 3 0x30 b fillLenOk (fun m d =>
    if Config.stagingBytes.toNat < 64 * imm.toNat + b.length then d.mirDrop
    else
      let d := { d with mir := { d.mir with staging := Mem.write d.mir.staging (64 * imm.toNat) b } }
      let rs := parseRecs m.pay (m.pay.length / 80)
      match (List.range 16).find? (d.fillTakes rs) with
      | none => d.count cMirStale
      | some s => d.slotFill s m.epoch.toNat rs)

/-- MIR_BULK_BUDGET_END (R321): the budget of the period has let the source read some next lines of its tracked sheets. -/
def mirBulkBudgetEnd (slot lines : Nat) (d : Dev) : Dev :=
  let m := d.mslot slot
  match d.mplan slot, m.bulk, m.fillFor with
  | some p, some b, some k =>
    if m.sync ≠ .bulk ∨ m.adopt ∨ ¬ m.fillEnd ∨ p.running ∨ ¬ d.mirUp ∨ b.done = some k.toNat then d
    else
      let segs := d.trackedSegs slot
      let n := Nat.min lines (segLines segs - b.pos)
      let rs := (List.range n).filterMap (fun i => (lineAt segs (b.pos + i)).map (fun q => d.lineNow q.1 q.2))
      let d := d.sendFill k.toNat rs
      d.modSlot slot (fun m => { m with
        bulk := some { b with done := some k.toNat, pos := b.pos + n, lines := b.lines + n, doneSending := decide (segLines segs ≤ b.pos + n) } })
  | _, _, _ => d

/-- MIR_RESYNC_RX (R323, R328): the partner asks for a bulk resync, or says that it is done. Requests that cross merge in
recto's direction. -/
def mirResyncRx (port : Nat) (b : Bytes) (d : Dev) : Dev :=
  d.slotCtl port 0x07 b (fun m d =>
    let w := bw m.pay 0
    let who := bits w 5 4
    let s := d.mslot m.slot
    match d.mplan m.slot with
    | none => d
    | some _ =>
      let since := m.epoch.toNat
      if s.sync = .unpaired then d
      else if bitOf w 6 then
        match s.bulk with
        | some b =>
          let start (d : Dev) : Dev := d.startBulk m.slot who (Nat.max b.since since) b.owner
          if who = d.adopterNow m.slot then (if b.since = since then d else start d)
          else if b.owner.isSome ∧ ¬ d.mir.verso then d
          else (start d).modSlot m.slot (fun s => { s with bulk := s.bulk.map (fun b => { b with overridden := b.owner.isSome }) })
        | none => d.startBulk m.slot who since none
      else if s.sync = .bulk ∧ ¬ s.adopt then d.bulkDone m.slot else d)

/-! ## MIR_TRACK and MIR_RESYNC (R315, R323) -/

/-- The checks of MIR_TRACK beyond R16, R17 and class. -/
def Dev.checkTrack (d : Dev) (c : Nat) (w : DescWords) : Option Status :=
  let slot := w.f 6 3 0
  let h := w.dw 7
  let m := d.mslot slot
  if w.f 6 31 5 ≠ 0 ∨ ¬ w.zero 8 15 ∨ (Tab.get? d.plans slot).isSome then some .refusedMalformed
  else match d.handleStatus h with
    | some st => some st
    | none =>
      let s := d.sheet (shIdx h)
      if !d.mayRead c (shIdx h) s then some .refusedPort
      else if bitOf (w.dw 6) 4 then none
      else if s.tier = 3 ∨ s.ribbon ∨ (m.tracked.length ≥ 64 ∧ ¬ m.tracked.contains h) then some .refusedMalformed else none

/-- MIR_TRACK adds or removes a tracked sheet. -/
def Dev.runTrack (d : Dev) (w : DescWords) : Dev :=
  d.modSlot (w.f 6 3 0) (fun m =>
    let rest := m.tracked.filter (fun t => t != w.dw 7)
    { m with tracked := if bitOf (w.dw 6) 4 then rest else rest ++ [w.dw 7] })

/-- The checks of MIR_RESYNC beyond R16, R17 and class. -/
def Dev.checkResync (d : Dev) (w : DescWords) : Option Status :=
  if w.f 6 31 6 ≠ 0 ∨ w.f 6 5 4 = 3 ∨ ¬ w.zero 7 15 ∨ (d.mplan (w.f 6 3 0)).isNone then some .refusedMalformed
  else if d.mir.state ≠ 1 then some .refusedDisabled else none

/-- MIR_RESYNC starts a bulk resync and tells the partner (R323). -/
def Dev.runResync (d : Dev) (x : Desc) : Dev := d.askResync (x.w.f 6 3 0) x

end Sys2Proof.Machine
end

