-- ==== Sys2Proof/Machine/PressCalc.lean ====
section
/-! DEFINITION. The arithmetic of the press: BFX32 blocks and XS64 scalars, exact then rounded once (R245–R247),
accumulation into an image, factorisation, substitution, the three methods and the dense kernels. -/

namespace Sys2Proof.Machine

/-! ## Elements -/

/-- An exact defining expression before its one rounding. -/
inductive Ex where
  | dy (a : Dy)
  | quo (a b : Dy)
  | root (a : Dy)
  deriving DecidableEq, Repr

/-- The largest mantissa. -/
def mantMax : Int := 2147483647

/-- Rounded to a multiple of 2^E; `none` for a quotient with divisor zero. -/
def Ex.round (x : Ex) (e : Int) : Option Int :=
  match x with
  | .dy a => some (a.round e)
  | .quo a b => if b.m = 0 then none else some (a.divRound b e)
  | .root a => some (a.sqrtRound e)

/-- The sign of the exact value; a quotient by zero takes the sign of its numerator. -/
def Ex.sign (x : Ex) : Int :=
  match x with
  | .dy a => a.m.sign
  | .quo a b => if b.m = 0 then a.m.sign else a.m.sign * b.m.sign
  | .root a => a.m.sign

/-- A stored element and whether it overflowed (R246). -/
def Ex.store (x : Ex) (e : Int) : Int × Bool :=
  match x.round e with
  | some v => if v.natAbs ≤ mantMax.toNat then (v, false) else (x.sign * mantMax, true)
  | none => (x.sign * mantMax, true)

/-- The value of an element of a block. -/
def Bfx.at (b : Bfx) (r c : Nat) : Dy := ⟨b.m.getD (r * b.cols + c) 0, b.exp⟩

/-- A zero block. -/
def Bfx.zero (e : Int) (r c : Nat) : Bfx := { exp := e, rows := r, cols := c, m := List.replicate (r * c) 0 }

/-- A block after its stores, with the raises it took and whether it saturated. -/
structure Stored where
  b   : Bfx
  ups : Nat
  sat : Bool
  deriving DecidableEq, Repr

/-- One pass at an exponent: the elements in order, each given those stored before it. -/
def bfxPass (e : Int) (rows cols : Nat) (order : List Nat) (f : Bfx → Nat → Ex) : Bfx × Bool :=
  order.foldl (fun (acc : Bfx × Bool) i =>
    let (v, o) := (f acc.1 i).store e
    ({ acc.1 with m := acc.1.m.set i v }, acc.2 || o)) (Bfx.zero e rows cols, false)

/-- Store a block under R246: a pass, and after an overflow below exponent 127 one more a step higher. -/
def bfxStore (e : Int) (rows cols : Nat) (order : List Nat) (f : Bfx → Nat → Ex) : Stored :=
  let (b, o) := bfxPass e rows cols order f
  if !o then { b := b, ups := 0, sat := false }
  else if e ≥ 127 then { b := b, ups := 0, sat := true }
  else
    let (b', o') := bfxPass (e + 1) rows cols order f
    { b := b', ups := 1, sat := o' }

/-- Store a block whose elements do not depend on one another. -/
def bfxOf (e : Int) (rows cols : Nat) (f : Nat → Nat → Ex) : Stored :=
  bfxStore e rows cols (List.range (rows * cols)) (fun _ i => f (i / cols) (i % cols))

/-! ## XS64 -/

/-- A normalised scalar (R245). -/
structure Xs where
  m : Int
  x : Int
  deriving DecidableEq, Repr

def Xs.dy (a : Xs) : Dy := ⟨a.m, a.x⟩

/-- Renormalise a rounded mantissa. -/
def Xs.norm (m x : Int) : Xs :=
  if m = 0 then ⟨0, 0⟩ else if m.natAbs ≥ 2 ^ 63 then ⟨m.sign * (2 ^ 62 : Nat), x + 1⟩ else ⟨m, x⟩

/-- The exponent that puts a positive value's leading bit at 62, from the leading bit of a dyadic. -/
def Dy.lead (a : Dy) : Int := a.e + (a.m.natAbs.log2 : Nat)

/-- A dyadic as XS64. -/
def Xs.ofDy (a : Dy) : Xs := if a.m = 0 then ⟨0, 0⟩ else let x := a.lead - 62; Xs.norm (a.round x) x

/-- A quotient as XS64; the divisor is not zero. -/
def Xs.quo (a b : Dy) : Xs :=
  if a.m = 0 then ⟨0, 0⟩ else
    let x := a.lead - b.lead - 63
    let q := a.divRound b x
    if q.natAbs ≥ 2 ^ 63 then Xs.norm (a.divRound b (x + 1)) (x + 1) else Xs.norm q x

/-- A square root as XS64. -/
def Xs.root (a : Dy) : Xs :=
  if a.m = 0 then ⟨0, 0⟩ else let x := a.lead.fdiv 2 - 62; Xs.norm (a.sqrtRound x) x

/-- Dot product of two blocks' elements, exact. -/
def bdot (a b : Bfx) : Dy := Dy.sum ((List.range (a.rows * a.cols)).map (fun i =>
  Dy.mul ⟨a.m.getD i 0, a.exp⟩ ⟨b.m.getD i 0, b.exp⟩))

/-- Dot product of two block vectors, exact. -/
def vdot (a b : List Bfx) : Dy := Dy.sum (List.zipWith bdot a b)

/-! ## Images -/

/-- Elimination position of a variable. -/
def PImage.pos (im : PImage) (v : Nat) : Option Nat := im.vars.findIdx? (fun p => p.var = v)

/-- Index of a block of the pattern. -/
def PImage.blk (im : PImage) (i j : Nat) : Option Nat := im.blks.findIdx? (fun b => b.i = i && b.j = j)

/-- Dimension at a position. -/
def PImage.dim (im : PImage) (i : Nat) : Nat := ((im.vars[i]?).map (·.dim)).getD 0

/-- The H block at an index. -/
def PImage.h (im : PImage) (k : Nat) : Bfx := ((im.blks[k]?).map (·.h)).getD (Bfx.zero 0 0 0)

/-- Running counts of a press descriptor. -/
structure PCnt where
  pivots : Nat
  first  : Option (Nat × Nat)
  sats   : Nat
  /-- first saturated block: index, kind (0 H, 1 L, 2 vector, 3 kernel output) -/
  satAt  : Option (Nat × Nat)
  ups    : Nat
  deriving DecidableEq, Repr

def PCnt.zero : PCnt := { pivots := 0, first := none, sats := 0, satAt := none, ups := 0 }

/-- Count one stored block. -/
def PCnt.stored (c : PCnt) (s : Stored) (ix kind : Nat) : PCnt :=
  { c with ups := c.ups + s.ups, sats := c.sats + b2n s.sat,
           satAt := if s.sat && c.satAt.isNone then some (ix, kind) else c.satAt }

/-- Round a block's prior content plus an exact contribution (R246, R251). -/
def bfxAdd (h : Bfx) (add : Nat → Nat → Dy) : Stored :=
  bfxOf h.exp h.rows h.cols (fun r c => .dy ((h.at r c).add (add r c)))

/-- One slot of a factor record: variable, dimension, Jacobian rows × dim row-major. -/
structure FSlot where
  var : Nat
  dim : Nat
  j   : List DW
  deriving DecidableEq, Repr

/-- One factor record: residual, slots, and CHI2 of its header. -/
structure FRec where
  e     : List DW
  chi2  : DW
  slots : List FSlot
  deriving DecidableEq, Repr

/-- An FP32 value as a dyadic; non-finite values are excluded before. -/
def fdy (w : DW) : Dy := ((fdec w).dy?).getD Dy.zero

/-- Why a record is skipped: 0 variable absent, 2 dimension, 1 block outside the pattern, 3 non-finite (R251). -/
def PImage.skips (im : PImage) (r : FRec) : Option Nat :=
  if r.slots.any (fun s => (im.pos s.var).isNone) then some 0
  else if r.slots.any (fun s => match im.pos s.var with | some i => im.dim i ≠ s.dim | none => true) then some 2
  else if r.slots.any (fun a => r.slots.any (fun b =>
      match im.pos a.var, im.pos b.var with
      | some i, some j => decide (j ≤ i) && (im.blk i j).isNone
      | _, _ => true)) then some 1
  else if (r.chi2 :: r.e ++ (r.slots.map (·.j)).flatten).any (fun w => !fisFinite w) then some 3
  else none

/-- Element (r, c) of J_aᵀJ_b. -/
def jtj (n : Nat) (a b : FSlot) (r c : Nat) : Dy :=
  Dy.sum ((List.range n).map (fun t => (fdy (a.j.getD (t * a.dim + r) 0)).mul (fdy (b.j.getD (t * b.dim + c) 0))))

/-- Element r of J_aᵀe. -/
def jte (e : List DW) (a : FSlot) (r : Nat) : Dy :=
  Dy.sum ((List.range e.length).map (fun t => (fdy (a.j.getD (t * a.dim + r) 0)).mul (fdy (e.getD t 0))))

/-- Apply one record that is not skipped, added or subtracted (R251). -/
def PImage.applyRec (im : PImage) (sub : Bool) (r : FRec) (c : PCnt) : PImage × PCnt :=
  let n := r.e.length
  let sg (d : Dy) : Dy := if sub then d.neg else d
  let posOf (s : FSlot) : Nat := (im.pos s.var).getD 0
  let (blks, c) := foldIdx (fun k (acc : List PBlk × PCnt) b =>
    let prs := (r.slots.map (fun x => (r.slots.filter (fun y => posOf x = b.i && posOf y = b.j)).map (fun y => (x, y)))).flatten
    if prs.isEmpty then (acc.1 ++ [b], acc.2) else
      let s := bfxAdd b.h (fun i j => sg (Dy.sum (prs.map (fun p =>
        if b.i = b.j ∧ i < j then jtj n p.1 p.2 j i else jtj n p.1 p.2 i j))))
      (acc.1 ++ [{ b with h := s.b }], acc.2.stored s k 0)) 0 ([], c) im.blks
  let (bs, c) := foldIdx (fun k (acc : List Bfx × PCnt) b =>
    let ss := r.slots.filter (fun x => posOf x = k)
    if ss.isEmpty then (acc.1 ++ [b], acc.2) else
      let s := bfxAdd b (fun i _ => sg (Dy.sum (ss.map (fun x => jte r.e x i))))
      (acc.1 ++ [s.b], acc.2.stored s k 0)) 0 ([], c) im.b
  ({ im with blks := blks, b := bs }, c)

/-- One block-list entry: row variable, column variable, b block?, block (R254). -/
structure BEntry where
  vi  : Nat
  vj  : Nat
  vec : Bool
  b   : Bfx
  deriving DecidableEq, Repr

/-- Why a block-list entry is skipped. -/
def PImage.skipsEntry (im : PImage) (x : BEntry) : Option Nat :=
  match im.pos x.vi with
  | none => some 0
  | some i =>
    if x.vec then (if x.b.rows ≠ im.dim i ∨ x.b.cols ≠ 1 then some 2 else none) else
      match im.pos x.vj with
      | none => some 0
      | some j =>
        if x.b.rows ≠ im.dim i ∨ x.b.cols ≠ im.dim j then some 2
        else if (im.blk (max i j) (min i j)).isNone then some 1 else none

/-- Apply one block-list entry that is not skipped. -/
def PImage.applyEntry (im : PImage) (sub : Bool) (x : BEntry) (c : PCnt) : PImage × PCnt :=
  let sg (d : Dy) : Dy := if sub then d.neg else d
  let i := (im.pos x.vi).getD 0
  if x.vec then
    let s := bfxAdd (im.b.getD i (Bfx.zero 0 0 0)) (fun r _ => sg (x.b.at r 0))
    ({ im with b := im.b.set i s.b }, c.stored s i 0)
  else
    let j := (im.pos x.vj).getD 0
    let el (r q : Nat) : Dy := if i < j then x.b.at q r else x.b.at r q
    match im.blk (max i j) (min i j) with
    | none => (im, c)
    | some k =>
      let s := bfxAdd (im.h k) (fun r q => sg (if i = j ∧ r < q then el q r else el r q))
      ({ im with blks := mapIf (fun b => b.i = max i j && b.j = min i j) (fun b => { b with h := s.b }) im.blks },
        c.stored s k 0)

/-- CLEAR of one variable (R253). -/
def PImage.clearVar (im : PImage) (i : Nat) : PImage :=
  { im with blks := mapIf (fun b => b.i = i || b.j = i) (fun b => { b with h := Bfx.zero b.h.exp b.h.rows b.h.cols }) im.blks,
            b := im.b.modify i (fun b => Bfx.zero b.exp b.rows b.cols) }

/-! ## Factorisation and substitution -/

/-- Solver settings of a descriptor. -/
structure PSet where
  tau    : Nat
  lambda : Nat
  lm     : Bool
  pcg    : Bool
  deriving DecidableEq, Repr

/-- The greatest diagonal element of a block. -/
def dmax (h : Bfx) : Dy :=
  match (List.range h.rows).map (fun r => h.at r r) with
  | [] => Dy.zero
  | a :: t => t.foldl Dy.max a

/-- A pivot after R247: the value, and whether it was replaced. -/
def regularise (tau lambda : Nat) (dm : Dy) (e : Int) (s : Dy) : Dy × Bool :=
  let unit : Dy := ⟨1, 2 * e⟩
  let t := Dy.max ⟨dm.m, dm.e - tau⟩ unit
  let l := Dy.max ⟨dm.m, dm.e - lambda⟩ unit
  if s.le t then (t.add l, true) else (s, false)

/-- The order in which a block's elements are formed: by columns, a diagonal block's from the diagonal down. -/
def fbOrder (rows cols : Nat) (diag : Bool) : List Nat :=
  ((List.range cols).map (fun c => ((List.range rows).filter (fun r => !diag || decide (c ≤ r))).map (fun r => r * cols + c))).flatten

/-- The exact element (r, c) of L(i, j) before its root or quotient (factor_block). -/
def fbSum (h : Bfx) (scale : Option Int) (prev : List (Bfx × Bfx)) (lij ljj : Bfx) (diag : Bool) (r c : Nat) : Dy :=
  let s0 := h.at r c
  let s0 := match scale with
    | some lk => if diag && r = c then s0.add (s0.mul ⟨1, lk⟩) else s0
    | none => s0
  let s1 := prev.foldl (fun s p => (List.range p.1.cols).foldl (fun s t => s.sub ((p.1.at r t).mul (p.2.at c t))) s) s0
  (List.range c).foldl (fun s t => s.sub ((lij.at r t).mul (ljj.at c t))) s1

/-- Store the block L(i, j); the pivots it regularised, as elements within the block. -/
def factorBlock (st : PSet) (scale : Option Int) (h : Bfx) (prev : List (Bfx × Bfx)) (ljj : Option Bfx) (e : Int) :
    Stored × List Nat :=
  let diag := ljj.isNone
  let dm := dmax h
  let f (cur : Bfx) (i : Nat) : Ex :=
    let r := i / h.cols
    let c := i % h.cols
    let base := ljj.getD cur
    let s := fbSum h scale prev cur base diag r c
    if diag && r = c then .root (regularise st.tau st.lambda dm cur.exp s).1 else .quo s (base.at c c)
  let out := bfxStore e h.rows h.cols (fbOrder h.rows h.cols diag) f
  let piv := if diag then (List.range h.rows).filter (fun c =>
    (regularise st.tau st.lambda dm out.b.exp (fbSum h scale prev out.b out.b true c c)).2) else []
  (out, piv)

/-- The workspace of a solve: L per block, exponents of the vectors, counts, and whether a diagonal block saturated. -/
structure PWork where
  l    : List Bfx
  ey   : List Int
  ec   : List Int
  ed   : List Int
  er   : List Int
  ep   : List Int
  eq   : List Int
  cnt  : PCnt
  bad  : Bool
  deriving DecidableEq, Repr

/-- The workspace before the first iteration. -/
def PWork.start (im : PImage) : PWork :=
  { l := im.blks.map (fun b => Bfx.zero b.el b.h.rows b.h.cols), ey := im.vars.map (·.ey), ec := im.vars.map (·.ex),
    ed := im.vars.map (·.ex), er := im.vars.map (·.eg), ep := im.vars.map (·.ex), eq := im.vars.map (·.eg),
    cnt := PCnt.zero, bad := false }

/-- Factorise (R257, "Factorisation"): blocks in column-major pattern order. -/
def PWork.factor (w : PWork) (im : PImage) (st : PSet) (lk : Int) : PWork :=
  foldIdx (fun k (w : PWork) b =>
    if st.pcg && b.i ≠ b.j then w else
      let lOf (i j : Nat) : Option Bfx := (im.blk i j).map (fun q => w.l.getD q (Bfx.zero 0 0 0))
      let prev := if st.pcg then [] else (List.range b.j).filterMap (fun q =>
        match lOf b.i q, lOf b.j q with | some x, some y => some (x, y) | _, _ => none)
      let e := ((w.l[k]?).map (·.exp)).getD b.el
      let (s, piv) := factorBlock st (if st.lm then some lk else none) b.h prev
        (if b.i = b.j then none else lOf b.j b.j) e
      let c := w.cnt.stored s k 1
      { w with l := w.l.set k s.b, bad := w.bad || (s.sat && b.i = b.j),
               cnt := { c with pivots := c.pivots + piv.length,
                               first := if c.first.isNone then piv.head?.map (fun p => (b.i, p)) else c.first } })
    0 { w with bad := false } im.blks

/-- Forward substitution of `u` (block vector) at EXP_Y. -/
def PWork.forward (w : PWork) (im : PImage) (pcg : Bool) (u : List Bfx) : PWork × List Bfx :=
  (List.range im.vars.length).foldl (fun (acc : PWork × List Bfx) j =>
    let lOf (i k : Nat) : Option Bfx := (im.blk i k).map (fun q => w.l.getD q (Bfx.zero 0 0 0))
    let ljj := (lOf j j).getD (Bfx.zero 0 0 0)
    let uj := u.getD j (Bfx.zero 0 0 0)
    let s := bfxStore (acc.1.ey.getD j 0) (im.dim j) 1 (List.range (im.dim j)) (fun cur r =>
      let s0 := uj.at r 0
      let s1 := if pcg then s0 else (List.range j).foldl (fun s k =>
        match lOf j k with
        | some l => (List.range l.cols).foldl (fun s t => s.sub ((l.at r t).mul ((acc.2.getD k (Bfx.zero 0 0 0)).at t 0))) s
        | none => s) s0
      .quo ((List.range r).foldl (fun s t => s.sub ((ljj.at r t).mul (cur.at t 0))) s1) (ljj.at r r))
    ({ acc.1 with ey := acc.1.ey.set j s.b.exp, cnt := acc.1.cnt.stored s j 2 }, acc.2 ++ [s.b])) (w, [])

/-- Back substitution at EXP_X. -/
def PWork.back (w : PWork) (im : PImage) (pcg : Bool) (y : List Bfx) : PWork × List Bfx :=
  let n := im.vars.length
  (List.range n).foldl (fun (acc : PWork × List Bfx) j' =>
    let j := n - 1 - j'
    let lOf (i k : Nat) : Option Bfx := (im.blk i k).map (fun q => w.l.getD q (Bfx.zero 0 0 0))
    let ljj := (lOf j j).getD (Bfx.zero 0 0 0)
    let d := im.dim j
    let s := bfxStore (acc.1.ec.getD j 0) d 1 ((List.range d).map (d - 1 - ·)) (fun cur r =>
      let s0 := (y.getD j (Bfx.zero 0 0 0)).at r 0
      let s1 := if pcg then s0 else foldIdx (fun k s (cb : Bfx) =>
        match lOf (j + 1 + k) j with
        | some l => (List.range l.rows).foldl (fun s t => s.sub ((l.at t r).mul (cb.at t 0))) s
        | none => s) 0 s0 acc.2
      .quo (((List.range d).filter (· > r)).foldl (fun s t => s.sub ((ljj.at t r).mul (cur.at t 0))) s1) (ljj.at r r))
    ({ acc.1 with ec := acc.1.ec.set j s.b.exp, cnt := acc.1.cnt.stored s j 2 }, s.b :: acc.2)) (w, [])

/-- (H·x) at position i, element r: each stored lower block and its transpose. -/
def PImage.hx (im : PImage) (x : List Bfx) (i r : Nat) : Dy :=
  im.blks.foldl (fun s b =>
    let s := if b.i = i then (List.range b.h.cols).foldl (fun s t => s.add ((b.h.at r t).mul ((x.getD b.j (Bfx.zero 0 0 0)).at t 0))) s else s
    if b.j = i ∧ b.i ≠ i then (List.range b.h.rows).foldl (fun s t => s.add ((b.h.at t r).mul ((x.getD b.i (Bfx.zero 0 0 0)).at t 0))) s
    else s) Dy.zero

/-- Store a whole vector with exponents, counting its blocks. -/
def storeVec (im : PImage) (es : List Int) (c : PCnt) (f : Nat → Nat → Dy) : List Bfx × List Int × PCnt × Bool :=
  (List.range im.vars.length).foldl (fun (acc : List Bfx × List Int × PCnt × Bool) j =>
    let s := bfxOf (acc.2.1.getD j 0) (im.dim j) 1 (fun r _ => .dy (f j r))
    (acc.1 ++ [s.b], acc.2.1.set j s.b.exp, acc.2.2.1.stored s j 2, acc.2.2.2 || s.sat)) ([], es, c, false)

/-- An iterate: step, residual, G, RSQ. -/
structure Iter where
  d   : List Bfx
  r   : List Bfx
  g   : Xs
  rsq : Xs
  deriving DecidableEq, Repr

/-- The element of a block vector. -/
def vat (v : List Bfx) (j r : Nat) : Dy := (v.getD j (Bfx.zero 0 0 0)).at r 0

/-- G and RSQ of a step and its residual. -/
def PImage.judge (im : PImage) (d r : List Bfx) : Iter :=
  { d := d, r := r, g := Xs.ofDy ((vdot im.b d).sub (vdot d r)), rsq := Xs.ofDy (vdot r r) }

/-- Iterate 0: Δ = 0, r = −b, G = 0, RSQ = bᵀb. -/
def PImage.iter0 (im : PImage) (w : PWork) : PWork × Iter :=
  let d := List.zipWith (fun v e => Bfx.zero e v.dim 1) im.vars w.ed
  let (r, er, c, _) := storeVec im w.er w.cnt (fun j i => (vat im.b j i).neg)
  ({ w with er := er, cnt := c }, { d := d, r := r, g := ⟨0, 0⟩, rsq := Xs.ofDy (vdot im.b im.b) })

/-- The step and its true residual from a base iterate and a correction. -/
def PWork.stepFrom (w : PWork) (im : PImage) (base : Iter) (c : List Bfx) : PWork × Iter × Bool :=
  let (d, ed, cnt, sat) := storeVec im w.ed w.cnt (fun j i => (vat base.d j i).add (vat c j i))
  let (r, er, cnt, _) := storeVec im w.er cnt (fun j i => ((vat im.b j i).add (im.hx d j i)).neg)
  ({ w with ed := ed, er := er, cnt := cnt }, im.judge d r, sat)

/-- What PCG carries from one iteration to the next. -/
structure Pcg where
  p   : List Bfx
  rho : Xs
  deriving DecidableEq, Repr

/-- One iteration: workspace, iterate, PCG state, usable, breakdown. -/
def runIter (im : PImage) (st : PSet) (lk : Int) (k : Nat) (w : PWork) (last best : Iter) (pc : Pcg) :
    PWork × Iter × Pcg × Bool × Bool :=
  if st.pcg then
    let w := if k = 1 then w.factor im st lk else w
    let (w, y) := w.forward im true last.r
    let (w, z) := w.back im true y
    let rho := Xs.ofDy (vdot last.r z)
    let beta : Xs := if k = 1 then ⟨0, 0⟩ else if pc.rho.m = 0 then ⟨0, 0⟩ else Xs.quo rho.dy pc.rho.dy
    let (p, ep, cnt, _) := storeVec im w.ep w.cnt (fun j i =>
      if k = 1 then vat z j i else (vat z j i).add (beta.dy.mul (vat pc.p j i)))
    let (q, eq, cnt, _) := storeVec im w.eq cnt (fun j i => im.hx p j i)
    let w := { w with ep := ep, eq := eq, cnt := cnt }
    let pq := Xs.ofDy (vdot p q)
    if pq.m ≤ 0 then (w, last, { p := p, rho := rho }, false, true) else
      let alpha := Xs.quo rho.dy pq.dy
      let (d, ed, cnt, sat) := storeVec im w.ed w.cnt (fun j i => (vat last.d j i).add (alpha.dy.mul (vat p j i)))
      let (r, er, cnt, _) := storeVec im w.er cnt (fun j i => (vat last.r j i).sub (alpha.dy.mul (vat q j i)))
      let w := { w with ed := ed, er := er, cnt := cnt }
      (w, im.judge d r, { p := p, rho := rho }, !(w.bad || sat), false)
  else
    let w := if st.lm || k = 1 then w.factor im st lk else w
    let base := if st.lm then best else last
    let (w, y) := w.forward im false base.r
    let (w, c) := w.back im false y
    let (w, it, sat) := w.stepFrom im base c
    (w, it, pc, !(w.bad || sat), false)

/-- Stop reasons (R259). -/
inductive Stop where
  | abs | rel | cap | cutBetween | cutWithin | range | breakdown | lmLimit
  deriving DecidableEq, Repr

def Stop.code : Stop → Nat
  | .abs => 0 | .rel => 1 | .cap => 2 | .cutBetween => 3 | .cutWithin => 4 | .range => 5 | .breakdown => 6
  | .lmLimit => 7

/-- What a solve delivers. -/
structure Solved where
  stop  : Stop
  iters : Nat
  ret   : Nat
  best  : Iter
  w     : PWork
  lk    : Int
  /-- iteration of the first regularised pivot -/
  pivIt : Nat
  anyUsable : Bool
  deriving DecidableEq, Repr

/-- The loop of R259. `cut` is the deadline: iterations completed when it hit, and whether within the next. -/
def solveLoop (im : PImage) (st : PSet) (cap : Nat) (eps2 : Option Dy) (delta : Nat) (cut : Option (Nat × Bool)) :
    Nat → Nat → Nat → Int → PWork → Iter → Iter → Pcg → Nat → Bool → Solved
  | 0, k, bi, lk, w, best, _, _, pv, us => ⟨.cap, k, bi, best, w, lk, pv, us⟩
  | fuel + 1, k, bi, lk, w, best, last, pc, pv, us =>
    let fin (s : Stop) (k bi : Nat) (best : Iter) (w : PWork) (lk : Int) (pv : Nat) (us : Bool) : Solved :=
      ⟨s, k, bi, best, w, lk, pv, us⟩
    if cut = some (k, false) then fin .cutBetween k bi best w lk pv us
    else if cut = some (k, true) then fin .cutWithin k bi best w lk pv us
    else
      let (w, it, pc, ok, brk) := runIter im st lk (k + 1) w last best pc
      let k := k + 1
      let pv := if pv = 0 && w.cnt.first.isSome then k else pv
      let us := us || ok
      let next (bi : Nat) (lk : Int) (best : Iter) : Solved :=
        if k = cap then fin .cap k bi best w lk pv us
        else if st.lm && decide (lk > 20) then fin .lmLimit k bi best w lk pv us
        else solveLoop im st cap eps2 delta cut fuel k bi lk w best it pc pv us
      if !ok || !it.g.dy.lt best.g.dy then
        if !st.lm then fin (if !ok then (if brk then .breakdown else .range) else .rel) k bi best w lk pv us
        else next bi (lk + 3) best
      else
        let lk := if st.lm then max (lk - 2) (-64) else lk
        let done := match eps2 with | some e => it.rsq.dy.le e | none => false
        if done then fin .abs k k it w lk pv us
        else if (Dy.mul ⟨65536, 0⟩ (best.g.dy.sub it.g.dy)).lt (Dy.mul ⟨delta, 0⟩ it.g.dy.neg) then
          fin .rel k k it w lk pv us
        else next k lk it

/-- A whole solve. -/
def PImage.solve (im : PImage) (st : PSet) (cap : Nat) (eps : Option Dy) (delta : Nat) (lk0 : Int)
    (cut : Option (Nat × Bool)) : Solved :=
  let (w, i0) := im.iter0 (PWork.start im)
  let eps2 := eps.map (fun e => e.mul e)
  match eps2 with
  | some e =>
    if i0.rsq.dy.le e then ⟨.abs, 0, 0, i0, w, lk0, 0, false⟩
    else solveLoop im st cap eps2 delta cut cap 0 0 lk0 w i0 i0 ⟨[], ⟨0, 0⟩⟩ 0 false
  | none => solveLoop im st cap eps2 delta cut cap 0 0 lk0 w i0 i0 ⟨[], ⟨0, 0⟩⟩ 0 false

/-! ## Dense kernels -/

/-- Outputs of one kernel problem and its counts. -/
structure KOut where
  o0  : Bfx
  o1  : Option Bfx
  cnt : PCnt
  deriving DecidableEq, Repr

/-- CHOL: one diagonal block; the upper part stays zero. -/
def kChol (st : PSet) (e0 : Int) (p : Nat) (a : Bfx) : KOut :=
  let (s, piv) := factorBlock st none a [] none e0
  let c := PCnt.zero.stored s p 3
  { o0 := s.b, o1 := none, cnt := { c with pivots := piv.length, first := piv.head?.map (fun x => (p, x)) } }

/-- LDLT as a pair of blocks; D elements and L columns are stored in column order, and both blocks follow R246. -/
def ldltPass (st : PSet) (el ed : Int) (a : Bfx) : Bfx × Bfx × Bool × Bool × List Nat :=
  let n := a.rows
  (List.range n).foldl (fun (acc : Bfx × Bfx × Bool × Bool × List Nat) c =>
    let (l, d, ol, od, pv) := acc
    let sum (r : Nat) : Dy := (List.range c).foldl (fun s t => s.sub (((l.at r t).mul (d.at t 0)).mul (l.at c t))) (a.at r c)
    let (s, reg) := regularise st.tau st.lambda (dmax a) ed (sum c)
    let (dv, o) := (Ex.dy s).store ed
    let d := { d with m := d.m.set c dv }
    let (l, ol) := ((List.range n).filter (· > c)).foldl (fun (q : Bfx × Bool) r =>
      let (v, o) := (Ex.quo (sum r) (d.at c 0)).store el
      ({ q.1 with m := q.1.m.set (r * n + c) v }, q.2 || o)) (l, ol)
    (l, d, ol, od || o, if reg then pv ++ [c] else pv))
    (Bfx.zero el n n, Bfx.zero ed n 1, false, false, [])

/-- Passes over L and D: each block is raised and recomputed once, at its own first overflow (R246). -/
def ldltRun (st : PSet) (a : Bfx) : Nat → Int → Int → Nat → Nat → Stored × Stored × List Nat
  | fuel, e0, e1, u0, u1 =>
    let (l, d, ol, od, pv) := ldltPass st e0 e1 a
    let r0 := b2n (ol && u0 == 0 && decide (e0 < 127))
    let r1 := b2n (od && u1 == 0 && decide (e1 < 127))
    match fuel with
    | 0 => (⟨l, u0, ol⟩, ⟨d, u1, od⟩, pv)
    | n + 1 => if r0 + r1 = 0 then (⟨l, u0, ol⟩, ⟨d, u1, od⟩, pv) else ldltRun st a n (e0 + r0) (e1 + r1) (u0 + r0) (u1 + r1)

/-- LDLT: the two outputs are blocks of their own under R246. -/
def kLdlt (st : PSet) (e0 e1 : Int) (p : Nat) (a : Bfx) : KOut :=
  let (sl, sd, pv) := ldltRun st a 2 e0 e1 0 0
  let l := sl.b
  let d := sd.b
  let c := (PCnt.zero.stored sl p 3).stored sd p 3
  { o0 := l, o1 := some d, cnt := { c with pivots := pv.length, first := pv.head?.map (fun x => (p, x)) } }

/-- Householder QR: working columns of A then B at EXP_TMP; the diagonal as XS64. -/
def qrLoop (m : Nat) : List Nat → Bfx → Bfx → List Xs → PCnt → Bfx × Bfx × List Xs × PCnt
  | [], a, b, dg, c => (a, b, dg, c)
  | k :: rest, a, b, dg, cnt =>
    let rows := (List.range m).filter (k ≤ ·)
    let sigma := Xs.ofDy (Dy.sum (rows.map (fun i => (a.at i k).mul (a.at i k))))
    if sigma.m = 0 then qrLoop m rest a b (dg ++ [⟨0, 0⟩]) cnt else
      let rt := Xs.root sigma.dy
      let alpha : Xs := if (a.at k k).m < 0 then rt else ⟨-rt.m, rt.x⟩
      let beta := Xs.ofDy (sigma.dy.sub (alpha.dy.mul (a.at k k)))
      let vk := (Xs.ofDy ((a.at k k).sub alpha.dy)).dy
      let v (i : Nat) : Dy := if i = k then vk else a.at i k
      let upd (x : Bfx) (from_ : Nat) (kind : Nat) (cnt : PCnt) : Bfx × PCnt :=
        let s (j : Nat) : Dy := (Xs.ofDy (Dy.sum (rows.map (fun i => (v i).mul (x.at i j))))).dy
        -- a - (s / beta)·v is one expression, rounded once (R245)
        let st := bfxOf x.exp x.rows x.cols (fun i j =>
          if j < from_ ∨ i < k then .dy (x.at i j) else .quo (((x.at i j).mul beta.dy).sub ((s j).mul (v i))) beta.dy)
        (st.b, cnt.stored st 0 kind)
      let (a', cnt) := upd a (k + 1) 3 cnt
      let (b', cnt) := upd b 0 3 cnt
      qrLoop m rest a' b' (dg ++ [alpha]) cnt

/-- A block copied to another exponent. -/
def bfxCopy (e : Int) (b : Bfx) : Stored := bfxOf e b.rows b.cols (fun r c => .dy (b.at r c))

/-- QR: R and QᵀB. -/
def kQr (e0 e1 et : Int) (p : Nat) (a b : Bfx) : KOut :=
  let sa := bfxCopy et a
  let sb := bfxCopy et b
  let c := (PCnt.zero.stored sa p 3).stored sb p 3
  let (ra, rb, dg, c) := qrLoop a.rows (List.range a.cols) sa.b sb.b [] c
  let r := bfxOf e0 a.cols a.cols (fun i j =>
    if i = j then .dy ((dg.getD i ⟨0, 0⟩).dy) else if i < j then .dy (ra.at i j) else .dy Dy.zero)
  let q := bfxCopy e1 rb
  let c := c.stored r p 3
  if b.cols = 0 then { o0 := r.b, o1 := none, cnt := c } else { o0 := r.b, o1 := some q.b, cnt := c.stored q p 3 }

/-- TRSM: substitution with L or its transpose. -/
def kTrsm (e0 : Int) (p : Nat) (trans unit : Bool) (l b : Bfx) : KOut :=
  let n := l.rows
  let order := if trans then ((List.range n).map (n - 1 - ·)) else List.range n
  let s := bfxStore e0 n b.cols ((order.map (fun r => (List.range b.cols).map (fun c => r * b.cols + c))).flatten)
    (fun cur i =>
      let r := i / b.cols
      let c := i % b.cols
      let el (t : Nat) : Dy := if trans then l.at t r else l.at r t
      let ts := (List.range n).filter (fun t => if trans then decide (r < t) else decide (t < r))
      let sum := ts.foldl (fun s t => s.sub ((el t).mul (cur.at t c))) (b.at r c)
      .quo sum (if unit then ⟨1, 0⟩ else l.at r r))
  { o0 := s.b, o1 := none, cnt := PCnt.zero.stored s p 3 }

/-- SCHUR: Y = L⁻¹Bᵀ at EXP_TMP, S = C − YᵀY. -/
def kSchur (e0 et : Int) (p : Nat) (l b c : Bfx) : KOut :=
  let bt : Bfx := { exp := b.exp, rows := b.cols, cols := b.rows,
                    m := (List.range (b.rows * b.cols)).map (fun i => b.m.getD ((i % b.rows) * b.cols + i / b.rows) 0) }
  let y := kTrsm et p false false l bt
  let s := bfxOf e0 c.rows c.cols (fun i j =>
    let (i, j) := if i < j then (j, i) else (i, j)
    .dy ((c.at i j).sub (Dy.sum ((List.range l.rows).map (fun t => (y.o0.at t i).mul (y.o0.at t j))))))
  let k := PCnt.zero.stored s p 3
  { o0 := s.b, o1 := none, cnt := { k with ups := k.ups + y.cnt.ups, sats := k.sats + y.cnt.sats,
                                             satAt := if k.satAt.isSome then k.satAt else y.cnt.satAt } }

/-! ## BFX32 blocks in sheets -/

/-- The stride of a block. -/
def bfxStride (r c : Nat) : Nat := alignUp (8 + 4 * r * c) 64

/-- A block as bytes. -/
def Bfx.bytes (b : Bfx) : Bytes :=
  padTo 64 (toLe (b.exp % 256).toNat 1 ++ toLe b.rows 1 ++ toLe b.cols 1 ++ toLe 0 5 ++
    (b.m.map (fun v => toLe (v % 2 ^ 32).toNat 4)).flatten)

/-- Read a block. -/
def Bfx.parse (b : Bytes) : Bfx :=
  let r := bnat b 1 1
  let c := bnat b 2 1
  { exp := sext 8 (bnat b 0 1), rows := r, cols := c, m := (List.range (r * c)).map (fun i => sext 32 (bnat b (8 + 4 * i) 4)) }

end Sys2Proof.Machine
end

