-- ==== Sys2Proof/Machine/Press.lean ====
section
/-! DEFINITION. The press operations: structure images (R248–R250), streaming changed blocks (R251–R255), solving (R256–R262)
and dense kernels (R264). -/

namespace Sys2Proof.Machine

/-! ## Reports common to the press operations -/

/-- A failed check of the press: PRS_CHECK with its cause and index (R248). -/
def prsFail (x : Desc) (cause index : Nat) (r4 r5 : DW := 0) (rdr : List (DW × Nat × Nat) := []) : Res :=
  { st := .failedCheck, r4 := r4, r5 := r5, rdr := rdr,
    post := fun d => d.event (x.ev 0x83 (d4 := dwN cause) (d5 := dwN index)) }

/-- Counters and events of what the arithmetic did (R246, R247): regularised pivots, saturated blocks, raises. -/
def Dev.prsCounts (d : Dev) (x : Desc) (c : PCnt) (iter : Nat) : Dev :=
  let d := ((d.count cPrsPivot c.pivots).count cPrsSat c.sats).count cPrsRescale c.ups
  let d := if c.pivots ≠ 0 ∧ bitOf (d.reg 0x10000) 0 then
      d.event (x.ev 0x80 (d4 := dwN c.pivots) (d5 := dwN ((c.first.map (fun p => p.1 * 32 + p.2)).getD 0)) (d6 := dwN (iter % 512)))
    else d
  match c.satAt with
  | some (i, k) => if bitOf (d.reg 0x10000) 1 then d.event (x.ev 0x81 (d4 := dwN c.sats) (d5 := dwN i) (d6 := dwN k)) else d
  | none => d

/-- Result flags of what the arithmetic did. -/
def PCnt.flags (c : PCnt) : BitVec 16 := flagIf (c.pivots != 0) fPivotReg ||| flagIf (c.sats != 0) fRangeSat

/-- The image of a sheet whose last writer did not leave it VOID (R250). -/
def Dev.image (d : Dev) (h : DW) : Option PImage :=
  if (d.sheet (shIdx h)).void ≠ .done then none else Tab.get? d.press (shIdx h)

/-- An image or work sheet: T2, PRIVATE to QE or ALL (R249). -/
def Dev.prsSheet (d : Dev) (h : DW) : Bool :=
  let s := d.sheet (shIdx h)
  s.tier == 1 && !s.zp && !s.ribbon && ((s.place == 0 && s.part == 9) || s.place == 2)

/-- The numbers of a block. -/
def Bfx.key (b : Bfx) : List Nat := (b.exp % 256).toNat :: b.rows :: b.cols :: b.m.map (fun v => (v % 2 ^ 32).toNat)
/-- The numbers an image holds. -/
def PImage.key (im : PImage) : List Nat :=
  im.vars.flatMap (fun v => [v.var, v.dim, (v.ex % 256).toNat, (v.eg % 256).toNat, (v.ey % 256).toNat]) ++
    im.blks.flatMap (fun b => [b.i, b.j, (b.el % 256).toNat] ++ b.h.key) ++ im.b.flatMap Bfx.key ++
    [b2n im.pcgOnly + 2 * b2n im.conflict + 4 * b2n im.degraded + 8 * b2n im.rangeSat]

/-- The bytes of an image in its sheet: their layout is not given, so they are open bytes that the image's content determines (R22, log 53);
the image itself is set after them. -/
def PImage.wr (im : PImage) (h : DW) (n : Nat) : DW × Nat × Bytes :=
  let key := im.key
  (h, 0, (List.range n).map (fun k => Sys2Proof.Config.openByte key k))
/-- The image of a sheet replaced. -/
def Dev.setImage (d : Dev) (h : DW) (im : PImage) : Dev := { d with press := Tab.set d.press (shIdx h) im }

/-- The failed check of an image that cannot be used: R257 gives PRS_CHECK no cause and no index for it, so both are open values
(log 88). -/
def tokenFail (x : Desc) (rdr : List (DW × Nat × Nat)) : Res :=
  prsFail x ((Config.openValue [257] 0).toNat % 16) (Config.openValue [257] 1).toNat 0 0 rdr

/-- What a reader without an image completes with: the status of the writer that left it VOID, else a failed check (R55, R250). -/
def Dev.noImage (d : Dev) (x : Desc) (h : DW) : Res :=
  let s := d.sheet (shIdx h)
  if s.void ≠ .done then Res.fail s.void.passed else tokenFail x []

/-! ## PRS_STRUCT -/

/-- The counts of a structure description. -/
structure SDesc where
  nvar : Nat
  nnzb : Nat
  nsup : Nat
  pcg  : Bool

/-- Section offsets: column pointers, blocks, supernodes, end. -/
def SDesc.offs (s : SDesc) : Nat × Nat × Nat × Nat :=
  let c := alignUp (64 + 8 * s.nvar) 64
  let b := alignUp (c + 4 * (s.nvar + 1)) 64
  let u := alignUp (b + 8 * s.nnzb) 64
  (c, b, u, u + 4 * s.nsup)

/-- The first index of a list that fails a test. -/
def firstBad {α : Type} (p : Nat → α → Bool) (l : List α) : Option Nat :=
  foldIdx (fun i (acc : Option Nat) a => if acc.isSome then acc else if p i a then some i else none) 0 none l

/-- The first repeated element. -/
def firstRepeat : Nat → List Nat → List Nat → Option Nat
  | _, _, [] => none
  | i, seen, a :: t => if seen.contains a then some i else firstRepeat (i + 1) (a :: seen) t

/-- Strictly rising. -/
def rising : List Nat → Bool
  | a :: b :: t => decide (a < b) && rising (b :: t)
  | _ => true

/-- Image size and work-sheet size in bytes (R249), from E and D. -/
def imageBytes (n b e dd : Nat) : Nat := 65536 + 16 * n + 16 * b + 4 * e + 4 * dd
def workBytes (e dd : Nat) : Nat := 65536 + 4 * e + 32 * dd

/-- E and D of an image. -/
def PImage.sizes (im : PImage) : Nat × Nat :=
  (sumBy (fun (b : PBlk) => im.dim b.i * im.dim b.j) im.blks, sumBy (fun (v : PVar) => v.dim) im.vars)

/-- Read and check a description in the order of R248's causes 0 to 5: the image, or the cause and index. -/
def structImage (b : Bytes) : Except (Nat × Nat) PImage :=
  let s : SDesc := { nvar := (bw b 1).toNat, nnzb := (bw b 2).toNat, nsup := (bw b 3).toNat, pcg := bitOf (bw b 4) 0 }
  let (co, bo, uo, en) := s.offs
  if bw b 0 ≠ 0x50525331 ∨ bits (bw b 4) 31 1 ≠ 0 ∨ !allZero ((List.range 11).map (fun k => bw b (5 + k))) ∨ b.length < en then
    .error (0, 0)
  else
    let vs := (List.range s.nvar).map (fun k => (bw b (16 + 2 * k), bw b (17 + 2 * k)))
    let cp := (List.range (s.nvar + 1)).map (fun k => (bw b (co / 4 + k)).toNat)
    let bs := (List.range s.nnzb).map (fun k => (bw b (bo / 4 + 2 * k), bw b (bo / 4 + 2 * k + 1)))
    let su := (List.range s.nsup).map (fun k => (bw b (uo / 4 + k)).toNat)
    match firstBad (fun _ (v : DW × DW) => bits v.1 31 23 != 0 || bits v.2 31 24 != 0) vs,
      firstBad (fun _ (v : DW × DW) => bits v.1 31 18 != 0 || bits v.2 31 16 != 0) bs with
    | some i, _ => .error (0, i)
    | none, some i => .error (0, i)
    | none, none =>
      if s.nvar = 0 ∨ 262144 < s.nvar ∨ s.nnzb < s.nvar ∨ 4194304 < s.nnzb ∨ s.nsup = 0 ∨ s.nvar < s.nsup then .error (1, 0)
      else match firstRepeat 0 [] (vs.map (fun v => bits v.1 17 0)) with
        | some i => .error (2, i)
        | none =>
          let col (j : Nat) : List Nat := ((bs.drop (cp.getD j 0)).take (cp.getD (j + 1) 0 - cp.getD j 0)).map (fun e => bits e.1 17 0)
          let js := List.range s.nvar
          let badCol (j : Nat) : Bool :=
            decide (cp.getD (j + 1) 0 < cp.getD j 0) || (col j).head? != some j || !rising (col j) || (col j).any (fun r => decide (s.nvar ≤ r))
          if cp.headD 1 ≠ 0 ∨ cp.getD s.nvar 0 ≠ s.nnzb then .error (3, 0)
          else match js.find? badCol with
            | some j => .error (3, j)
            | none =>
              let open_ (j : Nat) : Bool := match (col j).drop 1 with
                | [] => false
                | i1 :: r => r.any (fun i => !(col i1).contains i)
              match if s.pcg then none else js.find? open_ with
              | some j => .error (4, j)
              | none =>
                let badSup (j : Nat) : Bool := decide (j + 1 < s.nvar) && !su.contains (j + 1) && col j != j :: col (j + 1)
                if !rising su ∨ su.headD 1 ≠ 0 then .error (5, 0)
                else match js.find? badSup with
                  | some j => .error (5, j)
                  | none =>
                    let dim (j : Nat) : Nat := bits ((vs.getD j (0, 0)).1) 22 18 + 1
                    let sx (w : DW) (lo : Nat) : Int := sext 8 (w.toNat / 2 ^ lo)
                    .ok { vars := vs.map (fun v => { var := bits v.1 17 0, dim := bits v.1 22 18 + 1, ex := sx v.2 0, eg := sx v.2 8, ey := sx v.2 16 }),
                          blks := js.flatMap (fun j => ((bs.drop (cp.getD j 0)).take (cp.getD (j + 1) 0 - cp.getD j 0)).map (fun e =>
                            { i := bits e.1 17 0, j := j, h := Bfx.zero (sx e.2 0) (dim (bits e.1 17 0)) (dim j), el := sx e.2 8 })),
                          b := vs.map (fun v => Bfx.zero (sx v.2 8) (bits v.1 22 18 + 1) 1),
                          pcgOnly := s.pcg, conflict := false, degraded := false, rangeSat := false }

/-- Execute PRS_STRUCT (R248–R250). -/
def Dev.runStruct (d : Dev) (x : Desc) : Res :=
  let w := x.w
  let n := d.lenOf x (w.dw 8)
  let rdr := [(w.dw 8, 0, n)]
  match structImage (d.rd x (w.dw 8) 0 n) with
  | .error (c, i) => prsFail x c i 0 0 rdr
  | .ok im =>
    let (e, dd) := im.sizes
    let size := imageBytes im.vars.length im.blks.length e dd
    let r4 := dwN (cdiv size 65536)
    let r5 := dwN (cdiv (workBytes e dd) 65536)
    if d.szOf (w.dw 7) < size then prsFail x 6 0 r4 r5 rdr
    else { r4 := r4, r5 := r5, rdr := rdr, wr := [im.wr (w.dw 7) size], post := fun d => d.setImage (w.dw 7) im }

/-- PRS_STRUCT. Its operation words are not given: IMAGE in DW7 and the description in DW8, as the other press opcodes
order theirs (log 42). -/
def structDef : OpDef :=
  { kind := 6
    resv := fun w => w.zero 6 6 && w.zero 9 15
    uses := fun js => js.flatMap (fun w => [Use.rd (w.dw 8), Use.wrAny (w.dw 7)])
    late := fun d js => if js.all (fun w => d.prsSheet (w.dw 7)) then none else some .refusedMalformed
    run := fun d x => d.runStruct x }

/-! ## PRS_UPDATE -/

/-- Dimensions of the slots of a factor record by its kind (factor kinds table). -/
def kindDims (kind rdim : Nat) : List Nat :=
  if kind = 0 then [rdim] else if kind = 1 then [6, 3, 6, 6, 3, 6] else if kind = 2 then [6, 3] else if kind = 4 then [6, 6]
  else if kind = 3 ∨ kind = 5 then [6] else []

/-- A factor record as the press reads it. -/
def frecOf (b : Bytes) : FRec :=
  let h := bw b 0
  let n := bits h 7 4
  let rd := bits h 15 8
  let dims := kindDims (bits h 3 0) rd
  let slots := (List.range n).foldl (fun (acc : List FSlot × Nat) k =>
    let dm := dims.getD k 0
    (acc.1 ++ [{ var := bits (bw b (2 + k)) 17 0, dim := dm, j := wordsAt b acc.2 (rd * dm) }], acc.2 + rd * dm)) ([], 16 + rd)
  { e := wordsAt b 16 rd, chi2 := bw b 8, slots := slots.1 }

/-- What streaming leaves: image, counts, applied, skipped, first skip (index and reason). -/
structure Streamed where
  im   : PImage
  cnt  : PCnt
  done : Nat
  skip : Nat
  first : Option (Nat × Nat)

/-- One item applied or skipped. -/
def Streamed.step (s : Streamed) (k : Nat) (why : Option Nat) (f : PImage → PCnt → PImage × PCnt) : Streamed :=
  match why with
  | some c => { s with skip := s.skip + 1, first := if s.first.isSome then s.first else some (k, c) }
  | none => let r := f s.im s.cnt; { s with im := r.1, cnt := r.2, done := s.done + 1 }

/-- Entries of a block list from its bytes after the header; none when they run past it (R254). -/
def blockEntries : Nat → Bytes → Option (List BEntry)
  | 0, _ => some []
  | n + 1, b =>
    let rows := bnat b 9 1
    let cols := bnat b 10 1
    let k := alignUp (8 + (8 + 4 * rows * cols)) 64
    if b.length < k then none
    else (blockEntries n (b.drop k)).map (fun t =>
      { vi := bits (bw b 0) 17 0, vj := bits (bw b 1) 17 0, vec := bitOf (bw b 1) 31, b := Bfx.parse ((b.drop 8).take (k - 8)) } :: t)

/-- Execute PRS_UPDATE (R251–R254). -/
def Dev.runUpdate (d : Dev) (x : Desc) : Res :=
  let w := x.w
  let mode := w.f 6 1 0
  let off := (w.dw 9).toNat
  let src := w.dw 8
  let doomed := (d.sheet (shIdx src)).q.any (fun r => r.desc == x.id && !r.write && (match r.st with | .doomed _ => true | _ => false))
  match d.image (w.dw 7) with
  | none => d.noImage x (w.dw 7)
  | some im =>
    if doomed ∧ mode ≠ 2 then { st := .doneDegraded }
    else
      let im := if bitOf (w.dw 6) 3 then { im with conflict := false, degraded := false, rangeSat := false } else im
      let len := d.lenOf x src - off
      let b := d.rd x src off len
      let rdr := [(src, off, len)]
      let s0 : Streamed := { im := im, cnt := PCnt.zero, done := 0, skip := 0, first := none }
      let sub := mode == 1
      let res : Except (Nat × Nat) (Streamed × Bool × Bool) :=
        if mode = 2 then
          .ok ((List.range (w.f 10 18 0)).foldl (fun (s : Streamed) k =>
            match s.im.pos (bits (bw b k) 17 0) with
            | some i => s.step k none (fun im c => (im.clearVar i, c))
            | none => s.step k (some 0) (fun im c => (im, c))) s0, false, false)
        else if bitOf (w.dw 6) 2 then
          let bytes := (bw b 1).toNat
          if len < bytes ∨ bytes < 64 then .error (9, 0)
          else match blockEntries (bw b 0).toNat ((b.take bytes).drop 64) with
            | none => .error (9, 0)
            | some es => .ok (foldIdx (fun k (s : Streamed) e => s.step k (s.im.skipsEntry e) (fun im c => im.applyEntry sub e c)) 0 s0 es, false, false)
        else
          .ok (foldIdx (fun k (s : Streamed) r =>
            let f := frecOf r
            s.step k (s.im.skips f) (fun im c => im.applyRec sub f c)) 0 s0 (splitRecs (bw b 0).toNat (b.drop 64)),
            bitOf (bw b 1) 4, bitOf (bw b 1) 5)
      match res with
      | .error (c, i) => prsFail x c i 0 0 rdr
      | .ok (s, conf, degr) =>
        let im := { s.im with conflict := s.im.conflict || conf, degraded := s.im.degraded || degr,
                              rangeSat := s.im.rangeSat || s.cnt.sats != 0 }
        let size := imageBytes im.vars.length im.blks.length im.sizes.1 im.sizes.2
        { st := if degr then .doneDegraded else .done, flags := s.cnt.flags ||| flagIf conf fConflict, rdr := rdr,
          r4 := dwN s.done, r5 := dwN s.skip, wr := [im.wr (w.dw 7) size],
          post := fun d =>
            let d := ((d.prsCounts x s.cnt 0).count cPrsSkip s.skip).setImage (w.dw 7) im
            match s.first with
            | some (k, c) => d.event (x.ev 0x84 (d4 := dwN s.skip) (d5 := dwN k) (d6 := dwN c))
            | none => d }

/-- PRS_UPDATE. -/
def updateDef : OpDef :=
  { kind := 6
    resv := fun w => w.f 6 31 4 == 0 && w.f 10 31 19 == 0 && w.zero 11 15
    form := fun js => js.all (fun w =>
      let m := w.f 6 1 0
      decide (m ≤ 2) && (m != 2 || !bitOf (w.dw 6) 2) && (w.dw 9).toNat % 64 == 0 &&
        (if m = 2 then decide (1 ≤ w.f 10 18 0 ∧ w.f 10 18 0 ≤ 262144) else w.f 10 18 0 == 0))
    uses := fun js => js.flatMap (fun w => [Use.rd (w.dw 8), Use.wrAny (w.dw 7)])
    late := fun d js => if js.all (fun w => d.prsSheet (w.dw 7)) then none else some .refusedMalformed
    needs := fun js => (js.filter (fun w => w.f 6 1 0 == 2 || !bitOf (w.dw 6) 2)).map (fun w =>
      (w.dw 8, (w.dw 9).toNat + (if w.f 6 1 0 = 2 then 4 * w.f 10 18 0 else 64)))
    voidOk := fun js => (js.filter (fun w => w.f 6 1 0 != 2)).map (fun w => w.dw 8)
    run := fun d x => d.runUpdate x }

/-! ## PRS_EXTRACT -/

/-- One block-list entry as bytes. -/
def entryBytes (vi vj : Nat) (vec : Bool) (b : Bfx) : Bytes :=
  let raw := (Bfx.bytes b).take (8 + 4 * b.rows * b.cols)
  padTo 64 (leWords [dwN vi, dwN (vj + b2n vec * 2 ^ 31)] ++ raw)

/-- The transpose of a block. -/
def Bfx.tr (b : Bfx) : Bfx :=
  { exp := b.exp, rows := b.cols, cols := b.rows,
    m := (List.range (b.rows * b.cols)).map (fun i => b.m.getD (i % b.rows * b.cols + i / b.rows) 0) }

/-- Execute PRS_EXTRACT (R255). -/
def Dev.runExtract (d : Dev) (x : Desc) : Res :=
  let w := x.w
  let n := w.f 9 18 0
  let rdr := [(w.dw 8, 0, 4 * n)]
  match d.image (w.dw 7) with
  | none => { d.noImage x (w.dw 7) with rdr := rdr }
  | some im =>
    let b := d.rd x (w.dw 8) 0 (4 * n)
    let vs := ((List.range n).map (fun k => bits (bw b k) 17 0)).filterMap (fun v => (im.pos v).map (fun p => (v, p)))
    let hs := vs.zipIdx.flatMap (fun a => (vs.take (a.2 + 1)).filterMap (fun c =>
      let i := a.1.2
      let j := c.2
      (im.blk (max i j) (min i j)).map (fun k =>
        let h := im.h k
        entryBytes a.1.1 c.1 false (if i < j then h.tr else h))))
    let bs := vs.map (fun a => entryBytes a.1 0 true (im.b.getD a.2 (Bfx.zero 0 0 0)))
    let es := hs ++ bs
    let bytes := 64 + es.flatten.length
    if d.szOf (w.dw 10) < bytes then prsFail x 7 0 0 0 rdr
    else
      { r4 := dwN es.length, r5 := dwN bytes, rdr := rdr,
        wr := [(w.dw 10, 0, leWords [dwN es.length, dwN bytes] ++ List.replicate 56 0 ++ es.flatten)] }

/-- PRS_EXTRACT. -/
def extractDef : OpDef :=
  { kind := 6
    resv := fun w => w.zero 6 6 && w.f 9 31 19 == 0 && w.zero 11 15
    form := fun js => js.all (fun w => decide (1 ≤ w.f 9 18 0 ∧ w.f 9 18 0 ≤ 262144))
    uses := fun js => js.flatMap (fun w => [Use.rdAny (w.dw 7), Use.rd (w.dw 8), Use.wr (w.dw 10)])
    late := fun d js => if js.all (fun w => d.prsSheet (w.dw 7)) then none else some .refusedMalformed
    needs := fun js => js.map (fun w => (w.dw 8, 4 * w.f 9 18 0))
    run := fun d x => d.runExtract x }

/-! ## PRS_SOLVE -/

/-- Iteration cap of a shrink level. -/
def solveCap (w : DescWords) (l : Nat) : Nat := if l % 2 = 0 then w.f (7 + l / 2) 8 0 else w.f (7 + l / 2) 24 16

/-- The caps obey R256. -/
def capsOk (w : DescWords) : Bool :=
  (List.range 4).all (fun l =>
    if l ≤ w.maxShrink then decide (1 ≤ solveCap w l ∧ solveCap w l ≤ 256) && (l == 0 || decide (solveCap w l ≤ solveCap w (l - 1)))
    else solveCap w l == 0)

/-- LM_K0. -/
def lmK0 (w : DescWords) : Int := sext 8 (w.f 6 21 14)

/-- FP32 nearest the square root of an exact non-negative value. -/
def fsqrtDy (a : Dy) : DW :=
  if a.m ≤ 0 then 0
  else
    let k : Nat := if a.e % 2 = 0 then 60 else 61
    let n := a.m.toNat * 2 ^ k
    let r := isqrt n
    fround false r ((a.e - k) / 2) (decide (r * r ≠ n))

/-- The dimension a VTYPE has; 0 for a knot or a reserved code. -/
def varDim (t : Nat) : Nat := if t = 1 ∨ t = 3 then 6 else if t = 2 ∨ t = 4 then 3 else 0

/-- A variable record with a step applied (R261): its bytes and the step clamps; `fv` gives the open values of NaN results. -/
def applyStep (fv : Nat → Int) (b : Bytes) (step : FVec) : Bytes × Nat :=
  let t := vtype b
  let w (k : Nat) : DW := bw b k
  let put (l : List DW) (o : Nat) : Bytes := b.take (4 * o) ++ leWords l ++ b.drop (4 * (o + l.length))
  if t = 1 then
    let th := step.take 3
    let dp := step.drop 3
    let n := fsqrt (fdot th th)
    let big := fLt fHalf n
    let th := if big then vscale (fdiv fHalf n) th else th
    let a := poseOf b
    let q := qunit (qmul a.q (qexp th))
    let qs := fixAll fv 0 30 (qpos q)
    let ps := addStep fv 4 a.p (mvec (qrot a.q) dp)
    (put (qs.1.map dwI ++ ps.1.map dwI) 3, b2n big + ps.2)
  else if t = 2 then (put (vadd (wordsAt b 10 3) step) 10, 0)
  else if t = 3 then (put (vadd (wordsAt b 10 6) step) 10, 0)
  else
    let ps := addStep fv 0 ((List.range 3).map (fun k => (w (7 + k)).toInt)) step
    (put (ps.1.map dwI) 7, ps.2)

/-- A mantissa and exponent of a report: M in two words, X. -/
def xsWords (a : Xs) : List DW := [dwI a.m, dwI (a.m / 2 ^ 32), dwI a.x]

/-- The checks before the first iteration that look at content (R257): cause and index. -/
def Dev.solveCheck (d : Dev) (x : Desc) (im : PImage) (vars : Bytes) : Option (Nat × Nat) :=
  let w := x.w
  let (e, dd) := im.sizes
  if w.f 6 1 0 ≠ 2 ∧ im.pcgOnly then some (4, 0)
  else if d.szOf (w.dw 12) < workBytes e dd then some (7, 0)
  else (firstBad (fun _ (v : PVar) =>
    decide (vars.length < 64 * v.var + 64) || varDim (vtype (bslice vars (64 * v.var) 64)) != v.dim) im.vars).map (fun k => (8, k))

/-- The deadline hit recorded for a solve, at its start or at a block step, and its time (R259, R261, R262); a replay does not act on it
(R345). -/
def solveCut (x : Desc) : Option (Nat × Bool × Nat) := if x.phase = .replaying then none else x.cutAt

/-- Execute PRS_SOLVE (R257–R262). -/
def Dev.runSolve (d : Dev) (x : Desc) : Res :=
  let w := x.w
  let n := d.lenOf x (w.dw 10)
  let vars := d.rd x (w.dw 10) 0 n
  let rdr := [(w.dw 10, 0, n)]
  match d.image (w.dw 9) with
  | none =>
    let r := tokenFail x rdr
    { r with post := fun d => (r.post d).count cPrsSolve }
  | some im =>
    match d.solveCheck x im vars with
    | some (c, i) =>
      let r := prsFail x c i 0 0 rdr
      { r with post := fun d => (r.post d).count cPrsSolve }
    | none =>
      let st : PSet := { tau := w.f 6 7 2, lambda := w.f 6 13 8, lm := w.f 6 1 0 == 1, pcg := w.f 6 1 0 == 2 }
      let eps : Option Dy := if w.dw 14 = 0 then none else some ⟨(w.dw 14).toNat, sext 8 (w.f 15 7 0)⟩
      let s := im.solve st (solveCap w x.level) eps (w.f 15 23 8) (lmK0 w) ((solveCut x).map (fun c => (c.1, c.2.1)))
      let hit := ((solveCut x).map (fun c => c.2.2)).getD 0
      let cut := s.stop = .cutBetween ∨ s.stop = .cutWithin
      let lost := (s.stop = .range ∧ s.ret = 0) ∨ (st.lm ∧ (s.stop = .cap ∨ s.stop = .lmLimit) ∧ !s.anyUsable)
      let cnt := s.w.cnt
      let pivots32 := Nat.min cnt.pivots (2 ^ 32 - 1)
      let key := d.openKey x rdr ++ im.key
      let recs := im.vars.zipIdx.map (fun v =>
        let step := (List.range v.1.dim).map (fun r => fofDy (vat s.best.d v.2 r) false)
        (v.1.var, applyStep (fun k => openInt key (8 * v.2 + k)) (bslice vars (64 * v.1.var) 64) step))
      let clamps := sumBy (fun r => r.2.2) recs
      let out := recs.foldl (fun b r => b.take (64 * r.1) ++ r.2.1 ++ b.drop (64 * r.1 + 64)) vars
      let lk := if st.lm then s.lk else 0
      let report := leWords ([dwN (s.stop.code + w.f 6 1 0 * 2 ^ 4 + s.iters * 2 ^ 8 + s.ret * 2 ^ 17), dwN pivots32,
          (cnt.first.map (fun p => dwN (p.1 * 32 + p.2))).getD 0xFFFFFFFF, dwN cnt.sats, dwN cnt.ups, dwI (lk % 256), dwN clamps, 0] ++
        xsWords s.best.g ++ [0] ++ xsWords s.best.rsq ++ [0, if cut then dwN hit else 0, if cut then dwN (hit / 2 ^ 32) else 0] ++
        List.replicate 14 0)
      let nonconv := s.stop = .cap ∨ s.stop = .breakdown ∨ s.stop = .lmLimit
      let flags := cnt.flags ||| flagIf (decide cut) fTimeCut ||| flagIf (decide nonconv) fNotConverged |||
        flagIf (s.stop == .range || clamps != 0 || im.rangeSat) fRangeSat ||| flagIf im.conflict fConflict |||
        flagIf (decide cut && d.mirrored x.ctx) fDiverged
      let status : Status := if lost then .failedRange else if cut then .doneTimeCut else if im.degraded then .doneDegraded else .done
      let nw := d.szOf (w.dw 12)
      let free := d.free
      { st := status, flags := flags, rdr := rdr, r4 := fsqrtDy s.best.rsq.dy, r5 := dwN (s.iters + Nat.min cnt.pivots 65535 * 2 ^ 16),
        wr := (w.dw 12, 0, (List.range nw).map (fun k => Sys2Proof.Config.freeByte (free + k))) ::
          (if lost then [] else [(w.dw 11, 0, out), (w.dw 13, 0, report)]),
        post := fun d =>
          let d := (d.prsCounts x cnt s.pivIt).count cPrsSolve
          let d := { d with free := free + nw }
          if cut then
            let d := d.count cPrsCut
            if bitOf (d.reg 0x10000) 2 then
              d.event (x.ev 0x82 (d4 := dwN s.ret) (d5 := dwN s.iters) (d6 := dwN (b2n (decide (s.stop = .cutWithin)))))
            else d
          else d }

/-- Form of a PRS_SOLVE (R256, its table). -/
def solveForm (w : DescWords) : Bool :=
  let m := w.f 6 1 0
  decide (m ≤ 2) && (if m = 1 then decide (-64 ≤ lmK0 w ∧ lmK0 w ≤ 20) else w.f 6 21 14 == 0) && capsOk w

/-- PRS_SOLVE. -/
def solveDef : OpDef :=
  { kind := 6
    resv := fun w => w.f 6 31 22 == 0 && w.within 7 0x01FF01FF && w.within 8 0x01FF01FF && w.f 15 31 24 == 0
    form := fun js => js.all solveForm
    uses := fun js => js.flatMap (fun w => [Use.rdAny (w.dw 9)] ++ (if w.dw 10 = w.dw 11 then [] else [Use.rd (w.dw 10)]) ++
      [Use.wr (w.dw 11), Use.wrAny (w.dw 12), Use.wr (w.dw 13)])
    late := fun d js => if js.all (fun w => d.prsSheet (w.dw 9) && d.prsSheet (w.dw 12) && decide (128 ≤ d.szOf (w.dw 13)) &&
        ((d.sheet (shIdx (w.dw 10))).zp || decide (d.szOf (w.dw 10) ≤ d.szOf (w.dw 11)))) then none else some .refusedMalformed
    voidOk := fun js => js.map (fun w => w.dw 9)
    run := fun d x => d.runSolve x }

/-! ## PRS_KERNEL -/

/-- Shapes of a kernel: inputs and outputs, none where unused (kernels table). -/
structure KShape where
  i0 : Option (Nat × Nat)
  i1 : Option (Nat × Nat)
  i2 : Option (Nat × Nat)
  o0 : Option (Nat × Nat)
  o1 : Option (Nat × Nat)

/-- The shape a descriptor asks for; none outside the table's limits. -/
def kShape (w : DescWords) : Option KShape :=
  let m := w.f 7 6 0
  let n := w.f 7 13 8
  let k := w.f 7 21 16
  if m = 0 ∨ 64 < m ∨ n = 0 ∨ 32 < n ∨ 32 < k then none
  else match w.f 6 3 0 with
    | 0 => some { i0 := some (n, n), i1 := none, i2 := none, o0 := some (n, n), o1 := none }
    | 1 => some { i0 := some (n, n), i1 := none, i2 := none, o0 := some (n, n), o1 := some (n, 1) }
    | 2 => if m < n then none
      else
        let b := if k = 0 then none else some (m, k)
        some { i0 := some (m, n), i1 := b, i2 := none, o0 := some (n, n), o1 := b }
    | 3 => if k = 0 then none else some { i0 := some (n, n), i1 := some (n, k), i2 := none, o0 := some (n, k), o1 := none }
    | 4 => if 32 < m then none else some { i0 := some (n, n), i1 := some (m, n), i2 := some (m, m), o0 := some (m, m), o1 := none }
    | _ => none

/-- The sheets of a kernel with their shapes. -/
def kSheets (w : DescWords) : List (DW × Option (Nat × Nat) × Bool) :=
  match kShape w with
  | none => []
  | some s => [(w.dw 9, s.i0, false), (w.dw 10, s.i1, false), (w.dw 11, s.i2, false), (w.dw 12, s.o0, true), (w.dw 13, s.o1, true)]

/-- Form of a PRS_KERNEL (R264). -/
def kernelForm (w : DescWords) : Bool :=
  (kShape w).isSome && decide (1 ≤ w.f 8 12 0 ∧ w.f 8 12 0 ≤ 4096) &&
    (kSheets w).all (fun s => (s.1 != 0) == s.2.1.isSome)

/-- One problem's outputs. -/
def runKernel1 (w : DescWords) (p : Nat) (i0 i1 i2 : Bfx) : KOut :=
  let ex (lo : Nat) : Int := sext 8 ((w.dw 14).toNat / 2 ^ lo)
  let st : PSet := { tau := w.f 15 5 0, lambda := w.f 15 13 8, lm := false, pcg := false }
  match w.f 6 3 0 with
  | 0 => kChol st (ex 0) p i0
  | 1 => kLdlt st (ex 0) (ex 8) p i0
  | 2 => kQr (ex 0) (ex 8) (ex 16) p i0 i1
  | 3 => kTrsm (ex 0) p (bitOf (w.dw 6) 4) (bitOf (w.dw 6) 5) i0 i1
  | _ => kSchur (ex 0) (ex 16) p i0 i1 i2

/-- Execute PRS_KERNEL (R264). -/
def Dev.runKernel (d : Dev) (x : Desc) : Res :=
  let w := x.w
  let n := w.f 8 12 0
  match kShape w with
  | none => Res.fail .refusedMalformed
  | some s =>
    let ins := [(w.dw 9, s.i0), (w.dw 10, s.i1), (w.dw 11, s.i2)].filterMap (fun p => p.2.map (fun q => (p.1, q)))
    let rdr := ins.map (fun p => (p.1, 0, n * bfxStride p.2.1 p.2.2))
    let get (h : DW) (q : Option (Nat × Nat)) (p : Nat) : Bfx := match q with
      | some q => Bfx.parse (d.rd x h (p * bfxStride q.1 q.2) (bfxStride q.1 q.2))
      | none => Bfx.zero 0 (w.f 7 6 0) 0
    let okB (b : Bfx) (q : Option (Nat × Nat)) : Bool := match q with | some q => b.rows == q.1 && b.cols == q.2 | none => true
    let probs := (List.range n).map (fun p => (get (w.dw 9) s.i0 p, get (w.dw 10) s.i1 p, get (w.dw 11) s.i2 p))
    match probs.findIdx? (fun p => !(okB p.1 s.i0 && okB p.2.1 s.i1 && okB p.2.2 s.i2)) with
    | some p => prsFail x 10 p 0 0 rdr
    | none =>
      let outs := probs.zipIdx.map (fun p => runKernel1 w p.2 p.1.1 p.1.2.1 p.1.2.2)
      let cnt := outs.foldl (fun (c : PCnt) o =>
        { pivots := c.pivots + o.cnt.pivots, first := if c.first.isSome then c.first else o.cnt.first, sats := c.sats + o.cnt.sats,
          satAt := if c.satAt.isSome then c.satAt else o.cnt.satAt, ups := c.ups + o.cnt.ups }) PCnt.zero
      { r4 := dwN (Nat.min cnt.sats (2 ^ 32 - 1)), r5 := dwN (Nat.min cnt.pivots (2 ^ 32 - 1)), flags := cnt.flags, rdr := rdr,
        wr := (w.dw 12, 0, outs.flatMap (fun o => o.o0.bytes)) ::
          (if w.dw 13 = 0 then [] else [(w.dw 13, 0, outs.flatMap (fun o => ((o.o1.map Bfx.bytes)).getD []))]),
        post := fun d => d.prsCounts x cnt 0 }

/-- PRS_KERNEL. -/
def kernelDef : OpDef :=
  { kind := 6
    resv := fun w => w.f 6 31 6 == 0 && w.within 7 0x003F3F7F && w.f 8 31 13 == 0 && w.f 14 31 24 == 0 && w.within 15 0x00003F3F
    form := fun js => js.all kernelForm
    uses := fun js => js.flatMap (fun w => ((kSheets w).filter (fun s => s.2.1.isSome)).map (fun s => if s.2.2 then Use.wr s.1 else Use.rd s.1))
    late := fun d js => if js.all (fun w => (kSheets w).all (fun s => match s.2.1 with
        | some q => (d.sheet (shIdx s.1)).tier == 0 && decide (w.f 8 12 0 * bfxStride q.1 q.2 ≤ d.szOf s.1)
        | none => true)) then none else some .refusedMalformed
    axes := fun _ x => batchAxes (x.w.f 8 12 0)
    run := fun d x => d.runKernel x }

end Sys2Proof.Machine
end

