-- ==== Sys2Proof/Machine/Movers.lean ====
section
/-! DEFINITION. Sheet opcodes and movers: SHEET_ALLOC, SHEET_FREE, SHEET_PIN, EVICT (R51–R53, R69), MOVE (R59–R61), segments and
copies becoming present (R61, R66, R68, R72), and CRC_CHECK (R338). -/

namespace Sys2Proof.Machine

/-! ## SHEET_ALLOC (R51, R52) -/

/-- SIZE of a SHEET_ALLOC: its own, or the slots of a ribbon. -/
def allocSize (w : DescWords) : Nat := if bitOf (w.dw 6) 10 then (w.dw 8).toNat * w.f 9 12 0 else w.q 8

/-- Reserved bits of SHEET_ALLOC. -/
def allocResv (w : DescWords) : Bool :=
  w.f 6 31 13 == 0 && w.within 7 0xFF3F && w.zero 12 15 && (!bitOf (w.dw 6) 10 || w.f 9 31 16 == 0)

/-- Reserved encodings and field ranges of SHEET_ALLOC (R52). -/
def allocForm (w : DescWords) : Bool :=
  let tier := w.f 6 1 0
  let place := w.f 6 3 2
  let part := w.f 6 7 4
  let rib := bitOf (w.dw 6) 10
  let host := w.q 10
  w.f 6 9 8 != 3 && place != 3 && (decide (tier = 1) || place == 0) &&
    decide (part ≤ 10) && ((decide (tier = 1) && place == 0) || part == 0) &&
    (!rib || decide (tier = 0)) && (!bitOf (w.dw 6) 12 || decide (tier ≠ 0)) &&
    (if rib then
      decide (64 ≤ (w.dw 8).toNat ∧ (w.dw 8).toNat ≤ 65536 ∧ (w.dw 8).toNat % 64 = 0 ∧ 4 ≤ w.f 9 12 0 ∧ w.f 9 12 0 ≤ 4096 ∧
        1 ≤ w.f 9 15 13 ∧ w.f 9 15 13 ≤ 4)
    else decide (w.q 8 ≠ 0)) &&
    (if tier = 3 then decide (host ≠ 0 ∧ host % 4096 = 0) else decide (host = 0))

/-- The checks of SHEET_ALLOC beyond its class and target (R52). -/
def Dev.checkAlloc (d : Dev) (w : DescWords) : Option Status :=
  let tier := w.f 6 1 0
  let c := w.f 7 5 0
  let charge := chargeOf tier (allocSize w)
  let priv : Bool := decide (tier = 1 ∧ w.f 6 3 2 = 0)
  if !allocForm w then some .refusedMalformed
  else if priv && !partPresent d.board.variant (w.f 6 7 4) then some .refusedUnitAbsent
  else if tier = 2 ∧ d.board.variant = .bl6440 then some .refusedUnitAbsent
  else if !d.live c (BitVec.ofNat 8 (w.f 7 15 8)) then some .refusedContextGone
  else if tier < 3 ∧ (d.quota c tier < d.useOf c tier + charge ∨ d.tierFree tier < charge) then some .refusedQuota
  else if tier = 1 ∧ ¬ d.t2Fits (w.f 6 3 2) (w.f 6 7 4) charge then some .refusedQuota
  else if 0x3F0000 ≤ lowestFree d.sheets 0 then some .refusedQuota
  else none

/-- SHEET_ALLOC allocates the lowest free index: the device after, the handle and the charge. -/
def Dev.allocSheet (d : Dev) (w : DescWords) : Dev × DW × DW :=
  let i := lowestFree d.sheets 0
  let rib := bitOf (w.dw 6) 10
  let tier := w.f 6 1 0
  let s : Sheet :=
    { Sheet.reset with
      live := true
      gen := (d.sheet i).gen
      tier := tier
      place := w.f 6 3 2
      part := w.f 6 7 4
      access := w.f 6 9 8
      ribbon := rib
      pin := bitOf (w.dw 6) 11
      zp := bitOf (w.dw 6) 12
      ctx := w.f 7 5 0
      ctxGen := BitVec.ofNat 8 (w.f 7 15 8)
      size := allocSize w
      rowBytes := if rib then (w.dw 8).toNat else 0
      rows := if rib then w.f 9 12 0 else 0
      readers := if rib then w.f 9 15 13 else 0
      host := w.q 10
      tok := if tier = 3 then .set else .empty }
  let d := d.setSheet i s
  (d, d.handleOf i, dwN s.charge)

/-! ## SHEET_FREE (R53) -/

/-- The checks of SHEET_FREE beyond its class and target (R49 items 1 and 2, R51). -/
def Dev.checkFree (d : Dev) (w : DescWords) : Option Status :=
  if !w.zero 7 15 then some .refusedMalformed
  else match d.handleStatus (w.dw 6) with
    | some st => some st
    | none => if isLanding (shIdx (w.dw 6)) then some .refusedMalformed else none

/-- SHEET_FREE_COMPLETE (R53): nothing accepted earlier names the sheet any more; its space and charge return. -/
def sheetFreeComplete (id : Nat) (d : Dev) : Dev :=
  match (d.desc? id).map (fun (x : Desc) => x.await_) with
  | some (.free i []) => if d.freeable i then (d.returnSheet i).endDesc id { st := .done } else d
  | _ => d

/-! ## SHEET_PIN and EVICT (R67–R69) -/

/-- The checks of SHEET_PIN and EVICT (R49, R69). -/
def Dev.checkPin (d : Dev) (w : DescWords) : Option Status :=
  match d.handleStatus (w.dw 6) with
    | some st => some st
    | none =>
      if !d.live (w.f 7 13 8) (BitVec.ofNat 8 (w.f 7 23 16)) then some .refusedContextGone
      else if (d.sheet (shIdx (w.dw 6))).tier ≤ w.f 7 2 1 then some .refusedMalformed else none

/-- SHEET_PIN: whether the copy's pins changed. -/
def Dev.runPin (d : Dev) (w : DescWords) : Dev × Bool :=
  let c := w.f 7 13 8
  match d.copyOf (shIdx (w.dw 6)) (w.f 7 2 1) with
  | none => (d, false)
  | some k =>
    match d.copy? k with
    | none => (d, false)
    | some x =>
      let mine := x.owner == some c || x.hasRef c
      let want := bitOf (w.dw 7) 0
      if !mine || x.pins.contains c == want then (d, false)
      else (d.modCopy k (fun x => { x with pins := if want then x.pins ++ [c] else x.pins.filter (· != c) }), true)

/-- EVICT: on a copy that is not PRESENT it waits (R68). On a copy that the context's plan holds it changes nothing and completes DONE
with DW4 = 0 (R70; DESIGN CHOICE, log 87). -/
def Dev.runEvict (d : Dev) (x : Desc) : Dev :=
  let w := x.w
  let c := w.f 7 13 8
  let fin (d : Dev) (ch : Bool) : Dev := d.endDesc x.id { st := .done, r4 := dwN (b2n ch) }
  match d.copyOf (shIdx (w.dw 6)) (w.f 7 2 1) with
  | none => fin d false
  | some k =>
    match d.copy? k with
    | none => fin d false
    | some y =>
      if y.owner ≠ some c ∧ ¬ y.hasRef c then fin d false
      else if y.st = .present then let r := d.evictBy k c; fin r.2 r.1
      else (d.modCopy k (fun y => { y with evicts := y.evicts ++ [(c, some x.id)] })).modDesc x.id
        (fun z => { z with await_ := .copy k true })

/-! ## MOVE (R59–R63) -/

/-- The variant's movement grain: 1 tiles (R60). -/
def Variant.grain : Variant → Nat
  | .bl6440 => 1
  | _ => 0

/-- Reserved bits of a MOVE. -/
def moveResv (w : DescWords) : Bool := w.f 8 31 4 == 0 && w.within 9 0xFF3F

/-- The offsets and the length of a MOVE are multiples of 64. -/
def moveForm (w : DescWords) : Bool := decide (w.q 10 % 64 = 0 ∧ w.q 12 % 64 = 0 ∧ w.q 14 % 64 = 0)

/-- The context a MOVE names, when it names one. -/
def moveCtx (w : DescWords) : Option Nat := if w.f 9 15 8 = 0 then none else some (w.f 9 5 0)

/-- The sheets a MOVE uses. -/
def moveUses (w : DescWords) : List Use := Use.rdAny (w.dw 6) :: (if w.dw 7 = 0 then [] else [Use.wrAny (w.dw 7)])

/-- Plain bytes a MOVE moves, by the length of its source. -/
def moveLen (w : DescWords) (srcLen : Nat) : Nat := if w.q 14 = 0 then srcLen - w.q 10 else w.q 14

/-- The checks of R60 and R61 beyond R49. -/
def Dev.checkMove (d : Dev) (w : DescWords) : Option Status :=
  let s := d.sheet (shIdx (w.dw 6))
  let t := d.sheet (shIdx (w.dw 7))
  let promo : Bool := decide (w.dw 7 = 0)
  let pack := bitOf (w.dw 8) 3
  let len := moveLen w s.size
  let past : Bool := (!s.zp && decide (s.size < w.q 10 + len ∨ len = 0)) ||
    (!pack && (!s.zp || decide (w.q 14 ≠ 0)) && decide (t.size < w.q 12 + len))
  -- a stream's plain length is known only when the move runs
  let tile : Bool := !(s.zp && decide (w.q 14 = 0)) && d.pastTile s.tier (if promo then w.f 8 1 0 else t.tier) (if promo then s.size else len)
  if !moveForm w ∨ w.f 8 2 2 ≠ d.board.variant.grain ∨ tile then some .refusedMalformed
  else if s.ribbon then some .refusedMalformed
  else if promo then
    if s.tier ≤ w.f 8 1 0 ∨ w.q 10 ≠ 0 ∨ w.q 12 ≠ 0 ∨ w.q 14 ≠ 0 ∨ pack ∨ (moveCtx w).isNone then some .refusedMalformed
    else if !d.live (w.f 9 5 0) (BitVec.ofNat 8 (w.f 9 15 8)) then some .refusedContextGone
    else if w.f 8 1 0 = 2 ∧ d.board.variant = .bl6440 then some .refusedUnitAbsent else none
  else if t.ribbon ∨ past ∨ (pack ∧ (¬ t.zp ∨ t.tier = 0)) ∨ w.f 8 1 0 ≠ 0 ∨ w.dw 6 = w.dw 7 ∨ (s.zp ∧ w.q 10 ≠ 0) ∨
    (t.zp ∧ w.q 12 ≠ 0) ∨ ((moveCtx w).isNone ∧ w.f 9 5 0 ≠ 0) then some .refusedMalformed
  else if (moveCtx w).isSome ∧ ¬ d.live (w.f 9 5 0) (BitVec.ofNat 8 (w.f 9 15 8)) then some .refusedContextGone
  else none

/-- Bytes of a ZERO-PACK stream's entries, none when one is malformed. -/
def zpSpan : Nat → Bytes → Option Nat
  | 0, _ => some 0
  | n + 1, b =>
    match zpUnpack b with
    | none => none
    | some (_, k) => if k ≤ b.length then (zpSpan n (b.drop k)).map (k + ·) else none

/-- Bytes of a ZERO-PACK home that its expansion reads: its stream, or the whole sheet where an entry is malformed. -/
def Dev.streamLen (d : Dev) (i : Nat) : Nat :=
  let b := d.plainRead i 0 (d.sheet i).size
  ((zpSpan (bnat b 8 4) (b.drop 16)).map (fun n => 16 + n)).getD (d.sheet i).size

/-- The whole plain content of a home sheet: its bytes as stored, or its stream decoded and expanded; none for a malformed stream
(R63, R331). -/
def Dev.homePlain (d : Dev) (i : Nat) : Option Bytes :=
  let s := d.sheet i
  if !s.zp then some (d.rawRead i 0 s.size)
  else
    let b := d.plainRead i 0 s.size
    match zpSpan (bnat b 8 4) (b.drop 16) with
    | some n => zpExpand (b.take (16 + n))
    | none => none

/-- What a mover decodes when it copies a whole home sheet: the stream of a ZERO-PACK home, nothing of a plain one (R331). -/
def Dev.decodeHome (d : Dev) (i : Nat) (tag : BitVec 16) (c : Option Nat) : Dev × BitVec 16 × Bool :=
  if (d.sheet i).zp then d.eccHome i 0 (d.streamLen i) tag c else (d, 0, false)

/-- Bytes sent to host memory: an unusable word is written as all ones (R334). -/
def Dev.toHost (d : Dev) (i off : Nat) (b : Bytes) : Bytes × Bool :=
  (d.sheet i).synd.foldl (fun acc p =>
    match (eccSynd 0 p.2).1 with
    | .poison | .uncorrectable =>
      if off ≤ p.1 * 8 + 7 ∧ p.1 * 8 < off + b.length then
        ((List.range acc.1.length).map (fun k => if (off + k) / 8 = p.1 then 0xFF else acc.1.getD k 0), true) else acc
    | _ => acc) (b, false)

/-- Carry the check bits of copied words: syndromes of the source range at the destination (R331). -/
def Dev.carrySynd (d : Dev) (src srcOff dst dstOff n : Nat) : Dev :=
  let l := (d.sheet src).synd.filter (fun p => decide (srcOff / 8 ≤ p.1) && decide (p.1 * 8 < srcOff + n))
  d.modSheet dst (fun t => { t with synd := l.foldl (fun t p => Tab.set t (p.1 - srcOff / 8 + dstOff / 8) p.2) t.synd })

/-- A MOVE to a named destination with its tokens held (R59–R61, R63, R331, R334). What only the stream's header tells is checked
here. -/
def Dev.runMove (d : Dev) (x : Desc) : Dev :=
  let w := x.w
  let i := shIdx (w.dw 6)
  let j := shIdx (w.dw 7)
  let s := d.sheet i
  let t := d.sheet j
  let pack := bitOf (w.dw 8) 3
  let fail (d : Dev) : Dev := d.endDesc x.id { st := .failedCheck }
  if s.zp then
    let r := d.decodeHome i w.tag (some x.ctx)
    let d := r.1
    let fl := r.2.1
    let fail (d : Dev) (st : Status) : Dev := d.endDesc x.id { st := st, flags := fl }
    if r.2.2 then fail d .failedUncorrectable
    else match d.homePlain i with
      | none => fail (d.count cZpFail) .failedCheck
      | some p =>
        let b := if w.q 14 = 0 then p else p.take (w.q 14)
        let o := if pack then zpStream b else b
        if p.length < w.q 14 then fail d .failedCheck
        else if d.pastTile s.tier t.tier b.length then fail d .refusedMalformed
        else if t.size < w.q 12 + o.length then fail d .failedCheck
        else d.conclude x { flags := fl, r4 := dwN b.length, wr := [(w.dw 7, w.q 12, o)] }
  else
    let len := moveLen w s.size
    let raw := d.rawRead i (w.q 10) len
    let r : Res := { r4 := dwN len }
    if pack then
      let o := zpStream (d.rd x (w.dw 6) (w.q 10) len)
      if t.size < w.q 12 + o.length then fail d
      else d.conclude x { r with rdr := [(w.dw 6, w.q 10, len)], wr := [(w.dw 7, w.q 12, o)] }
    else if t.tier = 3 then
      let h := d.toHost i (w.q 10) (d.rd x (w.dw 6) (w.q 10) len)
      let (d, fl, bad) := d.eccDecodeReads x [(w.dw 6, w.q 10, len)]
      let d := d.applyWr x (w.dw 7, w.q 12, h.1)
      d.endDesc x.id { r with st := if bad ∨ h.2 then .failedUncorrectable else .done, flags := fl }
    else d.conclude x { r with wr := [(w.dw 7, w.q 12, raw)], post := fun d => d.carrySynd i (w.q 10) j (w.q 12) len }

/-- A MOVE that promotes, its read of SRC granted (R61, R66): it joins a copy that exists, or starts one and waits for it. -/
def Dev.runPromote (d : Dev) (x : Desc) : Dev :=
  let w := x.w
  let i := shIdx (w.dw 6)
  let c := w.f 9 5 0
  let wait (d : Dev) (k : Nat) : Dev := d.modDesc x.id (fun y => { y with await_ := .copy k false, phase := .dispatched })
  match d.copyNow i (w.f 8 1 0) with
  | some k =>
    let d := d.modCopy k (fun y => y.use c d.now)
    if ((d.copy? k).map (fun y => y.st == .present)).getD false then d.endDesc x.id { st := .done } else wait d k
  | none =>
    match d.promote i (w.f 8 1 0) c (moverOf w.target) x.cls x.id with
    | (d, .ok k) => wait d k
    | (d, .error st) => d.endDesc x.id { st := st }

/-! ## Movers at work (R61, R66, R68, R72) -/

/-- The stall of a descriptor that waited for copies has ended (R72): PREFETCH_LATE, LATE_CNT, and TEN_LAYER_STALL for a layer,
naming the home whose copy became PRESENT last, the lower INDEX of two at one moment. -/
def Dev.stallEnd (d : Dev) (id : Nat) : Dev :=
  match d.desc? id with
  | none => d
  | some x =>
    match x.stallAt with
    | none => d
    | some t =>
      let cs := x.copies.filterMap (fun p => (d.copy? p.2).map (fun c => (p.1, c)))
      if !cs.all (fun p => p.2.filled) then d
      else
        let last := (bestBy (fun (a b : Nat × Copy) =>
          decide (b.2.presentAt < a.2.presentAt ∨ (a.2.presentAt = b.2.presentAt ∧ a.1 < b.1))) cs).map (·.1)
        let d := (d.modDesc id (fun y => { y with stallAt := none, flags := y.flags ||| fPrefetchLate })).count cLate
        if x.w.opc = 0x30 then
          (d.count cTenStall).event (x.ev 0x63 (dwN (x.w.f 6 15 0)) (dwN (d.now - t)) (dwN (last.getD 0)))
        else d

/-- Work of a mover that is done leaves it. -/
def Dev.nextJob (d : Dev) (m : Nat) : Option MoveJob := (d.mover m).jobs.head?

/-- The EVICTs that wait for a copy which is dropped: there is no copy to evict, and they complete DONE (R68, R69). -/
def Dev.endEvicts (d : Dev) (k : Nat) : Dev :=
  ((d.descs.filter (fun x => x.await_ == .copy k true)).map (·.id)).foldl (fun d id => d.endDesc id { st := .done }) d

/-- A promotion that ends without a copy: the descriptors that wait for it and the MOVEs that await it end with a status. -/
def Dev.endCopy (d : Dev) (k : Nat) (st : Status) (fl : BitVec 16 := 0) : Dev :=
  match d.copy? k with
  | none => d
  | some c =>
    let moves := (d.descs.filter (fun x => x.await_ == .copy k false)).map (·.id)
    ((c.users ++ moves).foldl (fun d id => d.endDesc id { st := st, flags := fl }) (d.dropCopy k)).endEvicts k

/-- A promotion that waits is judged again: it starts, goes on waiting, or is refused (R66). -/
def Dev.rejudge (d : Dev) (k : Nat) : Dev :=
  match d.copy? k with
  | none => d
  | some c =>
    if c.st ≠ .waiting then d
    else
      let r := d.makeRoom (c.owner.getD 0) c.tier (chargeOf c.tier (d.plainLen c.home))
      match r.2 with
      | .never => r.1.endCopy k .refusedQuota
      | .later => r.1
      | .now => if r.1.copyRead c then r.1.startCopy k else r.1

/-- The evictions that waited for a copy to be PRESENT act, and the promotions that waited for what they free are judged again, in
order (R66, R68). -/
def Dev.actEvicts (d : Dev) (k : Nat) (c : Copy) : Dev :=
  let d := c.evicts.foldl (fun d e =>
    let r := d.evictBy k e.1
    match e.2 with
    | some id => r.2.endDesc id { st := .done, r4 := dwN (b2n r.1) }
    | none => r.2) d
  let who := (c.evicts.filter (fun e => e.2.isNone)).map (·.1)
  ((d.copies.filter (fun p => p.2.st == .waiting && p.2.tier == c.tier && who.any (fun o => p.2.owner == some o))).map (·.1)).foldl
    (fun d j => d.rejudge j) d

/-- Set a flag on the descriptors a promotion serves: those that wait for the copy, and the MOVEs that await it. -/
def Dev.flagCopy (d : Dev) (k : Nat) (users : List Nat) (fl : BitVec 16) : Dev :=
  { d with descs := mapIf (fun x => users.contains x.id || x.await_ == .copy k false) (fun x => { x with flags := x.flags ||| fl }) d.descs }

/-- COPY_PRESENT (R60, R63, R68, R72, R331, R333, R402): a promotion whose segments are moved becomes PRESENT; the evictions that waited for
it act; MOVEs that await it complete. A malformed stream, or one with an unusable word, makes no copy. The copy of a freed home is freed
as soon as its readers allow (R53). -/
def copyPresent (k : Nat) (d : Dev) : Dev :=
  match d.copy? k with
  | none => d
  | some c =>
    if c.st ≠ .promoting ∨ d.movers.toList.any (fun m => m.jobs.any (fun j => j.own == .copy k)) then d
    else
      let x := d.desc? c.order
      let r := d.decodeHome c.home ((x.map (·.w.tag)).getD 0) (x.map (·.ctx))
      let d := r.1.flagCopy k c.users r.2.1
      if r.2.2 then d.endCopy k .failedUncorrectable
      else match d.homePlain c.home with
        | none => (d.count cZpFail).endCopy k .failedCheck
        | some b =>
          let s := d.sheet c.home
          if d.pastTile s.tier c.tier b.length then d.endCopy k .refusedMalformed
          else
            let d := d.modCopy k (fun c => { c with
              st := .present
              cells := Mem.write [] 0 b
              synd := if s.zp then [] else s.synd
              stamp := d.now
              presentAt := d.now
              size := b.length
              evicts := [] })
            let d := d.count cPromote
            -- the promotion's own reader token of the home ends, unless it is a MOVE's
            let d := if x.isSome then d else d.modSheet c.home (fun s => s.release c.order .done)
            let d := c.users.foldl (fun d id => d.stallEnd id) d
            let ids := (d.descs.filter (fun x => x.await_ == .copy k false)).map (fun x => (x.id, x.id == c.order))
            let d := ids.foldl (fun d p =>
              d.endDesc p.1 { st := .done, r4 := dwN (if p.2 then b.length else 0) }) d
            let d := d.actEvicts k c
            if (d.sheet c.home).freeing ∧ ((d.copy? k).map (fun y => y.st == .present)).getD false then (d.drainCopy k).sweepFree else d

/-- The sheets a CRC_CHECK reads. -/
def crcUses (w : DescWords) : List Use := Use.rdAny (w.dw 7) :: (if bitOf (w.dw 6) 4 then [Use.rdAny (w.dw 13)] else [])

/-- The work of a mover touches an ALL sheet whose access stalls (R47). -/
def Dev.jobStalled (d : Dev) (j : MoveJob) : Bool :=
  match j.own with
  | .copy k => ((d.copy? k).map (fun c => d.stalled c.home)).getD false
  | .desc id => ((d.desc? id).map (fun x => (if x.w.opc = 0x7C then crcUses x.w else moveUses x.w).any (fun u => d.stalled (shIdx u.h)))).getD false

/-! ## CRC_CHECK (R337, R338) -/

/-- Fields of a CRC_CHECK. -/
def crcForm (w : DescWords) : Bool :=
  let p := w.f 6 2 0
  let compute := bitOf (w.dw 6) 3
  let inSheet := bitOf (w.dw 6) 4
  decide (1 ≤ p ∧ p ≤ 4) && (!compute || !inSheet) && decide (1 ≤ w.q 10 ∧ w.q 10 ≤ 2 ^ 40) &&
    (if !compute && !inSheet then decide ((w.dw 12).toNat < 2 ^ (8 * crcBytes p)) else w.dw 12 == 0) &&
    (if inSheet then decide ((w.dw 14).toNat % 4 = 0) else w.dw 13 == 0 && w.dw 14 == 0)

/-- The checks of R338 beyond R49. -/
def Dev.checkCrc (d : Dev) (w : DescWords) : Option Status :=
  let s := d.sheet (shIdx (w.dw 7))
  let e := d.sheet (shIdx (w.dw 13))
  if !crcForm w ∨ s.ribbon ∨ s.tier = 3 ∨ s.size < w.q 8 + w.q 10 ∨ (bitOf (w.dw 6) 4 ∧ (e.tier ≠ 0 ∨ e.size < (w.dw 14).toNat + 4)) then
    some .refusedMalformed else none

/-- CRC_CHECK on a pool unit, with its tokens held. -/
def Dev.runCrc (d : Dev) (x : Desc) (unit : Nat) : Dev :=
  let w := x.w
  let p := w.f 6 2 0
  let v := crcOf p (d.rd x (w.dw 7) (w.q 8) (w.q 10))
  let inSheet := bitOf (w.dw 6) 4
  let exp := if inSheet then d.rdW x (w.dw 13) (w.dw 14).toNat else w.dw 12
  let rdr := (w.dw 7, w.q 8, w.q 10) :: (if inSheet then [(w.dw 13, (w.dw 14).toNat, 4)] else [])
  let bad : Bool := !bitOf (w.dw 6) 3 && decide (v ≠ exp)
  d.conclude x { st := if bad then .failedCheck else .done, r4 := v, rdr := rdr, post := fun d =>
    let d := d.count cCrcJob
    if bad then d.crcMismatch unit p exp v w.tag w.target (some x.ctx) else d }

/-! ## Segments (R61, R305) -/

/-- MOVER_SEGMENT_DONE (R61): a mover has moved, or checked, a segment of the work at its head; work without segments left is done. -/
def moverSegmentDone (m : Nat) (d : Dev) : Dev :=
  let x := d.mover m
  match x.jobs with
  | [] => d
  | j :: rest =>
    if x.resetAt.isSome ∨ x.oos ∨ d.jobStalled j then d
    else if 1 < j.segs then
      -- a request of lower class or earlier acceptance starts at the next segment boundary
      d.modMover m (fun x => { x with jobs := insertBy jobLe { j with segs := j.segs - 1, running := true } rest }.begin_)
    else
      let d := d.modMover m (fun x => { x with jobs := rest }.begin_)
      match j.own with
      | .copy _ => d
      | .desc id => match d.desc? id with
        | some x => if x.w.opc = 0x7C then d.runCrc x ((d.crcUnit id).getD 6) else d.runMove x
        | none => d

/-- A MOVE to a destination with its tokens held goes to the queue of its mover. -/
def Dev.startMove (d : Dev) (x : Desc) : Dev :=
  let m := moverOf x.w.target
  let n := segsOf (moveLen x.w (d.sheet (shIdx (x.w.dw 6))).size)
  (d.addJob m { own := .desc x.id, cls := x.cls, order := x.id, segs := n, running := false }).modDesc x.id
    (fun y => { y with phase := .dispatched })

end Sys2Proof.Machine
end

