-- ==== Sys2Proof/Machine/Security.lean ====
section
/-! DEFINITION. Security (chapter 15): firmware images and their installation (R354, R355, R361–R363), owner records (R360), the
measured log (R365, R366), quotes (R367) and map archives (R368–R371). -/

namespace Sys2Proof.Machine

/-! ## Signatures (R353) -/

/-- The bytes of an ASCII string. -/
def asciiOf (s : String) : Bytes := s.toList.map (fun c => BitVec.ofNat 8 c.toNat)

/-- A structure was rejected: counted, and SEC_REJECTED with object and reason; `x` is the descriptor it came from, if any. -/
def Dev.secReject (d : Dev) (x : Option Desc) (obj reason : Nat) : Dev :=
  let d := d.count cSecVerify
  match x with
  | some x => d.event (x.ev 0xE1 (dwN (obj + reason * 16)))
  | none => d.event { code := 0xE1, d4 := dwN (obj + reason * 16) }

/-! ## The measured log (R365, R366) -/

/-- The log holds its last entry. -/
def Dev.measFull (d : Dev) : Bool := decide (256 ≤ d.sec.log.length)

/-- A log entry. -/
def logEntry (kind index time : Nat) (dg : Digest) : Bytes :=
  toLe kind 4 ++ toLe index 4 ++ toLe time 8 ++ List.replicate 16 0 ++ Digest.bytes dg

/-- Append one entry and extend the chain. -/
def Sec.append (s : Sec) (e : Bytes) : Sec := { s with log := s.log ++ [e], chain := sha3 (Digest.bytes s.chain ++ e) }

/-- Measure an event before it takes effect; the entry after entry 254 is the one that says the log is full. -/
def Dev.addLog (d : Dev) (kind : Nat) (dg : Digest) : Dev :=
  if d.measFull then d
  else
    let t := if d.tb.valid then d.now else 0
    let s := d.sec.append (logEntry kind d.sec.log.length t dg)
    { d with sec := if s.log.length = 255 then s.append (logEntry 0xFF 255 t 0) else s }

/-! ## Firmware images (R354, R355) -/

/-- Bytes of an image, by its header. -/
def fwBytes (b : Bytes) : Nat := 256 + bnat b 16 4 + 1952 + 3309
/-- The measurement of an image. -/
def fwMeas (b : Bytes) : Digest := sha3 (b.take (256 + bnat b 16 4 + 1952))
/-- SVN of an image. -/
def fwSvn (b : Bytes) : DW := bw b 2
/-- Bit of VARIANTS for a variant. -/
def Variant.fwBit : Variant → Nat
  | .bl6480 => 0 | .bl6460 => 1 | .bl6440 => 2

/-- Words of a byte string that must be zero. -/
def zeroWords (b : Bytes) (l : List Nat) : Bool := l.all (fun k => bw b k == 0)
/-- Numbers from `a` up to but not including `b`. -/
def upTo (a b : Nat) : List Nat := (List.range (b - a)).map (· + a)

/-- The reason an image is not valid (R355), none when it is: 0 format, 1 key, 2 signature, 3 SVN, 4 variant. -/
def fwBad (vt : Vault) (v : Variant) (b : Bytes) : Option Nat :=
  let n := bnat b 16 4
  let key := bslice b (256 + n) 1952
  if b.length < 256 ∨ bw b 0 ≠ 0x4A465731 ∨ bw b 1 ≠ 1 ∨ n % 64 ≠ 0 ∨ bits (bw b 3) 31 3 ≠ 0 ∨
    ¬ zeroWords b (upTo 5 8 ++ upTo 16 64) ∨ 2 ^ 24 < fwBytes b ∨ b.length < fwBytes b then some 0
  else if sha3 key ≠ vt.rootKey then some 1
  else if !Config.mldsaVerify key (fwMeas b) (asciiOf "JGR-FW") (bslice b (256 + n + 1952) 3309) then some 2
  else if !bitOf (bw b 3) v.fwBit then some 4
  else if fwSvn b < vt.rollback then some 3
  else none

/-- The image in a flash slot. -/
def Vault.slot (v : Vault) (b : Bool) : Bytes := if b then v.flashB else v.flashA
/-- Write a flash slot. -/
def Vault.setSlot (v : Vault) (b : Bool) (x : Bytes) : Vault := if b then { v with flashB := x } else { v with flashA := x }

/-- Begin to stage a valid image into the slot that is not running: that slot is invalid and the running one preferred until
the slot is written (R362). -/
def Dev.startStage (d : Dev) (image : Bytes) (owner : Option Nat) (tag : BitVec 16) : Dev :=
  let dst := !d.sec.slotB
  { d with
    vault := (d.vault.setSlot dst []).update (fun r => { r with preferred := d.sec.slotB })
    sec := { d.sec with staging := some { slotB := dst, image := image.take (fwBytes image), owner := owner, tag := tag } } }

/-- FIRMWARE_STAGE_DONE (R357, R362): the slot is written and read back; in recovery it becomes the preferred slot. -/
def firmwareStageDone (d : Dev) : Dev :=
  match d.sec.staging with
  | none => d
  | some g =>
    let v := d.vault.setSlot g.slotB g.image
    let d := { d with
      vault := if d.sec.recovery then v.update (fun r => { r with preferred := g.slotB }) else v
      sec := { d.sec with staging := none, staged := true } }
    let ev : Ev := { code := 0xE0, d4 := dwN (b2n g.slotB), d5 := fwSvn g.image }
    match g.owner with
    | some id =>
      let d := match d.desc? id with
        | some x => d.event { ev with tag := x.w.tag, ctx := some x.ctx }
        | none => d.event ev
      d.endDesc id { st := .done }
    | none => (d.event ev).emitOut (.service .done g.tag 0 [])

/-! ## Owner records (R360) -/

/-- The installed owner record. -/
def Vault.installed (v : Vault) : Option OwnerRec := v.installedSeq.map (·.2)

/-- The reason a record is not installed, none when it is. -/
def ownerBad (v : Vault) (b : Bytes) : Option Nat :=
  let newKey := bslice b 256 1312
  let signer := bslice b 1568 1312
  let keyOk : Bool := match v.ownerKey with
    | some k => decide (sha3 signer = k)
    | none => decide (signer = newKey) && v.openClaim
  if b.length < 5300 ∨ bw b 0 ≠ 0x4F574E31 then some 0
  else if !keyOk then some 1
  else if !Config.mldsaVerify signer (sha3 (b.take 2880)) (asciiOf "JGR-OWN") (bslice b 2880 2420) then some 2
  else if !(match v.installed with
    | some r => decide (r.svn < bw b 1)
    | none => true) then some 3
  else if bits (bw b 3) 31 1 ≠ 0 ∨ ¬ zeroWords b (upTo 4 8 ++ upTo 16 64) then some 0
  else none

/-- The record a byte string holds. -/
def ownerOf (b : Bytes) : OwnerRec :=
  { svn := bw b 1, minMap := bw b 2, vendorDebug := bitOf (bw b 3) 0, debugKey := BitVec.ofNat 256 (bnat b 32 32),
    digest := sha3 (b.take 5300) }

/-- Install a record: in force at the next PERST_N; the owner key digest is NEW_KEY's. Both records are updated as R359 says: the
copy that is not in force is written with SEQ + 1. -/
def Vault.install (v : Vault) (b : Bytes) : Vault :=
  let c := some ((v.installedSeq.map (·.1)).getD 0 + 1, ownerOf b)
  let v' := if v.ownerA.isSome ∧ v.ownerA = v.installedSeq then { v with ownerB := c } else { v with ownerA := c }
  v'.update (fun r => { r with ownerKey := some (sha3 (bslice b 256 1312)) })

/-! ## SEC_INSTALL (R361–R363) -/

/-- The fields of a SEC_INSTALL its ACTION does not use are zero, SRC_OFFSET a multiple of 64. -/
def installForm (w : DescWords) : Bool :=
  let a := w.f 6 1 0
  let src := decide (a = 0 ∨ a = 3)
  (decide (a = 1) || !bitOf (w.dw 6) 2) && (src || w.zero 7 10) && (!src || decide (w.q 8 % 64 = 0))

/-- The checks of SEC_INSTALL beyond its class and its sheet. -/
def Dev.checkInstall (d : Dev) (w : DescWords) : Option Status :=
  let a := w.f 6 1 0
  if !installForm w then some .refusedMalformed
  else if (a = 0 ∨ a = 3) ∧ (d.sheet (shIdx (w.dw 7))).size < w.q 8 + (w.dw 10).toNat then some .refusedMalformed
  else if d.sec.staging.isSome then some .refusedDisabled else none

/-- SEC_INSTALL with its reader token held. Only one installation runs at a time, whatever was accepted meanwhile (R362). -/
def Dev.runInstall (d : Dev) (x : Desc) : Dev :=
  let w := x.w
  let b := d.rd x (w.dw 7) (w.q 8) (w.dw 10).toNat
  let rdr := [(w.dw 7, w.q 8, (w.dw 10).toNat)]
  let a := w.f 6 1 0
  if d.sec.staging.isSome then d.endDesc x.id { st := .refusedDisabled }
  else if a = 0 then
    let (d1, fl, bad) := d.eccDecodeReads x rdr
    if bad then d1.endDesc x.id { st := .failedUncorrectable, flags := fl }
    else match fwBad d.vault d.board.variant b with
      | some r => (d1.secReject (some x) 0 r).endDesc x.id { st := .failedCheck, flags := fl }
      | none => (d1.startStage b (some x.id) w.tag).modDesc x.id (fun y => { y with await_ := .stage, phase := .dispatched, flags := y.flags ||| fl })
  else if a = 1 then
    let s := bitOf (w.dw 6) 2
    if (fwBad d.vault d.board.variant (d.vault.slot s)).isSome then d.endDesc x.id { st := .failedCheck }
    else { d with vault := d.vault.update (fun r => { r with preferred := s }) }.endDesc x.id { st := .done }
  else if a = 2 then
    let r := if d.vault.rollback < d.sec.runSvn then d.sec.runSvn else d.vault.rollback
    { d with vault := d.vault.update (fun q => { q with rollback := r }) }.endDesc x.id { st := .done, r4 := r }
  else
    match ownerBad d.vault b with
    | some r => d.conclude x { st := .failedCheck, rdr := rdr, post := fun d => d.secReject (some x) 1 r }
    | none => d.conclude x { rdr := rdr, post := fun d => { d with vault := d.vault.install b } }

/-! ## SEC_QUOTE (R367) -/

/-- Bytes SEC_QUOTE writes. -/
def Dev.quoteLen (d : Dev) (w : DescWords) : Nat := 2560 + (if bitOf (w.dw 6) 0 then 64 * d.sec.log.length else 0)

/-- The checks of SEC_QUOTE beyond its class and its sheets. -/
def Dev.checkQuote (d : Dev) (w : DescWords) : Option Status :=
  let n := d.sheet (shIdx (w.dw 7))
  let o := d.sheet (shIdx (w.dw 8))
  if n.tier ≠ 0 ∨ n.size < 32 ∨ (o.tier ≠ 0 ∧ o.tier ≠ 3) ∨ o.size < d.quoteLen w then some .refusedMalformed
  else if !d.sec.idOk then some .refusedDisabled else none

/-- SEC_QUOTE with its tokens held; the hedging randomness of the signature is free. -/
def Dev.runQuote (d : Dev) (x : Desc) : Dev :=
  let w := x.w
  let nonce := d.rd x (w.dw 7) 0 32
  let body := bslice (toLe 0x51544531 4 ++ le32 d.colophon ++ toLe d.sec.log.length 4 ++ le32 d.vault.bootCnt ++ toLe d.now 8 ++
    List.replicate 8 0 ++ Digest.bytes d.sec.chain ++ nonce) 0 128
  let sig := bslice (Config.mldsaSign (sha3 body) (asciiOf "JGR-QUOTE") (Config.freeDigest d.free)) 0 2420
  let log := if bitOf (w.dw 6) 0 then d.sec.log.flatten else []
  let d := { d with free := d.free + 1 }
  if (d.sheet (shIdx (w.dw 8))).size < 2560 + log.length then d.endDesc x.id { st := .refusedMalformed }
  else
    d.conclude x { rdr := [(w.dw 7, 0, 32)], wr := [(w.dw 8, 0, bslice (body ++ sig) 0 2560 ++ log)],
                   post := fun d => d.count cSecQuote }

/-! ## Map archives (R368) -/

/-- A section of an archive. -/
structure ArcSec where
  region : Nat
  zp     : Bool
  off    : Nat
  len    : Nat
  at_    : Nat
  crc    : DW
  deriving DecidableEq, Repr

/-- Sections, data bytes and the offset of the owner key. -/
def arcCount (b : Bytes) : Nat := (bw b 1).toNat
def arcData (b : Bytes) : Nat := bnat b 16 8
def arcEnd (b : Bytes) : Nat := 512 + 32 * arcCount b + arcData b
/-- The digest an archive's signature covers: everything before it. -/
def arcDigest (b : Bytes) : Digest := sha3 (b.take (arcEnd b + 1312))
/-- The create block of an archive. -/
def arcCreate (b : Bytes) : Bytes := bslice b 64 320

/-- Section `k`. -/
def arcSec (b : Bytes) (k : Nat) : ArcSec :=
  let o := 512 + 32 * k
  let w := bw (bslice b o 4) 0
  { region := bits w 4 0, zp := bitOf w 5, off := bnat b (o + 4) 8, len := bnat b (o + 12) 8, at_ := bnat b (o + 20) 8,
    crc := BitVec.ofNat 32 (bnat b (o + 28) 4) }

/-- A create block with every handle zero: regions, and codebook sources. -/
def bareCreate (b : Bytes) : Bytes :=
  let hs := [4, 5, 6] ++ (List.range 4).flatMap (fun i => upTo (16 + 16 * i + 4) (16 + 16 * i + 9))
  leWords ((List.range 80).map (fun k => if hs.contains k then 0 else bw b k))

/-- Bytes of the region a section names, by the create block; none where the map has no such region. -/
def arcRegionBytes (cb : Bytes) (r : Nat) : Option Nat :=
  let lg := bits (bw cb 1) 4 0
  if r = 0 then some (2 ^ lg * 128) else if r = 1 then some (2 ^ 25)
  else
    let i := (r - 2) / 4
    if bits (bw cb 1) 7 5 ≤ i then none
    else
      let x := createIdx cb i
      let j := (r - 2) % 4
      some (if j = 0 then x.bookLen else if j = 1 then x.maxNodes * x.ns else if j = 2 then x.upperRows * 128 else x.maxNodes * x.stride)

/-- The reason an archive is not accepted (R368), none when it is: 0 format, 1 key, 2 signature, 3 SVN. -/
def arcBad (v : Vault) (b : Bytes) : Option Nat :=
  let key := bslice b (arcEnd b) 1312
  let cb := arcCreate b
  let secs := (List.range (arcCount b)).map (arcSec b)
  let secOk (k : Nat) : Bool :=
    let s := arcSec b k
    bits (bw (bslice b (512 + 32 * k) 4) 0) 31 6 == 0 && (match arcRegionBytes cb s.region with
      | some n => decide (s.region < 18 ∧ s.off + s.len ≤ n)
      | none => false) &&
      decide (512 + 32 * arcCount b ≤ s.at_ ∧ s.at_ + (if s.zp then 16 else s.len) ≤ arcEnd b)
  if b.length < 512 ∨ bw b 0 ≠ 0x4D415231 ∨ b.length < arcEnd b + 1312 + 2420 then some 0
  else if some (sha3 key) ≠ v.ownerKey then some 1
  else if !Config.mldsaVerify key (arcDigest b) (asciiOf "JGR-MAP") (bslice b (arcEnd b + 1312) 2420) then some 2
  else if bw b 2 < (v.owner.map (·.minMap)).getD 0 then some 3
  else if ¬ zeroWords b (upTo 6 16 ++ upTo 96 128) ∨ (List.range secs.length).any (fun k => !secOk k) then some 0
  else none

/-- The stored and plain bytes of a section; none when a ZERO-PACK section is malformed. -/
def arcPlain (b : Bytes) (s : ArcSec) : Option (Bytes × Bytes) :=
  if !s.zp then let x := bslice b s.at_ s.len; some (x, x)
  else
    let t := bslice b s.at_ (arcEnd b - s.at_)
    match zpSpan (bnat t 8 4) (t.drop 16) with
    | none => none
    | some n =>
      match zpExpand (t.take (16 + n)) with
      | some p => if p.length = s.len then some (t.take (16 + n), p) else none
      | none => none

/-- The region handle a section's region code names. -/
def MapSt.regionHandle (m : MapSt) (r : Nat) : DW :=
  if r = 0 then m.hBody else if r = 1 then m.hOvf
  else match m.idx[(r - 2) / 4]? with
    | some x => let j := (r - 2) % 4; if j = 0 then x.hCb else if j = 1 then x.hNodes else if j = 2 then x.hUpper else x.hVecs
    | none => 0

/-- An index whose nodes came from an archive: rows and slots in use follow from the nodes; ENTRY is chosen as R290 chooses a
new one. -/
def MIdx.settle (x : MIdx) (c : Nat) : MIdx :=
  let top := (x.gens.map (·.1)).foldl (fun a s => Nat.max a (s + 1)) 0
  let vis := x.nodes.filter (fun p => p.2.real && decide (p.2.ins ≤ c ∧ c < p.2.del))
  let better (a b : Nat × Node) : Bool :=
    decide (b.2.level < a.2.level) || (a.2.level == b.2.level && decide ((mkRef a.2.gen a.1).toNat < (mkRef b.2.gen b.1).toNat))
  { x with
    gens := (List.range top).map (fun s => (s, Tab.getD x.gens s 31))
    freed := (List.range top).filter (fun s => !((Tab.get? x.nodes s).map (·.real)).getD false)
    entry := ((bestBy better vis).map (fun (p : Nat × Node) => mkRef p.2.gen p.1)).getD 0
    prev := 0 }

/-- Write the sections of an archive into a new map, nodes before vectors, up to the first with a CRC mismatch or a malformed
form; the answer says whether all are written (R369). -/
def MapSt.loadSecs (m : MapSt) (b : Bytes) : MapSt × Bool :=
  let secs := (List.range (arcCount b)).map (arcSec b)
  let vec (s : ArcSec) : Bool := decide (2 ≤ s.region) && (s.region - 2) % 4 == 3
  let put (m : MapSt × Bool) (s : ArcSec) : MapSt × Bool :=
    match m.2, arcPlain b s with
    | true, some (raw, plain) =>
      if crc32c raw = s.crc then (m.1.regionWrite (m.1.regionHandle s.region) s.off plain, true) else (m.1, false)
    | _, _ => (m.1, false)
  (secs.filter (fun s => !vec s) ++ secs.filter vec).foldl put (m, true)

/-- Bytes of an archive that its header announces. -/
def arcTotal (b : Bytes) : Nat := arcEnd b + 1312 + 2420

/-- A write that leaves its sheet as it was: SET with its previous ROUND (R369); a sheet that was not SET becomes VOID. -/
def Dev.keepSheet (d : Dev) (id : Nat) (h : DW) : Dev :=
  d.modSheet (shIdx h) (fun s => if s.void = .done ∧ s.round ≠ 0 then { s.release id .done with round := s.round } else s)

/-- SEC_MAP_LOAD (R369). -/
def mapLoadDef : OpDef :=
  { kind := 8
    resv := fun w => w.zero 10 15
    form := fun js => js.all (fun w => decide ((w.dw 9).toNat % 64 = 0))
    uses := fun js => js.flatMap (fun w => [Use.rdAny (w.dw 6), Use.wrAny (w.dw 7), Use.rd (w.dw 8)])
    late := fun d js => js.findSome? (fun w => if (d.sheet (shIdx (w.dw 8))).tier ≠ 0 then some .refusedMalformed else none)
    needs := fun js => js.flatMap (fun w => [(w.dw 6, 512), (w.dw 8, (w.dw 9).toNat + 320)])
    run := fun d x =>
      let w := x.w
      let hd := d.rd x (w.dw 6) 0 512
      let n := Nat.min (arcTotal hd) (d.lenOf x (w.dw 6))
      let b := d.rd x (w.dw 6) 0 n
      let cb := d.rd x (w.dw 8) (w.dw 9).toNat 320
      let rdr := [(w.dw 6, 0, n), (w.dw 8, (w.dw 9).toNat, 320)]
      let refuse (st : Status) (f : Dev → Dev) : Res := { st := st, rdr := rdr, post := fun d => (f d).keepSheet x.id (w.dw 7) }
      match arcBad d.vault b with
      | some r => refuse .failedCheck (fun d => d.secReject (some x) 2 r)
      | none =>
        if bareCreate cb ≠ bareCreate (arcCreate b) then refuse .failedCheck (fun d => d.secReject (some x) 2 5)
        else if d.measFull then refuse .refusedQuota id
        else
          let log (d : Dev) : Dev := d.addLog 6 (arcDigest b)
          match d.createMap x.ctx (w.dw 7) cb with
          | none => let r := mapFail x 0 0 rdr; { r with post := fun d => r.post (log d) }
          | some m =>
            match m.loadSecs b with
            | (m, false) => { st := .failedCheck, rdr := rdr, post := fun d => (log d).setMap x (w.dw 7) m true }
            | (m, true) =>
              let e := (bw b 3).toNat
              let m := { m with c := e, f := e, idx := m.idx.map (fun x => x.settle e) }
              { rdr := rdr, wr := [(w.dw 7, 0, cb)], r4 := dwN (arcCount b),
                post := fun d => ((log d).setMap x (w.dw 7) m true).event (x.ev 0xE5 (bw b 2) (bw b 3)) } }

/-- A map with only what is visible at C, at epoch 1 (R370). -/
def MapSt.rebase (m : MapSt) : MapSt :=
  let vis (i dl : Nat) : Bool := decide (i ≤ m.c ∧ m.c < dl)
  let led (t : Tab LEntry) : Tab LEntry :=
    (t.filter (fun p => vis p.2.ins p.2.del)).map (fun p => (p.1, { p.2 with ins := 1, del := 0xFFFFFFFF }))
  let node (n : Node) : Node := if vis n.ins n.del then { n with ins := 1, del := 0xFFFFFFFF } else { n with del := 0 }
  { m with
    body := led m.body
    ovf := led m.ovf
    idx := m.idx.map (fun x => (MIdx.compact { x with nodes := x.nodes.map (fun (p : Nat × Node) => (p.1, node p.2)) } 0).1) }

/-- The archive of a map up to and including its section data: one section for each region, in the order of their codes. -/
def MapSt.archive (m : MapSt) (epoch : Nat) (svn : DW) (pack : Bool) : Bytes :=
  let regions := [0, 1] ++ (List.range (4 * m.idx.length)).map (· + 2)
  let n := regions.length
  let stored (r : Nat) : Bytes × Nat :=
    let len := (arcRegionBytes m.create r).getD 0
    let plain := (m.regionRead (m.regionHandle r) 0 len).getD []
    (if pack then zpStream plain else plain, len)
  let parts := regions.map (fun r => (r, stored r))
  let r := parts.foldl (fun (acc : Bytes × Bytes) p =>
    let o := 512 + 32 * n + acc.2.length
    (acc.1 ++ toLe (p.1 + b2n pack * 32) 4 ++ toLe 0 8 ++ toLe p.2.2 8 ++ toLe o 8 ++ le32 (crc32c p.2.1), acc.2 ++ p.2.1)) ([], [])
  bslice (toLe 0x4D415231 4 ++ toLe n 4 ++ le32 svn ++ toLe epoch 4 ++ toLe r.2.length 8 ++ List.replicate 40 0 ++ bareCreate m.create)
    0 512 ++ r.1 ++ r.2

/-- SEC_MAP_EXPORT (R370). -/
def mapExportDef : OpDef :=
  { kind := 8
    resv := fun w => w.f 6 31 2 == 0 && w.zero 10 15
    uses := fun js => js.flatMap (fun w => [Use.rd (w.dw 7), Use.wrAny (w.dw 8)])
    late := fun d js => js.findSome? (fun w => if (d.sheet (shIdx (w.dw 8))).tier = 0 then some .refusedMalformed else none)
    run := fun d x =>
      let w := x.w
      match d.mapFor x (w.dw 7) with
      | .error r => r
      | .ok m =>
        let re := bitOf (w.dw 6) 0
        let b := (if re then m.rebase else m).archive (if re then 1 else m.c) (w.dw 9) (bitOf (w.dw 6) 1)
        if (d.sheet (shIdx (w.dw 8))).size < b.length then Res.fail .failedCheck
        else { wr := [(w.dw 8, 0, b)], r4 := dwN b.length, r5 := dwN (b.length / 2 ^ 32) } }

end Sys2Proof.Machine
end

