-- ==== Sys2Proof/Machine/TensorFmt.lean ====
section
/-! DEFINITION. Tensor formats and their conversions (R193–R198), row layouts (R199), structured sparsity (R201), function
tables (R202), ranking (R203), stochastic rounding (R217). -/

namespace Sys2Proof.Machine

/-! ## Formats -/

/-- Bits of an element of a format code. -/
def fmtBits (f : Nat) : Nat :=
  if f = 1 ∨ f = 9 then 4 else if f = 7 ∨ f = 8 then 6 else if f = 0xA ∨ f = 0xB then 16
  else if f = 0xC ∨ f = 0xD then 32 else 8

/-- An MX format. -/
def isMx (f : Nat) : Bool := decide (4 ≤ f ∧ f ≤ 9)

/-- The operand class of a pair, none when R193 does not permit it. -/
inductive TClass where
  | int | fp8 | mx | bf16 | fp16 | fp32
  deriving DecidableEq, Repr

/-- R193. -/
def pairClass (a b : Nat) : Option TClass :=
  if a ≤ 1 ∧ b ≤ 1 then some .int
  else if (a = 2 ∨ a = 3) ∧ (b = 2 ∨ b = 3) then some .fp8
  else if isMx a ∧ isMx b then some .mx
  else if a = 0xA ∧ b = 0xA then some .bf16
  else if a = 0xB ∧ b = 0xB then some .fp16
  else if a = 0xC ∧ b = 0xC then some .fp32 else none

/-- Scale bytes at the head of a row of `l` positions (R199). -/
def scaleLen (f l : Nat) : Nat := if isMx f then alignUp (cdiv l 32) 8 else 0

/-- Bytes of `n` packed elements; six-bit elements go four to three bytes. -/
def packLen (f n : Nat) : Nat := if fmtBits f = 6 then cdiv n 4 * 3 else cdiv (n * fmtBits f) 8

/-- Bytes of a row of `l` positions before its padding. -/
def rowLen (f l : Nat) (sparse : Bool) : Nat :=
  scaleLen f l + (if sparse then packLen f (l / 2) + cdiv l 8 else packLen f l)

/-- Row stride (R199). -/
def rowRS (f l : Nat) (sparse : Bool) : Nat := alignUp (rowLen f l sparse) 64

/-- Bytes of a tensor of some rows. -/
def tensorLen (f rows l : Nat) (sparse : Bool) : Nat := rows * rowRS f l sparse

/-! ## Decoding -/

/-- A tensor as read: bytes, format, row length, sparsity. -/
structure TView where
  b  : Array Nat
  f  : Nat
  l  : Nat
  sp : Bool

/-- Little-endian bytes at an offset. -/
def TView.le (t : TView) (o n : Nat) : Nat := (List.range n).foldl (fun a j => a + t.b.getD (o + j) 0 * 256 ^ j) 0

/-- Code of stored element `k` of a row. -/
def TView.code (t : TView) (row k : Nat) : Nat :=
  let o := row * rowRS t.f t.l t.sp + scaleLen t.f t.l
  match fmtBits t.f with
  | 4 => t.b.getD (o + k / 2) 0 / 16 ^ (k % 2) % 16
  | 6 => t.le (o + k / 4 * 3) 3 / 64 ^ (k % 4) % 64
  | 8 => t.b.getD (o + k) 0
  | 16 => t.le (o + 2 * k) 2
  | _ => t.le (o + 4 * k) 4

/-- The element a code spells, before any block scale. -/
def elemVal (f c : Nat) : Fv :=
  let int (n e : Int) : Fv := .fin (decide (n < 0)) n.natAbs e
  if f = 0 then int (sext 8 c) 0
  else if f = 1 then int (sext 4 c) 0
  else if f = 2 ∨ f = 5 then decSat e4m3 0x80 c
  else if f = 3 ∨ f = 6 then decIeee e5m2 0x80 c
  else if f = 4 then int (sext 8 c) (-6)
  else if f = 7 then decSat e2m3 0x20 c
  else if f = 8 then decSat e3m2 0x20 c
  else if f = 9 then decSat e2m1 8 c
  else if f = 0xA then decIeee bf16 0x8000 c
  else if f = 0xB then decIeee fp16 0x8000 c
  else if f = 0xC then fdec (dwN c)
  else int (sext 32 c) 0

/-- Metadata nibble of group `g` of a sparse row: first and second position (R201). -/
def TView.nibble (t : TView) (row g : Nat) : Nat × Nat :=
  let o := row * rowRS t.f t.l true + scaleLen t.f t.l + packLen t.f (t.l / 2)
  let n := t.b.getD (o + g / 2) 0 / 16 ^ (g % 2) % 16
  (n % 4, n / 4)

/-- Code of dense position `i` of a row; none at a pruned position. -/
def TView.pos (t : TView) (row i : Nat) : Option Nat :=
  if t.sp then
    let n := t.nibble row (i / 4)
    if n.1 = i % 4 then some (t.code row (i / 4 * 2))
    else if n.2 = i % 4 then some (t.code row (i / 4 * 2 + 1)) else none
  else some (t.code row i)

/-- Exact value of position `i` of a row, block scale included; a pruned position is +0 (R194, R195, R201). -/
def TView.val (t : TView) (row i : Nat) : Fv :=
  match t.pos row i with
  | none => .fin false 0 0
  | some c =>
    let v := elemVal t.f c
    if isMx t.f then
      let s := t.b.getD (row * rowRS t.f t.l t.sp + i / 32) 0
      if s = 0xFF then .nan
      else match v with
        | .fin n m e => .fin n m (e + s - 127)
        | x => x
    else v

/-- Integer value of a position of an integer tensor. -/
def TView.ival (t : TView) (row i : Nat) : Int :=
  match t.pos row i with
  | none => 0
  | some c => if t.f = 1 then sext 4 c else if t.f = 0 then sext 8 c else sext 32 c

/-- A position as FP32. -/
def TView.f32 (t : TView) (row i : Nat) : DW := fenc (t.val row i)

/-- The first row and group whose nibble does not ascend (R201). -/
def TView.badNibble (t : TView) (rows : Nat) : Option (Nat × Nat) :=
  if !t.sp then none
  else (List.range rows).findSome? (fun r => ((List.range (t.l / 4)).find? (fun g => let n := t.nibble r g; decide (n.2 ≤ n.1))).map (fun g => (r, g)))

/-! ## Conversion (R196–R198) -/

/-- What was written for one element. -/
inductive OutKind where
  | plain | saturated | nonfinite
  deriving DecidableEq, Repr

/-- Round a value scaled by `2^k` into a saturating format: code and whether it was clamped. -/
def satCode (f : Fmt) (signBit top : Nat) (neg : Bool) (m : Nat) (e : Int) : Nat × Bool :=
  let c := f.code m e false
  (Nat.min c top + (if neg then signBit else 0), decide (top < c))

/-- Largest magnitude code, sign bit and format of a small float element. -/
def smallFmt (f : Nat) : Fmt × Nat × Nat :=
  if f = 2 ∨ f = 5 then (e4m3, 0x80, 0x7E) else if f = 3 ∨ f = 6 then (e5m2, 0x80, 0x7B)
  else if f = 7 then (e2m3, 0x20, 0x1F) else if f = 8 then (e3m2, 0x20, 0x1F) else (e2m1, 8, 7)

/-- Element of an MX or FP8 format from a value times `2^k` (R197). Infinity saturates as a finite value does. -/
def smallElem (f : Nat) (k : Int) (a : DW) : Nat × OutKind :=
  match fdec a with
  | .nan => (if f = 2 then 0x7F else 0x7E, .nonfinite)
  | .inf s =>
    if f = 4 then (if s then 0x80 else 0x7F, .saturated)
    else (let p := smallFmt f; (p.2.2 + (if s then p.2.1 else 0), .saturated))
  | .fin s m e =>
    if f = 4 then
      let v := Dy.round ⟨if s then -(m : Int) else m, e + k + 6⟩ 0
      let q := satS 8 v
      ((BitVec.ofInt 8 q).toNat, if q = v then .plain else .saturated)
    else
      let p := smallFmt f
      let r := satCode p.1 p.2.1 p.2.2 s m (e + k)
      (r.1, if r.2 then .saturated else .plain)

/-- emax of an MX element format (R198). -/
def mxEmax (f : Nat) : Int := if f = 4 then 0 else if f = 5 then 8 else if f = 6 then 15 else if f = 8 then 4 else 2

/-- Scale code of a block (R198). -/
def mxScale (f : Nat) (blk : List DW) : Nat :=
  if blk.any fisNan then 0xFF
  else
    let mag (a : DW) : DW := if fisFinite a then fabs a else 0x7F7FFFFF
    let amax := blk.foldl (fun m a => if m.toNat < (mag a).toNat then mag a else m) 0
    match fdec amax with
    | .fin _ m e => if m = 0 then 0 else (clampI (e + m.log2 - mxEmax f + 127) 0 254).toNat
    | _ => 0

/-- An MX block as codes. -/
def mxBlock (f : Nat) (blk : List DW) : Nat × List (Nat × OutKind) :=
  let s := mxScale f blk
  if s = 0xFF then (s, blk.map (fun _ => (0, .nonfinite)))
  else if blk.all (fun a => fabs a == 0) then (0, blk.map (fun _ => (0, .plain)))
  else (s, blk.map (smallElem f (127 - (s : Int))))

/-- Pack codes of a format. -/
def packCodes (f : Nat) (cs : List Nat) : Bytes :=
  let b := fmtBits f
  let n := if b = 6 then alignUp cs.length 4 else cs.length
  let total := (cs.foldr (fun c (acc : Nat) => acc * 2 ^ b + c) 0)
  toLe total (packLen f n)

/-- `sr_draw` of R217. -/
def srDraw (epoch : BitVec 64) (sheet : DW) (index : Nat) : DW :=
  let k0 : BitVec 64 := epoch ^^^ (sheet.setWidth 64 <<< 32) ^^^ 0x5851F42D4C957F2D
  let r := iter (fun _ (p : BitVec 64 × BitVec 64) =>
    let x := p.1 ^^^ p.2
    let x := (x <<< 23) ||| (x >>> 41)
    let x := x * 0xD6E8FEB86659FD93
    let x := x ^^^ (x >>> 32)
    (x, p.2 * 0x9E3779B97F4A7C15 + 1)) 4 (BitVec.ofNat 64 index, k0)
  (r.1 >>> 32).setWidth 32

/-- `bf16_sr` of R217, and whether a finite value was clamped. -/
def bf16Sr (v r : DW) : Nat × OutKind :=
  if !fisFinite v then ((if fisNan v then 0x7FC0 else v.toNat / 2 ^ 16), .nonfinite)
  else
    let h := ((v &&& 0x7FFFFFFF).toNat + r.toNat / 2 ^ 16) / 2 ^ 16
    let s := if bitOf v 31 then 0x8000 else 0
    if h ≥ 0x7F80 then (0x7F7F + s, .saturated) else (h + s, .plain)

/-- Encode a row of FP32 values (R197, R198); `draw` gives the draw of element `i` under stochastic rounding. The bytes are
padded to the row stride; each element with what was written. -/
def encRow (f : Nat) (draw : Option (Nat → DW)) (vals : List DW) : Bytes × List OutKind :=
  if isMx f then
    let blks := (List.range (cdiv vals.length 32)).map (fun k => mxBlock f (((vals.drop (32 * k)).take 32)))
    let scales := blks.map (fun b => (BitVec.ofNat 8 b.1 : Byte))
    let es := blks.flatMap (·.2)
    (padTo 64 (bslice scales 0 (scaleLen f vals.length) ++ packCodes f (es.map (·.1))), es.map (·.2))
  else
    let es : List (Nat × OutKind) := vals.zipIdx.map (fun (v, i) =>
      if f = 0xC then (v.toNat, if fisFinite v then .plain else .nonfinite)
      else if f = 0xA then
        match draw with
        | some g => bf16Sr v (g i)
        | none => (toBf16 v, if toBf16 v % 0x8000 ≥ 0x7F80 then .nonfinite else .plain)
      else if f = 0xB then (toFp16 v, if toFp16 v % 0x8000 ≥ 0x7C00 then .nonfinite else .plain)
      else smallElem f 0 v)
    (padTo 64 (packCodes f (es.map (·.1))), es.map (·.2))

/-! ## Vector functions (R202, R203) -/

/-- A function table as words. -/
structure FTab where
  segs : Nat
  x0   : DW
  inv  : DW
  lo   : DW
  hi   : DW
  c    : List DW

/-- Read a table from its 1,088 bytes; none when R202 refuses it. -/
def ftabOf (b : Bytes) : Option FTab :=
  let w := bw b
  let inv := w 2
  let ex := bits inv 30 23
  if (w 0).toNat = 0 ∨ 64 < (w 0).toNat ∨ ¬ allZero ((List.range 11).map (fun k => w (5 + k))) ∨ bitOf inv 31 ∨
    bits inv 22 0 ≠ 0 ∨ ex < 111 ∨ 143 < ex then none
  else some { segs := (w 0).toNat, x0 := w 1, inv := inv, lo := w 3, hi := w 4, c := (List.range 256).map (fun k => w (16 + k)) }

/-- Floor of a finite FP32 value. -/
def ffloor (a : DW) : Int :=
  match fdec a with
  | .fin s m e =>
    let n : Int := if s then -(m : Int) else m
    if e ≥ 0 then n * pow2 e else n.fdiv (pow2 (-e))
  | _ => 0

/-- `vfunc` of R202. -/
def vfunc (t : FTab) (x : DW) : DW :=
  if fisNan x then qnan
  else
    let s := fmul (fsub x t.x0) t.inv
    if fLt s 0 then t.lo
    else if fLe (fofInt t.segs 0) s then t.hi
    else
      let i := (ffloor s).toNat
      let u := fsub s (fofInt i 0)
      let c (k : Nat) : DW := t.c.getD (4 * i + k) 0
      ffma (ffma (ffma (c 3) u (c 2)) u (c 1)) u (c 0)

/-- The greatest of a list under R203, ties to the lower index: position and value, a NaN as the canonical one. -/
def rankMax (l : List DW) : Option (Nat × DW) :=
  (bestBy (fun (a b : Nat × DW) => decide (fkey a.2 > fkey b.2)) (l.zipIdx.map (fun p => (p.2, p.1)))).map
    (fun p => (p.1, if fisNan p.2 then qnan else p.2))

/-- The `k` greatest of a list, descending (R203). -/
def rankTop (k : Nat) (l : List DW) : List (Nat × DW) :=
  ((sortBy (fun (a b : Nat × DW) => decide (fkey a.2 > fkey b.2 ∨ (fkey a.2 = fkey b.2 ∧ a.1 ≤ b.1)))
    (l.zipIdx.map (fun p => (p.2, p.1)))).take k).map (fun p => (p.1, if fisNan p.2 then qnan else p.2))

end Sys2Proof.Machine
end

