-- ==== Sys2Proof/Machine/Tensor.lean ====
section
/-! DEFINITION. Tensor leaves: layer records (R204–R206), operators (R207–R212), gradient layers (R213, R214) and the
optimiser step (R215, R216). -/

namespace Sys2Proof.Machine

/-! ## Layer records -/

/-- A layer record: its 32 words, in two descriptors' places. -/
structure Lay where
  w : Nat → DW

/-- The record a job pair holds. -/
def layOf (js : List DescWords) : Lay :=
  { w := fun n => if n < 16 then (js.getD 0 (Vector.replicate 16 0)).dw n else (js.getD 1 (Vector.replicate 16 0)).dw (n - 16) }

def Lay.f (r : Lay) (n hi lo : Nat) : Nat := bits (r.w n) hi lo
def Lay.op (r : Lay) : Nat := r.f 0 7 0
def Lay.fa (r : Lay) : Nat := r.f 0 11 8
def Lay.fb (r : Lay) : Nat := r.f 0 15 12
def Lay.fo (r : Lay) : Nat := r.f 0 19 16
def Lay.sparse (r : Lay) : Bool := bitOf (r.w 0) 21
def Lay.sr (r : Lay) : Bool := bitOf (r.w 0) 22
def Lay.mode (r : Lay) : Nat := r.f 0 24 23
/-- The shapes of SPCONV3D and GATHER_ROWS name no batch, theirs and ATTENTION's no width (R199, operators table): those fields take no part. -/
def Lay.noBatch (r : Lay) : Bool := r.op == 7 || r.op == 8
def Lay.noWidth (r : Lay) : Bool := r.op == 3 || r.noBatch
def Lay.n (r : Lay) : Nat := if r.noBatch then 1 else r.f 1 15 0
def Lay.g (r : Lay) : Nat := r.f 1 31 16
def Lay.hin (r : Lay) : Nat := r.f 2 15 0
def Lay.win (r : Lay) : Nat := if r.noWidth then 1 else r.f 2 31 16
def Lay.cin (r : Lay) : Nat := r.f 3 15 0
def Lay.cout (r : Lay) : Nat := r.f 3 31 16
def Lay.hout (r : Lay) : Nat := r.f 4 15 0
def Lay.wout (r : Lay) : Nat := if r.noWidth then 1 else r.f 4 31 16
def Lay.kh (r : Lay) : Nat := r.f 5 3 0
def Lay.kw (r : Lay) : Nat := r.f 5 7 4
def Lay.sh (r : Lay) : Nat := r.f 5 11 8
def Lay.sw (r : Lay) : Nat := r.f 5 15 12
def Lay.dh (r : Lay) : Nat := r.f 5 19 16
def Lay.dwd (r : Lay) : Nat := r.f 5 23 20
def Lay.ph (r : Lay) : Nat := r.f 5 27 24
def Lay.pw (r : Lay) : Nat := r.f 5 31 28
def Lay.vf (r : Lay) : Bool := bitOf (r.w 6) 0
def Lay.bb (r : Lay) : Bool := bitOf (r.w 6) 1
def Lay.avg (r : Lay) : Bool := bitOf (r.w 6) 2
def Lay.elt (r : Lay) : Nat := r.f 6 4 3
def Lay.topk (r : Lay) : Nat := r.f 6 31 16
def Lay.hIn (r : Lay) : DW := r.w 10
def Lay.hWgt (r : Lay) : DW := r.w 11
def Lay.hBias (r : Lay) : DW := r.w 12
def Lay.hOut (r : Lay) : DW := r.w 13
def Lay.hAux (r : Lay) : DW := r.w 14
def Lay.hQuant (r : Lay) : DW := r.w 15
def Lay.auxOff (r : Lay) : Nat := (r.w 16).toNat
def Lay.quantOff (r : Lay) : Nat := (r.w 17).toNat
def Lay.hIn2 (r : Lay) : DW := r.w 18

/-- Operators that multiply operand pairs (R193). -/
def Lay.mac (r : Lay) : Bool := r.op == 1 || r.op == 2 || r.op == 3 || r.op == 7
/-- The class of a MAC operator's operands. -/
def Lay.cls (r : Lay) : Option TClass := pairClass r.fa r.fb
/-- An integer layer. -/
def Lay.isInt (r : Lay) : Bool := r.mac && r.cls == some .int

/-- Output size along an axis of CONV2D and POOL, 0 where it would not come to 1 (R205). -/
def convOut (inn pad dil k st : Nat) : Nat :=
  if inn + 2 * pad < dil * (k - 1) + 1 then 0 else (inn + 2 * pad - dil * (k - 1) - 1) / st + 1

/-- A sheet of a layer: handle, format, rows, row length, sparse. -/
structure LSheet where
  h  : DW
  f  : Nat
  rows : Nat
  l  : Nat
  sp : Bool

/-- Rows and row length of OUT for each operator and mode; SPCONV3D's dW depends on the rulebook. -/
def Lay.outShape (r : Lay) (offsets : Nat) : Nat × Nat :=
  let px := r.n * r.hout * r.wout
  match r.mode, r.op with
  | 0, 3 => (r.n * r.g * r.hout, r.cout)
  | 0, 0x0C => (px, r.topk)
  | 0, 0x0D => (r.n, r.cout)
  | 0, _ => (px, r.cout)
  | 1, 7 => (r.hin, r.cin)
  | 1, 8 => (r.hin, r.cin)
  | 1, _ => (r.n * r.hin * r.win, r.cin)
  | _, 1 => (r.cout * r.kh * r.kw, r.cin / r.g)
  | _, 2 => (r.cout, r.cin)
  | _, _ => (r.cout * offsets, r.cin)

/-- Bytes of OUT. An entry of TOPK is 8 bytes. -/
def Lay.outLen (r : Lay) (offsets : Nat) : Nat :=
  let s := r.outShape offsets
  if r.op = 0x0C then s.1 * alignUp (8 * s.2) 64 else tensorLen r.fo s.1 s.2 false

/-- The tensor inputs a record needs (R199, R213): IN, IN2 and WGT with their shapes, none where unused. -/
def Lay.inShape (r : Lay) : Option (Nat × Nat) :=
  if r.mode = 1 then none
  else if r.op = 3 then some (r.n * r.g * r.hout, r.cin)
  else if r.op = 7 ∨ r.op = 8 then some (r.hin, r.cin)
  else some (r.n * r.hin * r.win, r.cin)

/-- IN2: dY in the gradient modes, K of ATTENTION, the second operand of ELTWISE. -/
def Lay.in2Shape (r : Lay) : Option (Nat × Nat) :=
  if r.mode ≠ 0 then some (if r.op = 7 ∨ r.op = 8 then (r.hout, r.cout) else (r.n * r.hout * r.wout, r.cout))
  else if r.op = 3 then some (r.n * r.g * r.hin, r.cin)
  else if r.op = 9 ∧ r.elt ≠ 0 then some ((if r.bb then 1 else r.n) * r.hin * r.win, r.cin)
  else none

/-- WGT: weights, V of ATTENTION, the gain of a normalisation. SPCONV3D's row count depends on the rulebook. -/
def Lay.wgtShape (r : Lay) (offsets : Nat) : Option (Nat × Nat) :=
  if r.mode = 2 then none
  else if r.op = 1 then some (r.cout * r.kh * r.kw, r.cin / r.g)
  else if r.op = 2 then some ((if r.bb then 1 else r.n) * r.cout, r.cin)
  else if r.op = 3 then some (r.n * r.g * r.hin, r.cout)
  else if r.op = 4 ∨ r.op = 5 then some (1, r.cin)
  else if r.op = 7 then some (r.cout * offsets, r.cin)
  else none

/-- Format of IN2 and of WGT. -/
def Lay.in2Fmt (r : Lay) : Nat := if r.op = 3 then r.fa else r.fb
def Lay.wgtFmt (r : Lay) : Nat := if r.op = 4 ∨ r.op = 5 then 0xC else r.fb

/-- Bytes AUX must hold from AUX_OFFSET; none when AUX is unused. The rulebook's length is known only when read. -/
def Lay.auxLen (r : Lay) : Option Nat :=
  if r.op = 6 then some (8 * r.kh * r.kw * r.n * r.hout * r.wout)
  else if r.op = 7 then some 64
  else if r.op = 8 then some (4 * r.hout)
  else if r.op = 3 ∨ r.op = 0x0B ∨ r.vf then some 1088
  else none

/-- BIAS may be given, and is needed. -/
def Lay.biasMay (r : Lay) : Bool := r.mode == 0 && (r.op == 1 || r.op == 2 || r.op == 7 || r.op == 4)
def Lay.biasMust (r : Lay) : Bool := r.op == 4
/-- QUANT is read: an integer layer that writes INT8 or INT4 (R196). -/
def Lay.quant (r : Lay) : Bool := r.isInt && decide (r.fo ≤ 1)

/-- The shape rules of an operator (operators table, R205). -/
def Lay.shapeOk (r : Lay) : Bool :=
  let same := r.hout == r.hin && r.wout == r.win
  let conv := r.hout == convOut r.hin r.ph r.dh r.kh r.sh && r.wout == convOut r.win r.pw r.dwd r.kw r.sw
  match r.op with
  | 1 => conv && r.cin % r.g == 0 && r.cout % r.g == 0
  | 2 => r.g == 1 && r.kh == 1 && r.kw == 1 && r.sh == 1 && r.sw == 1 && r.dh == 1 && r.dwd == 1 && r.ph == 0 && r.pw == 0 &&
      r.hin == r.hout && r.win == 1 && r.wout == 1
  | 3 => true
  | 4 => same && r.cout == r.cin
  | 5 => same && r.cout == r.cin
  | 6 => r.cout == r.kh * r.kw * r.cin
  | 7 => true
  | 8 => r.cout == r.cin
  | 9 => same && r.cout == r.cin
  | 0x0A => conv && r.cout == r.cin
  | 0x0B => same && r.cout == r.cin
  | 0x0C => same && decide (1 ≤ r.topk ∧ r.topk ≤ r.cin)
  | 0x0D => r.hout == 1 && r.wout == 1 && r.cout == r.cin
  | _ => false

/-- The field checks of R205 and R213 that name no sheet. -/
def Lay.form (r : Lay) : Bool :=
  let rng (x hi : Nat) : Bool := decide (1 ≤ x ∧ x ≤ hi)
  let fmts := decide (r.fa ≤ 0xC ∧ r.fb ≤ 0xC ∧ r.fo ≤ 0xD)
  let attn := match r.cls with
    | some .bf16 => true
    | some .fp16 => true
    | some .fp8 => true
    | _ => false
  let pair := if r.op = 3 then attn else if r.mac then r.cls.isSome else true
  let acc := bitOf (r.w 0) 20 == !r.isInt
  let sparse := !r.sparse || ((r.op == 1 || r.op == 2) && r.mode == 0 &&
    (match r.cls with | some .fp32 => false | some _ => true | none => false) &&
    (if r.op = 1 then r.cin / r.g else r.cin) % 4 == 0)
  let out :=
    if r.isInt then r.fo ≤ 1 ∨ r.fo = 0xD
    else if r.op = 0x0C then r.fo = 0xC
    else 2 ≤ r.fo ∧ r.fo ≤ 0xC
  let grad := r.mode == 0 ||
    (r.fa == 0xA && r.fb == 0xA && (r.op == 1 || r.op == 2 || r.op == 7 || (r.mode == 1 && (r.op == 6 || r.op == 8))) &&
      (if r.mode = 1 then r.fo == 0xA || r.fo == 0xC else r.fo == 0xC) && (r.mode != 2 || r.op != 2 || r.bb))
  decide (1 ≤ r.op ∧ r.op ≤ 0x0D) && fmts && r.f 0 31 25 == 0 && decide (r.mode ≤ 2) && r.f 6 15 5 == 0 && decide (r.elt ≤ 2) &&
    r.w 9 == 0 && allZero ((List.range 13).map (fun k => r.w (19 + k))) && r.auxOff % 64 == 0 && r.quantOff % 64 == 0 &&
    rng (r.f 1 15 0) 65535 && rng r.g 4096 && rng r.hin 65535 && rng (r.f 2 31 16) 65535 && rng r.cin 65535 && rng r.cout 65535 &&
    rng r.hout 65535 && rng (r.f 4 31 16) 65535 && rng r.kh 15 && rng r.kw 15 && rng r.sh 15 && rng r.sw 15 && rng r.dh 15 &&
    rng r.dwd 15 && pair && acc && sparse && decide out && grad && (!r.sr || r.fo == 0xA) && (!r.vf || !r.isInt) && r.shapeOk &&
    -- needed sheets are there, unused ones are zero
    ((r.hIn != 0) == r.inShape.isSome) && ((r.hIn2 != 0) == r.in2Shape.isSome) && ((r.hWgt != 0) == (r.wgtShape 1).isSome) &&
    (r.hBias == 0 || r.biasMay) && (!r.biasMust || r.hBias != 0) && r.hOut != 0 && ((r.hAux != 0) == r.auxLen.isSome) &&
    ((r.hQuant != 0) == r.quant)

/-- IN or IN2 is a ribbon sheet (R211). -/
def Dev.layRibbon (d : Dev) (r : Lay) : Bool :=
  (r.hIn != 0 && (d.sheet (shIdx r.hIn)).ribbon) || (r.hIn2 != 0 && (d.sheet (shIdx r.hIn2)).ribbon)

/-- The declared row window (R211). -/
def Lay.window (r : Lay) : Nat := if r.op = 1 ∨ r.op = 0x0A then (r.kh - 1) * r.dh + r.sh else 1

/-- Bytes of a row of a ribbon OUT (R199): one row of pixels, of input pixels for an input gradient; none for a weight gradient, whose
OUT holds no activation rows. -/
def Lay.outRow (r : Lay) : Option Nat :=
  let c := (r.outShape 1).2
  if r.mode = 2 then none
  else some ((if r.mode = 1 then r.win else r.wout) * (if r.op = 0x0C then alignUp (8 * c) 64 else rowRS r.fo c false))

/-- Ribbon and output size checks of a record (R199, R205, R211). -/
def Dev.laySheets (d : Dev) (r : Lay) : Bool :=
  let ribOk (h : DW) (w rs : Nat) : Bool :=
    let s := d.sheet (shIdx h)
    !s.ribbon || (r.n == 1 && s.rowBytes == w * rs && decide (r.window ≤ s.rows))
  let out := d.sheet (shIdx r.hOut)
  ribOk r.hIn r.win (rowRS r.fa r.cin false) && ribOk r.hIn2 (if r.mode = 0 then r.win else r.wout) (rowRS r.in2Fmt ((r.in2Shape.map (·.2)).getD 1) false) &&
    (match out.ribbon, r.outRow with
      | true, some b => r.n == 1 && out.rowBytes == b
      | _, _ => decide (r.outLen 1 ≤ out.size))

/-- Input sheets with the bytes they must hold (R199, R403); ribbons of activations are checked by their rows. -/
def Dev.layNeeds (d : Dev) (r : Lay) : List (DW × Nat) :=
  let rib (h : DW) : Bool := (d.sheet (shIdx h)).ribbon
  let one (h : DW) (f : Nat) (s : Option (Nat × Nat)) : List (DW × Nat) :=
    match s with
    | some p => if rib h then [] else [(h, tensorLen f p.1 p.2 false)]
    | none => []
  one r.hIn r.fa r.inShape ++ one r.hIn2 r.in2Fmt r.in2Shape ++
    (match r.wgtShape 1 with | some p => [(r.hWgt, tensorLen r.wgtFmt p.1 p.2 r.sparse)] | none => []) ++
    (if r.hBias = 0 then [] else [(r.hBias, alignUp (4 * r.cout) 64)]) ++
    (match r.auxLen with | some n => [(r.hAux, r.auxOff + n)] | none => []) ++
    (if r.quant then [(r.hQuant, r.quantOff + 64 + 8 * r.cout)] else [])

/-- Sheets of the executed record, in the order of R204. -/
def layUses (r : Lay) : List Use :=
  let rd (h : DW) : List Use := if h = 0 then [] else [Use.rd h]
  rd r.hIn ++ rd r.hIn2 ++ rd r.hWgt ++ rd r.hBias ++ rd r.hAux ++ rd r.hQuant ++ [Use.wr r.hOut]

/-! ## Acceptance of a TEN_LAYER (R204, R205) -/

/-- EPOCH and EPOCH_PERIOD: a period number exists only for a stage of a firing; `bit` is EPOCH_PERIOD. -/
def epochOk (w : DescWords) (bit stage : Bool) : Bool := if bit then stage && w.q 14 == 0 else true

/-- The record at a level, as two descriptors' places; none when it is no record. -/
def Dev.layRec (d : Dev) (w : DescWords) (level : Nat) : List DescWords :=
  let b := d.plainRead (shIdx (w.dw 7)) (w.dw (8 + level)).toNat 128
  [Vector.ofFn (fun i => bw b i.val), Vector.ofFn (fun i => bw b (16 + i.val))]

/-- The records a TEN_LAYER names for its shrink levels. -/
def Dev.layRecs (d : Dev) (w : DescWords) : List Lay := (List.range (w.maxShrink + 1)).map (fun l => layOf (d.layRec w l))

/-- The records can be read: PLAN is a SET T1 sheet, and each record lies inside it at a multiple of 128 (R204, R205). -/
def Dev.layPlanOk (d : Dev) (w : DescWords) : Bool :=
  let plan := d.sheet (shIdx (w.dw 7))
  (List.range 4).all (fun l => (w.dw (8 + l)).toNat % 128 == 0 && (decide (l ≤ w.maxShrink) || w.dw (8 + l) == 0)) &&
    plan.tier == 0 && plan.tok == .set && (List.range (w.maxShrink + 1)).all (fun l => decide ((w.dw (8 + l)).toNat + 128 ≤ plan.size))

/-- The checks of R205 on a TEN_LAYER's own words and on every record it names, beyond those of R49 on their sheets: REFUSED_MALFORMED,
then REFUSED_UNIT_ABSENT for a gradient layer on the BL-6440. -/
def Dev.checkLayer (d : Dev) (w : DescWords) (stage : Bool) : Option Status :=
  let rs := d.layRecs w
  if ¬ epochOk w (bitOf (w.dw 6) 16) stage ∨
    rs.any (fun r => !r.form || !d.laySheets r || (d.layNeeds r).any (fun p =>
      let s := d.sheet (shIdx p.1)
      !(s.zp && s.tier != 0) && decide (s.size < p.2))) then some .refusedMalformed
  else if d.board.variant = .bl6440 ∧ rs.any (fun r => r.mode != 0) then some .refusedUnitAbsent else none

/-- Extents and grains of a layer (operators table, R211, R214). -/
def Dev.layAxes (d : Dev) (r : Lay) : Axes := fun rule =>
  let rib := d.layRibbon r
  let b := r.op ≠ 7 ∧ r.op ≠ 8
  let ro := r.op ≠ 0x0D
  let ch := r.op = 1 ∨ r.op = 2 ∨ r.op = 7 ∨ r.op = 9 ∨ r.op = 0x0A ∨ r.op = 0x0D
  match r.mode, rule with
  | 0, .batch => if b ∧ ¬ rib then some ((if r.op = 3 then r.n * r.g else r.n), 1) else none
  | 0, .rows => if ro ∧ ¬ rib then some (r.hout, 1) else none
  | 0, .channels => if ch then some (r.cout, 1) else none
  | 1, .rows => if rib then none else some (r.hin, 1)
  | 2, .batch => if (r.op = 1 ∨ r.op = 2) ∧ ¬ rib then some (r.n * r.hout * r.wout, 256) else none
  | 2, .channels => if r.op = 7 then some (r.cout, 1) else none
  | _, _ => none

/-! ## Execution -/

/-- Read a tensor. -/
def Dev.tview (d : Dev) (x : Desc) (h : DW) (f rows l : Nat) (sp : Bool) : TView :=
  { b := byteArr (d.rd x h 0 (tensorLen f rows l sp)), f := f, l := l, sp := sp }
where
  byteArr (b : Bytes) : Array Nat := (b.map (·.toNat)).toArray

/-- A +0 term. -/
def fz : Fv := .fin false 0 0

/-- Terms of a CONV2D output: kernel positions and channels ascending, padding as `zero` (operators table). -/
def convTerms {α : Type} (r : Lay) (zero : α) (t : Nat → Nat → Nat → Nat → α) (y x : Nat) : List α :=
  (List.range r.kh).flatMap (fun i => (List.range r.kw).flatMap (fun j =>
    let yy : Int := (y * r.sh : Nat) - (r.ph : Int) + (i * r.dh : Nat)
    let xx : Int := (x * r.sw : Nat) - (r.pw : Int) + (j * r.dwd : Nat)
    (List.range (r.cin / r.g)).map (fun c =>
      if 0 ≤ yy ∧ yy < r.hin ∧ 0 ≤ xx ∧ xx < r.win then t (yy.toNat * r.win + xx.toNat) (i * r.kw + j) c (i * r.kw + j) else zero)))

/-- A rulebook as read: offsets, pairs by offset (R212). -/
structure RuleBook where
  offsets : Nat
  segs    : List (List (Nat × Nat))

/-- Read and check a rulebook: the book, or the index of the entry at fault (R210, R212): cause 1 or 2. -/
def rulebook (r : Lay) (b : Bytes) : Except (Nat × Nat) RuleBook :=
  let w (k : Nat) : Nat := (bw b k).toNat
  let offs := w 0
  let pairs := w 3
  if offs = 0 ∨ 125 < offs ∨ w 1 ≠ r.hout ∨ w 2 ≠ r.hin ∨ ¬ allZero ((List.range 12).map (fun k => bw b (4 + k))) then .error (1, 0)
  else
    let st (k : Nat) : Nat := w (16 + k)
    let base := 16 + alignUp (4 * (offs + 1)) 64 / 4
    if st 0 ≠ 0 ∨ st offs ≠ pairs ∨ b.length < 4 * base + 8 * pairs then .error (1, 0)
    else match (List.range offs).find? (fun k => decide (st (k + 1) < st k)) with
      | some k => .error (1, k)
      | none =>
        let pr (e : Nat) : Nat × Nat := (w (base + 2 * e), w (base + 2 * e + 1))
        let segs := (List.range offs).map (fun k => (List.range (st (k + 1) - st k)).map (fun i => pr (st k + i)))
        let badO := (List.range offs).findSome? (fun k => (List.range (st (k + 1) - st k)).findSome? (fun i =>
          let e := st k + i
          if (pr e).2 ≥ r.hout ∨ (i ≠ 0 ∧ (pr e).2 ≤ (pr (e - 1)).2) then some e else none))
        let badI := (List.range pairs).find? (fun e => decide ((pr e).1 ≥ r.hin ∧ (pr e).1 ≠ 0xFFFFFFFF))
        match badO, badI with
        | some e, _ => .error (1, e)
        | none, some e => .error (2, e)
        | none, none => .ok { offsets := offs, segs := segs }

/-- What stops a layer at execution: cause and the two detail words of TEN_CHECK. -/
structure Check where
  cause : Nat
  d5 : Nat
  d6 : Nat := 0

/-- Everything a layer reads. -/
structure LIn where
  r   : Lay
  in_ : TView
  in2 : TView
  wgt : TView
  bias : Array Nat
  aux : Bytes
  book : RuleBook
  tab : Option FTab

/-- Bias of a channel as an integer and as FP32. -/
def LIn.biasW (i : LIn) (c : Nat) : DW :=
  dwN ((List.range 4).foldl (fun a j => a + i.bias.getD (4 * c + j) 0 * 256 ^ j) 0)

/-- A term: the exact product with a weight, +0 where the weight is pruned (R195). -/
def LIn.term (i : LIn) (a : Fv) (row col : Nat) : Fv := if (i.wgt.pos row col).isNone then fz else fmulV a (i.wgt.val row col)

/-- The accumulated value of output (row, column): exact terms in the operator's order, then the chunked sum of R25. -/
def LIn.macF (i : LIn) (row col : Nat) : DW :=
  let r := i.r
  let pix := r.hout * r.wout
  let n := row / pix
  let y := row % pix / r.wout
  let x := row % r.wout
  match r.op with
  | 1 =>
    let g := col / (r.cout / r.g)
    fsumExact (convTerms r fz (fun p k c _ => i.term (i.in_.val (n * r.hin * r.win + p) (g * (r.cin / r.g) + c)) (col * r.kh * r.kw + k) c) y x)
  | 2 => fsumExact ((List.range r.cin).map (fun k => i.term (i.in_.val row k) ( (if r.bb then 0 else n) * r.cout + col) k))
  | _ =>
    fsumExact (i.book.segs.zipIdx.flatMap (fun (seg, k) => (seg.filter (fun p => p.2 == row)).flatMap (fun p =>
      (List.range r.cin).map (fun c => fmulV (i.in_.val p.1 c) (i.wgt.val (col * i.book.offsets + k) c)))))

/-- The exact integer accumulator of output (row, column). -/
def LIn.macI (i : LIn) (row col : Nat) : Int :=
  let r := i.r
  let pix := r.hout * r.wout
  let n := row / pix
  let y := row % pix / r.wout
  let x := row % r.wout
  let sum (l : List Int) : Int := l.foldl (· + ·) 0
  match r.op with
  | 1 =>
    let g := col / (r.cout / r.g)
    sum (convTerms r 0 (fun p k c _ => i.in_.ival (n * r.hin * r.win + p) (g * (r.cin / r.g) + c) * i.wgt.ival (col * r.kh * r.kw + k) c) y x)
  | 2 => sum ((List.range r.cin).map (fun k => i.in_.ival row k * i.wgt.ival ((if r.bb then 0 else n) * r.cout + col) k))
  | _ =>
    sum (i.book.segs.zipIdx.flatMap (fun (seg, k) => (seg.filter (fun p => p.2 == row)).flatMap (fun p =>
      (List.range r.cin).map (fun c => i.in_.ival p.1 c * i.wgt.ival (col * i.book.offsets + k) c))))

/-- Exact FP32 terms. -/
def fterm (a : DW) : Fv := fdec a

/-- Softmax probabilities of a row of scores, and their sum (R207). -/
def softmax (t : FTab) (s : List DW) : List DW × DW :=
  let m := ((rankMax s).map (·.2)).getD 0
  let p := s.map (fun a => vfunc t (fsub a m))
  (p, fsum p)

/-- The corners of a deformable sample: flat position in the image with its weight, none outside; in the order 00, 10, 01,
11 (R209). A non-finite coordinate has no corner. -/
def LIn.corners (i : LIn) (row p : Nat) : List (Option (Nat × DW)) :=
  let r := i.r
  let pix := r.hout * r.wout
  let y := row % pix / r.wout
  let x := row % r.wout
  let a (k : Nat) : DW := bw i.aux (2 * (row * r.kh * r.kw + p) + k)
  let py := fadd (fofInt (y * r.sh : Nat) 0) (a 0)
  let px := fadd (fofInt (x * r.sw : Nat) 0) (a 1)
  if !fisFinite py || !fisFinite px then [none, none, none, none]
  else
    let y0 := ffloor py
    let x0 := ffloor px
    let ay := fsub py (fofInt y0 0)
    let ax := fsub px (fofInt x0 0)
    let at_ (yy xx : Int) (wt : DW) : Option (Nat × DW) :=
      if 0 ≤ yy ∧ yy < r.hin ∧ 0 ≤ xx ∧ xx < r.win then some (yy.toNat * r.win + xx.toNat, wt) else none
    let one : DW := 0x3F800000
    [at_ y0 x0 (fmul (fsub one ax) (fsub one ay)), at_ y0 (x0 + 1) (fmul ax (fsub one ay)),
      at_ (y0 + 1) x0 (fmul (fsub one ax) ay), at_ (y0 + 1) (x0 + 1) (fmul ax ay)]

/-- A row of FP32 results of operators 0x03 to 0x0D in MODE 0, before the output stage. `fv` is the free value of a maximum
over no position. -/
def LIn.vecRow (i : LIn) (fv : DW) (row : Nat) : List DW :=
  let r := i.r
  let pix := r.hout * r.wout
  let chans := List.range r.cin
  let xrow := chans.map (i.in_.f32 row)
  match r.op with
  | 3 =>
    let q := row / r.hout
    let t := i.tab
    let s := (List.range r.hin).map (fun j =>
      fmul (fsumExact (chans.map (fun c => fmulV (i.in_.val row c) (i.in2.val (q * r.hin + j) c)))) (r.w 8))
    let pl := match t with
      | some t => softmax t s
      | none => ([], 0)
    (List.range r.cout).map (fun c =>
      fdiv (fsumExact (pl.1.zipIdx.map (fun (p, j) => fmulV (fterm p) (i.wgt.val (q * r.hin + j) c)))) pl.2)
  | 4 =>
    let cnt := fofInt r.cin 0
    let mu := fdiv (fsumExact (chans.map (i.in_.val row))) cnt
    let cen := xrow.map (fun a => fsub a mu)
    let var := fdiv (fsumExact (cen.map (fun a => fmulV (fterm a) (fterm a)))) cnt
    let rs := fdiv 0x3F800000 (fsqrt (fadd var (r.w 7)))
    cen.zipIdx.map (fun (a, c) => fadd (fmul (fmul a rs) (i.wgt.f32 0 c)) (i.biasW c))
  | 5 =>
    let cnt := fofInt r.cin 0
    let q := fdiv (fsumExact (chans.map (fun c => fmulV (i.in_.val row c) (i.in_.val row c)))) cnt
    let rs := fdiv 0x3F800000 (fsqrt (fadd q (r.w 7)))
    xrow.zipIdx.map (fun (a, c) => fmul (fmul a rs) (i.wgt.f32 0 c))
  | 6 =>
    (List.range (r.kh * r.kw)).flatMap (fun p =>
      let cs := i.corners row p
      chans.map (fun c =>
        let t := cs.map (fun o => match o with
          | some (q, wt) => fmul wt (i.in_.f32 (row / pix * r.hin * r.win + q) c)
          | none => 0)
        fadd (fadd (fadd (t.getD 0 0) (t.getD 1 0)) (t.getD 2 0)) (t.getD 3 0)))
  | 8 =>
    let k := (bw i.aux row).toNat
    if k = 0xFFFFFFFF then chans.map (fun _ => 0) else chans.map (i.in_.f32 k)
  | 9 =>
    let row2 := if r.bb then row % pix else row
    chans.map (fun c =>
      let a := i.in_.f32 row c
      if r.elt = 0 then a else if r.elt = 1 then fadd a (i.in2.f32 row2 c) else fmul a (i.in2.f32 row2 c))
  | 0x0A =>
    let n := row / pix
    let y := row % pix / r.wout
    let x := row % r.wout
    let ps := (List.range r.kh).flatMap (fun a => (List.range r.kw).filterMap (fun b =>
      let yy : Int := (y * r.sh : Nat) - (r.ph : Int) + (a * r.dh : Nat)
      let xx : Int := (x * r.sw : Nat) - (r.pw : Int) + (b * r.dwd : Nat)
      if 0 ≤ yy ∧ yy < r.hin ∧ 0 ≤ xx ∧ xx < r.win then some (n * r.hin * r.win + yy.toNat * r.win + xx.toNat) else none))
    chans.map (fun c =>
      if r.avg then fdiv (fsumExact (ps.map (fun p => i.in_.val p c))) (fofInt ps.length 0)
      else ((rankMax (ps.map (fun p => i.in_.f32 p c))).map (·.2)).getD fv)
  | 0x0B =>
    match i.tab with
    | some t => let pl := softmax t xrow; pl.1.map (fun p => fdiv p pl.2)
    | none => []
  | 0x0D =>
    chans.map (fun c => fsumExact ((List.range (r.hin * r.win)).map (fun p => i.in_.val (row * r.hin * r.win + p) c)))
  | _ => xrow

/-- One element of a gradient layer's OUT (R213). -/
def LIn.grad (i : LIn) (row col : Nat) : DW :=
  let r := i.r
  let dy (p o : Nat) : Fv := i.in2.val p o
  let og := r.cout / r.g
  let cg := r.cin / r.g
  match r.mode, r.op with
  | 1, 1 =>
    let n := row / (r.hin * r.win)
    let y := row % (r.hin * r.win) / r.win
    let x := row % r.win
    let g := col / cg
    fsumExact ((List.range r.kh).flatMap (fun a => (List.range r.kw).flatMap (fun b =>
      -- the output position whose window puts kernel position (a, b) on this input
      let yy : Int := (y + r.ph : Nat) - ((a * r.dh : Nat) : Int)
      let xx : Int := (x + r.pw : Nat) - ((b * r.dwd : Nat) : Int)
      let hit := 0 ≤ yy ∧ yy % r.sh = 0 ∧ yy / r.sh < r.hout ∧ 0 ≤ xx ∧ xx % r.sw = 0 ∧ xx / r.sw < r.wout
      (List.range og).map (fun o =>
        if hit then fmulV (dy ((n * r.hout + (yy / r.sh).toNat) * r.wout + (xx / r.sw).toNat) (g * og + o))
          (i.wgt.val ((g * og + o) * r.kh * r.kw + a * r.kw + b) (col % cg)) else fz))))
  | 1, 2 =>
    let n := row / r.hin
    fsumExact ((List.range r.cout).map (fun o => fmulV (dy row o) (i.wgt.val ((if r.bb then 0 else n) * r.cout + o) col)))
  | 1, 7 =>
    fsumExact (i.book.segs.zipIdx.flatMap (fun (seg, k) => (seg.filter (fun p => p.1 == row)).flatMap (fun p =>
      (List.range r.cout).map (fun o => fmulV (dy p.2 o) (i.wgt.val (o * i.book.offsets + k) col)))))
  | 1, 6 =>
    let n := row / (r.hin * r.win)
    let q := row % (r.hin * r.win)
    fsumExact ((List.range (r.hout * r.wout)).flatMap (fun o => (List.range (r.kh * r.kw)).flatMap (fun p =>
      (i.corners (n * r.hout * r.wout + o) p).filterMap (fun c => match c with
        | some (k, wt) => if k = q then some (fmulV (fterm wt) (dy (n * r.hout * r.wout + o) (p * r.cin + col))) else none
        | none => none))))
  | 1, _ =>
    fsumExact ((List.range r.hout).filterMap (fun o => if (bw i.aux o).toNat = row then some (dy o col) else none))
  | _, 1 =>
    let o := row / (r.kh * r.kw)
    let a := row % (r.kh * r.kw) / r.kw
    let b := row % r.kw
    let g := o / og
    fsumExact ((List.range (r.n * r.hout * r.wout)).map (fun p =>
      let n := p / (r.hout * r.wout)
      let y := p % (r.hout * r.wout) / r.wout
      let x := p % r.wout
      let yy : Int := (y * r.sh : Nat) - (r.ph : Int) + (a * r.dh : Nat)
      let xx : Int := (x * r.sw : Nat) - (r.pw : Int) + (b * r.dwd : Nat)
      if 0 ≤ yy ∧ yy < r.hin ∧ 0 ≤ xx ∧ xx < r.win then
        fmulV (i.in_.val (n * r.hin * r.win + yy.toNat * r.win + xx.toNat) (g * cg + col)) (dy p o) else fz))
  | _, 2 => fsumExact ((List.range (r.n * r.hout)).map (fun p => fmulV (i.in_.val p col) (dy p row)))
  | _, _ =>
    let o := row / i.book.offsets
    let k := row % i.book.offsets
    fsumExact ((i.book.segs.getD k []).map (fun p => fmulV (i.in_.val p.1 col) (dy p.2 o)))

/-- The quantisation block: ZP, LO, HI and an entry per channel; or what is wrong with it (R196, R205). -/
def quantOf (r : Lay) (b : Bytes) : Except Check (Int × Int × Int × (Nat → Int × Nat)) :=
  let h := bw b 0
  let lo := sext 8 (bits h 15 8)
  let hi := sext 8 (bits h 23 16)
  let lim : Int := if r.fo = 1 then 8 else 128
  if bits h 31 24 ≠ 0 ∨ ¬ allZero ((List.range 15).map (fun k => bw b (1 + k))) ∨ hi < lo ∨ lo < -lim ∨ lim - 1 < hi then
    .error { cause := 4, d5 := 0xFFFFFFFF }
  else match (List.range r.cout).find? (fun c => bits (bw b (17 + 2 * c)) 31 5 != 0) with
    | some c => .error { cause := 4, d5 := c }
    | none => .ok (sext 8 (bits h 7 0), lo, hi, fun c => ((bw b (16 + 2 * c)).toInt, bits (bw b (17 + 2 * c)) 4 0))

/-- `requant` of R196. -/
def requant (v mult : Int) (shift : Nat) (zp lo hi : Int) : Int × Bool :=
  let y := rdiv (v * mult) (2 ^ (31 + shift)) + zp
  (clampI y lo hi, decide (clampI y lo hi ≠ y))

/-- Counts of what was written. -/
def countKinds (l : List OutKind) : Nat × Nat :=
  ((l.filter (fun k => k == .saturated)).length, (l.filter (fun k => k == .nonfinite)).length)

/-- The rows of OUT with their element kinds. -/
def LIn.rowsOut (i : LIn) (rows l : Nat) (quant : Option (Int × Int × Int × (Nat → Int × Nat))) (epoch : BitVec 64)
    (fv : DW) : List (Bytes × List OutKind) :=
  let r := i.r
  (List.range rows).map (fun row =>
    if r.isInt ∧ r.mode = 0 then
      let vs := (List.range l).map (fun c => i.macI row c + (if r.hBias = 0 then 0 else (i.biasW c).toInt))
      match quant with
      | some (zp, lo, hi, e) =>
        let qs := vs.zipIdx.map (fun (v, c) => requant v (e c).1 (e c).2 zp lo hi)
        (padTo 64 (packCodes r.fo (qs.map (fun q => (BitVec.ofInt (fmtBits r.fo) q.1).toNat))),
          qs.map (fun q => if q.2 then .saturated else .plain))
      | none =>
        let qs := vs.map (fun v => (satS 32 v, decide (satS 32 v ≠ v)))
        (padTo 64 (leWords (qs.map (fun q => dwI q.1))), qs.map (fun q => if q.2 then .saturated else .plain))
    else if r.op = 0x0C then
      let top := rankTop r.topk ((List.range r.cin).map (i.in_.f32 row))
      let top := top.map (fun p => (p.1, if r.vf then (i.tab.map (fun t => vfunc t p.2)).getD p.2 else p.2))
      (padTo 64 (leWords (top.flatMap (fun p => [p.2, dwN p.1]))), top.map (fun p => if fisFinite p.2 then .plain else .nonfinite))
    else
      let ys := if r.mode ≠ 0 then (List.range l).map (i.grad row)
        else if r.op = 1 ∨ r.op = 2 ∨ r.op = 7 then
          (List.range l).map (fun c => if r.hBias = 0 then i.macF row c else fadd (i.macF row c) (i.biasW c))
        else i.vecRow fv row
      let ys := if r.vf then (match i.tab with | some t => ys.map (vfunc t) | none => ys) else ys
      let rs := rowRS r.fo l false
      encRow r.fo (if r.sr then some (fun c => srDraw epoch r.hOut ((row * rs) / 2 + c)) else none) ys)

/-- Execute a layer record (R195–R214). -/
def Dev.runLayer (d : Dev) (x : Desc) : Res :=
  let r := layOf x.jobs
  let fail (c : Check) : Res :=
    { st := .failedCheck,
      post := fun d => d.event (x.ev 0x62 (d4 := dwN c.cause) (d5 := dwN c.d5) (d6 := dwN c.d6)) }
  let auxN := d.lenOf x r.hAux - r.auxOff
  let aux := if r.hAux = 0 then [] else d.rd x r.hAux r.auxOff (if r.op = 7 then auxN else r.auxLen.getD 0)
  let bookE := if r.op = 7 then rulebook r aux else .ok { offsets := 1, segs := [] }
  let offs := match bookE with | .ok b => b.offsets | .error _ => 1
  let tv (h : DW) (f : Nat) (s : Option (Nat × Nat)) (sp : Bool) : TView :=
    match s with
    | some p => d.tview x h f p.1 p.2 sp
    | none => { b := #[], f := f, l := 1, sp := false }
  let wgt := tv r.hWgt r.wgtFmt (r.wgtShape offs) r.sparse
  let rng (h : DW) (f : Nat) (s : Option (Nat × Nat)) (sp : Bool) : List (DW × Nat × Nat) :=
    match s with
    | some p => [(h, 0, tensorLen f p.1 p.2 sp)]
    | none => []
  let rdr := rng r.hIn r.fa r.inShape false ++ rng r.hIn2 r.in2Fmt r.in2Shape false ++ rng r.hWgt r.wgtFmt (r.wgtShape offs) r.sparse ++
    (if r.hBias = 0 then [] else [(r.hBias, 0, 4 * r.cout)]) ++ (if r.hAux = 0 then [] else [(r.hAux, r.auxOff, aux.length)]) ++
    (if r.quant then [(r.hQuant, r.quantOff, 64 + 8 * r.cout)] else [])
  let tabOf : Option FTab := if r.op = 3 ∨ r.op = 0x0B ∨ (r.vf ∧ r.op ≠ 6 ∧ r.op ≠ 7 ∧ r.op ≠ 8) then ftabOf aux
    else if r.vf then ftabOf (d.rd x r.hAux 0 1088) else none
  let needTab := r.op = 3 ∨ r.op = 0x0B ∨ r.vf
  let nib := wgt.badNibble (match r.wgtShape offs with | some p => p.1 | none => 0)
  let idx := if r.op = 8 then (List.range r.hout).find? (fun o =>
    decide ((bw aux o).toNat ≠ 0xFFFFFFFF ∧ r.hin ≤ (bw aux o).toNat)) else none
  let short := r.op = 7 ∧ ((r.mode ≠ 2 ∧ d.lenOf x r.hWgt < tensorLen r.wgtFmt (r.cout * offs) r.cin false) ∨
    (d.sheet (shIdx r.hOut)).size < r.outLen offs)
  let quantE := if r.quant then (quantOf r (d.rd x r.hQuant r.quantOff (64 + 8 * r.cout))).map some else .ok none
  let res : Res :=
    match bookE, nib, quantE with
    | .error e, _, _ => fail { cause := e.1, d5 := e.2 }
    | .ok _, some p, _ => fail { cause := 0, d5 := p.1, d6 := p.2 }
    | .ok _, none, .error c => fail c
    | .ok book, none, .ok q =>
      if short then fail { cause := 1, d5 := 0 }
      else if needTab ∧ tabOf.isNone then fail { cause := 3, d5 := 0 }
      else match idx with
        | some o => fail { cause := 2, d5 := o }
        | none =>
          let i : LIn :=
            { r := r, in_ := tv r.hIn r.fa r.inShape false, in2 := tv r.hIn2 r.in2Fmt r.in2Shape false, wgt := wgt,
              bias := if r.hBias = 0 then #[] else ((d.rd x r.hBias 0 (4 * r.cout)).map (·.toNat)).toArray, aux := aux,
              book := book, tab := tabOf }
          let s := r.outShape offs
          let epoch : BitVec 64 := BitVec.ofNat 64 (if bitOf (x.w.dw 6) 16 then x.period else x.w.q 14)
          let rows := i.rowsOut s.1 s.2 q epoch (openWord (d.openKey x rdr) 0)
          let (sat, nonf) := countKinds (rows.flatMap (·.2))
          let cap (n : Nat) : DW := dwN (Nat.min n (2 ^ 32 - 1))
          let li := dwN (x.w.f 6 15 0)
          { r4 := cap (s.1 * s.2), r5 := cap (sat + nonf), wr := [(r.hOut, 0, rows.flatMap (·.1))],
            post := fun d =>
              let d := (d.count cTenSat sat).count cTenNonfinite nonf
              let d := if nonf ≠ 0 ∧ bitOf (d.reg 0xB000) 0 then d.event (x.ev 0x60 (d4 := li) (d5 := cap nonf)) else d
              if sat ≠ 0 ∧ bitOf (d.reg 0xB000) 1 then d.event (x.ev 0x61 (d4 := li) (d5 := cap sat)) else d }
  { res with rdr := rdr }

/-- TEN_LAYER. Its own and its records' checks are `checkLayer`. -/
def layerDef : OpDef :=
  { kind := 1
    resv := fun w => w.f 6 31 17 == 0 && w.zero 12 13
    uses := fun js => layUses (layOf js)
    axes := fun d x => d.layAxes (layOf x.jobs)
    run := fun d x => d.runLayer x }

/-! ## The optimiser step (R215, R216) -/

/-- Bytes of STATE. -/
def stepState (w : DescWords) : Nat := (if bitOf (w.dw 6) 0 then 8 else 4) * (w.dw 13).toNat

/-- Sizes and tiers of a TEN_STEP's sheets (R216). -/
def Dev.stepLate (d : Dev) (w : DescWords) : Option Status :=
  let s (h : DW) : Sheet := d.sheet (shIdx h)
  let n := (w.dw 13).toNat
  let t1 (h : DW) (k : Nat) : Bool := (s h).tier == 0 && decide (k ≤ (s h).size)
  if t1 (w.dw 7) (4 * n) && t1 (w.dw 8) (4 * n) && t1 (w.dw 9) (stepState w) && (w.dw 10 == 0 || t1 (w.dw 10) (2 * n)) &&
    (s (w.dw 11)).tier == 0 && decide ((w.dw 12).toNat + 64 ≤ (s (w.dw 11)).size) then
    (if d.board.variant = .bl6440 then some .refusedUnitAbsent else none)
  else some .refusedMalformed

/-- One element of the step (R215): the new weight and state words, none when its gradient is skipped. -/
def stepElem (adam : Bool) (p : Nat → DW) (w m v g : DW) : Option (DW × DW × DW) :=
  if !fisFinite g then none
  else
    let lr := p 0
    let b1 := p 1
    let b2 := p 2
    let clip := p 7
    let one : DW := 0x3F800000
    let g := if fabs clip = 0 then g
      else
        let lo := fneg clip
        let t := if fLt g lo then lo else g
        if fLt clip t then clip else t
    let decay (u : DW) : DW := fsub w (fmul lr (fadd u (fmul (p 4) w)))
    if adam then
      let m := ffma b1 m (fmul (fsub one b1) g)
      let v := ffma b2 v (fmul (fsub one b2) (fmul g g))
      let u := fdiv (fmul m (p 5)) (fadd (fsqrt (fmul v (p 6))) (p 3))
      some (decay u, m, v)
    else
      let m := ffma b1 m g
      some (decay m, m, v)

/-- Execute a TEN_STEP. -/
def Dev.runStep (d : Dev) (x : Desc) : Res :=
  let w := x.w
  let n := (w.dw 13).toNat
  let adam := bitOf (w.dw 6) 0
  let mb := d.rd x (w.dw 7) 0 (4 * n)
  let gb := d.rd x (w.dw 8) 0 (4 * n)
  let sb := d.rd x (w.dw 9) 0 (stepState w)
  let pb := d.rd x (w.dw 11) (w.dw 12).toNat 64
  let epoch : BitVec 64 := BitVec.ofNat 64 (if bitOf (w.dw 6) 2 then x.period else w.q 14)
  let es := (List.range n).map (fun e =>
    let old := (bw mb e, bw sb e, if adam then bw sb (n + e) else 0)
    match stepElem adam (bw pb) old.1 old.2.1 old.2.2 (bw gb e) with
    | some t => (t, true)
    | none => (old, false))
  let skipped := (es.filter (fun e => !e.2)).length
  let out := es.zipIdx.flatMap (fun (e, k) =>
    toLe (if bitOf (w.dw 6) 1 then (bf16Sr e.1.1 (srDraw epoch (w.dw 10) k)).1 else toBf16 e.1.1) 2)
  { r4 := dwN (n - skipped), r5 := dwN skipped,
    rdr := [(w.dw 7, 0, 4 * n), (w.dw 8, 0, 4 * n), (w.dw 9, 0, stepState w), (w.dw 11, (w.dw 12).toNat, 64)],
    wr := [(w.dw 7, 0, leWords (es.map (fun e => e.1.1))),
      (w.dw 9, 0, leWords (es.map (fun e => e.1.2.1)) ++ (if adam then leWords (es.map (fun e => e.1.2.2)) else []))] ++
      (if w.dw 10 = 0 then [] else [(w.dw 10, 0, out)]),
    post := fun d => d.count cTenSkip skipped }

/-- TEN_STEP. -/
def stepDef : OpDef :=
  { kind := 1
    resv := fun w => w.f 6 31 3 == 0 && w.f 12 5 0 == 0
    form := fun js => js.all (fun w => w.dw 13 != 0)
    uses := fun js => js.flatMap (fun w => [Use.rd (w.dw 8), Use.rd (w.dw 11), Use.wr (w.dw 7), Use.wr (w.dw 9)] ++
      (if w.dw 10 = 0 then [] else [Use.wr (w.dw 10)]))
    late := fun d js => js.findSome? d.stepLate
    axes := fun _ x r => if r = .batch ∨ r = .rows then some ((x.w.dw 13).toNat, 1) else none
    run := fun d x => d.runStep x }

end Sys2Proof.Machine
end

