-- ==== Sys2Proof/Machine/OpTable.lean ====
section
/-! DEFINITION. The opcodes: which operation a leaf runs, which effect the device has itself, and the checks of a descriptor at
fetch in the order of R90, for a ring entry, a stage of a firing and a stage being armed. -/

namespace Sys2Proof.Machine

/-- Where a descriptor is checked: fetched from a ring, injected by a firing (R297), or named in a plan being armed (R295). -/
inductive Stage where
  | ring | firing | arming
  deriving DecidableEq, Repr

/-- The operation a leaf runs for an opcode. -/
def opDefOf (w : DescWords) : Option OpDef :=
  match w.opc with
  | 0x20 => some remapDef | 0x21 => some sgmDef | 0x22 => some featDef | 0x30 => some layerDef | 0x31 => some stepDef
  | 0x40 => some propagateDef | 0x41 => some cloudDef | 0x42 => some projectDef | 0x43 => some factorsDef
  | 0x44 => some gateDef | 0x50 => some structDef | 0x51 => some updateDef | 0x52 => some extractDef
  | 0x53 => some solveDef | 0x54 => some kernelDef | 0x60 => some mapCreateDef | 0x61 => some mapCommitDef
  | 0x62 => some (mapCompactDef (if w.f 6 2 0 = 0 then 8 else 7))
  | 0x63 => some ldgOpsDef | 0x64 => some ldgScanDef | 0x65 => some ldgRulebookDef | 0x66 => some ldgFieldDef
  | 0x68 => some srcQueryDef | 0x69 => some srcInsertDef | 0x6A => some srcDeleteDef | 0x6B => some srcKnnDef
  | 0x7B => some mapExportDef | 0x7E => some mapLoadDef
  | _ => none

/-! ## Jobs and selectors -/

end Sys2Proof.Machine

namespace Sys2Proof
open Machine

/-- A list of jobs is asked for (R167). -/
def DescWords.isList (w : DescWords) : Bool := decide (0x20 ≤ w.opc ∧ w.opc ≤ 0x22) && bitOf (w.dw 6) 31

/-- The reserved bits of a list descriptor (R167). -/
def DescWords.listResv (w : DescWords) : Bool := (w.dw 6).toNat == 2 ^ 31 && w.within 8 31 && w.zero 10 15

/-- The fields of a list descriptor lie in their ranges (R167). -/
def DescWords.listForm (w : DescWords) : Bool := decide (1 ≤ w.f 8 4 0 ∧ w.f 8 4 0 ≤ 16 ∧ (w.dw 9).toNat % 64 = 0)

end Sys2Proof

namespace Sys2Proof.Machine

/-- The jobs of a descriptor at an applied level; none when the sheet that holds them cannot be read (R167, R204). -/
def Dev.jobsOf (d : Dev) (w : DescWords) (level : Nat) : Option (List DescWords) :=
  if 0x20 ≤ w.opc ∧ w.opc ≤ 0x22 then d.visJobs w
  else if w.opc = 0x44 then d.gateJobs w
  else if w.opc = 0x30 then some (d.layRec w level)
  else some [w]

end Sys2Proof.Machine

namespace Sys2Proof
open Machine

/-- Sheets read at acceptance without a reader token: a job list, a plan of layers, GROUPS. -/
def DescWords.preUses (w : DescWords) : List Use :=
  if w.isList ∨ w.opc = 0x30 then [Use.rdAny (w.dw 7)] else if w.opc = 0x44 then [Use.rdAny (w.dw 9)] else []

end Sys2Proof

namespace Sys2Proof.Machine

/-- The ranges a descriptor's words make the device read at fetch or acceptance, without a reader token (R31, R167, R204,
R240): its job list, layer records, GROUPS, member list or plan image. -/
def Dev.fetchReads (d : Dev) (w : DescWords) : List (DW × Nat × Nat) :=
  let ok (h : DW) (off n : Nat) : List (DW × Nat × Nat) :=
    let s := d.sheet (shIdx h)
    if (d.handleStatus h).isNone && s.tok == .set && decide (off + n ≤ s.size) then [(h, off, n)] else []
  if w.isList then ok (w.dw 7) (w.dw 9).toNat (64 * w.f 8 4 0)
  else if w.opc = 0x30 then (List.range (w.maxShrink + 1)).flatMap (fun l => ok (w.dw 7) (w.dw (8 + l)).toNat 128)
  else if w.opc = 0x44 then ok (w.dw 9) 0 48
  else if w.opc = 0x01 ∧ bitOf (w.dw 6) 19 then ok (w.dw 8) (w.dw 9).toNat (4 * w.f 6 18 8)
  else []

/-- A word read at fetch cannot be used (R333). -/
def Dev.fetchBad (d : Dev) (w : DescWords) : Bool := (d.fetchReads w).any (fun r => d.badIn (shIdx r.1) r.2.1 r.2.2)

/-- A job of this descriptor has a selector in words 10–15, a plough selector or not. -/
def selKind (opc : Nat) (j : DescWords) : Option Bool :=
  if opc = 0x40 ∨ (opc = 0x43 ∧ j.f 6 3 0 = 1) then some true
  else if opc = 0x41 ∨ (opc = 0x20 ∧ ¬ bitOf (j.dw 6) 0) then some false else none

end Sys2Proof.Machine

namespace Sys2Proof
open Machine

/-- The descriptor's own words hold a selector. -/
def DescWords.hasSel (w : DescWords) : Bool := !w.isList && (selKind w.opc w).isSome

end Sys2Proof

namespace Sys2Proof.Machine

/-- The selectors of the jobs of a descriptor, in job order. -/
def Dev.selsOf (d : Dev) (w : DescWords) (js : List DescWords) : List SelMatch :=
  if w.opc = 0x30 ∨ w.opc = 0x44 then []
  else js.filterMap (fun j => (selKind w.opc j).map (fun p => selOf d j 10 p))

/-- The jobs whose selectors their operation's own checks do not cover: those of VIS_REMAP (R122). -/
def Dev.remapSels (d : Dev) (w : DescWords) (js : List DescWords) : Option Status :=
  if w.opc = 0x20 then js.findSome? (fun j => if bitOf (j.dw 6) 0 then none else d.checkSel j 10 false) else none

/-! ## Time offsets of a stage (R293) -/

end Sys2Proof.Machine

namespace Sys2Proof
open Machine

/-- A 64-bit field as a signed number. -/
def DescWords.sq (w : DescWords) (i : Nat) : Int := sext 64 (w.q i)

/-- Words `i` and `i + 1` replaced by a time, 0 for one before it. -/
def DescWords.putTime (w : DescWords) (i : Nat) (t : Int) : DescWords :=
  (w.put i (dwN t.toNat)).put (i + 1) (dwN (t.toNat / 2 ^ 32))

/-- The fields that are offsets lie in their range (R293). -/
def DescWords.offsetsOk (w : DescWords) : Bool :=
  let m : Int := 2 ^ 47 - 1
  (decide (w.q 4 = 0) || decide (1 ≤ w.sq 4 ∧ w.sq 4 ≤ m)) &&
    (!w.hasSel || (decide (-m ≤ w.sq 12 ∧ w.sq 12 ≤ m) && decide (-m ≤ w.sq 14 ∧ w.sq 14 ≤ m)))

/-- The selector offsets of a stage made device times. -/
def DescWords.shiftSel (w : DescWords) (t : Int) : DescWords :=
  if w.hasSel then (w.putTime 12 (w.sq 12 + t)).putTime 14 (w.sq 14 + t) else w

/-- A stage's descriptor at its injection: T_k added to DEADLINE and to the selectors (R293). -/
def DescWords.atTime (w : DescWords) (t : Nat) : DescWords :=
  let w := w.shiftSel t
  if w.deadline = 0 then w else w.putTime 4 (w.sq 4 + t)

/-- A stage's descriptor as it is checked at arming: no DEADLINE, its selectors in a window that has not passed, so that
nothing is compared with device time. -/
def DescWords.atArming (w : DescWords) (now : Nat) : DescWords := (w.shiftSel ((now : Int) + 2 ^ 47)).putTime 4 0

end Sys2Proof

namespace Sys2Proof.Machine

/-- The opcodes a stage must not hold (R294). -/
def stageForbids (opc : Nat) : Bool :=
  decide (1 ≤ opc ∧ opc ≤ 6) || decide (8 ≤ opc ∧ opc ≤ 0x0A) || ([0x10, 0x11, 0x14, 0x70, 0x71] : List Nat).contains opc

/-! ## Operations the device runs itself -/

/-- An opcode without an operation on a leaf: reserved bits, whether it is OWNER-only, the sheets it uses with the second
context whose ownership counts, and the checks of its chapter. -/
structure Ctl where
  /-- no reserved bit of the operation words is set (R7) -/
  resv  : DescWords → Bool
  owner : Bool := true
  /-- it has a target, to which R16 and R17 apply -/
  named : Bool := true
  /-- items 3 and 4 of R16 apply: to every target but BIND's -/
  fresh : Bool := true
  uses  : DescWords → List Use := fun _ => []
  also  : DescWords → Option Nat := fun _ => none
  check : Dev → Nat → DescWords → Option Status := fun _ _ _ => none

/-- A chapter check after the kind of the target. -/
def onKind (k : Nat) (f : Dev → Nat → DescWords → Option Status) (d : Dev) (c : Nat) (w : DescWords) : Option Status :=
  if uKind w.target = k then f d c w else some .refusedMalformed

/-- Reserved bits of BIND. -/
def bindResv (w : DescWords) : Bool :=
  w.f 6 31 20 == 0 && w.within 7 0xFF3F &&
    (if bitOf (w.dw 6) 19 then w.zero 10 15 else (List.range 8).all (fun k => w.f (8 + k) 31 24 == 0))

/-- The checks of CTX_OPEN (R80). -/
def Dev.checkOpen (d : Dev) (_ : Nat) (w : DescWords) : Option Status := d.mayOpen (w.f 6 5 0)

/-- The checks of CTX_TEARDOWN (R103). -/
def Dev.checkTear (d : Dev) (c : Nat) (w : DescWords) : Option Status :=
  if w.f 6 5 0 = c then some .refusedMalformed
  else if d.live (w.f 6 5 0) (BitVec.ofNat 8 (w.f 6 15 8)) then none else some .refusedContextGone

/-- A unit that UNIT_DISABLE and UNIT_ENABLE may name: a leaf, folio, quire or gathering. -/
def mayDisable (h : Nat) : Bool :=
  let k := uKind h
  decide (1 ≤ k ∧ k ≤ 8) || k == 13 || k == 14 || k == 0

/-- The checks of UNIT_DISABLE and UNIT_ENABLE; an out-of-service partition refuses the enable (R101, R102). -/
def Dev.checkUnit (enable : Bool) (d : Dev) (_ : Nat) (w : DescWords) : Option Status :=
  if !mayDisable w.target then some .refusedMalformed
  else if enable ∧ ((unitPart (uIdx w.target)).map (fun p => d.partState p == 4)).getD false then some .refusedDisabled else none

/-- The checks of SCH_DISARM (R296). -/
def Dev.checkDisarm (d : Dev) (c : Nat) (w : DescWords) : Option Status :=
  if w.target ≠ hTimebase then some .refusedMalformed
  else match Tab.get? d.plans (w.f 6 3 0) with
    | some p => if p.ctx = c ∨ d.owner c then none else some .refusedPort
    | none => none

/-- FLT_RESTORE names a quire (R351). -/
def Dev.checkRestore (_ : Dev) (_ : Nat) (w : DescWords) : Option Status := if uKind w.target = 14 then none else some .refusedMalformed

/-- The opcodes the device runs itself. SCH_ARM's chapter checks follow in the plan's file. -/
def ctlOf (w : DescWords) : Option Ctl :=
  match w.opc with
  | 0x00 => some { resv := fun w => w.zero 6 15, owner := false, named := false }
  | 0x01 => some { resv := bindResv, fresh := false, check := fun d _ w => d.checkBind w }
  | 0x02 => some { resv := fun w => w.zero 6 15, check := fun d _ w => d.checkUnbind w }
  | 0x03 => some { resv := fun w => w.within 6 0x3F && w.zero 7 15, named := false, check := Dev.checkOpen }
  | 0x04 => some { resv := fun w => w.within 6 0xFF3F && w.zero 7 15, named := false, check := Dev.checkTear }
  | 0x05 => some { resv := fun w => w.zero 6 15, check := Dev.checkUnit false }
  | 0x06 => some { resv := fun w => w.zero 6 15, check := Dev.checkUnit true }
  | 0x08 => some { resv := allocResv, check := onKind 9 (fun d _ w => d.checkAlloc w) }
  | 0x09 => some { resv := fun w => w.zero 7 15, check := onKind 9 (fun d _ w => d.checkFree w) }
  | 0x0A => some { resv := fun w => w.within 7 0x00FF3F07 && w.zero 8 15, check := onKind 9 (fun d _ w => d.checkPin w) }
  | 0x0B => some { resv := moveResv, owner := false, uses := moveUses, also := moveCtx, check := onKind 9 (fun d _ w => d.checkMove w) }
  | 0x0C => some { resv := fun w => w.within 7 0x00FF3F06 && w.zero 8 15, check := onKind 9 (fun d _ w => d.checkPin w) }
  | 0x10 => some { resv := fun w => w.f 6 31 7 == 0 && w.zero 7 7 && w.zero 12 15, check := fun d _ w => d.checkTbTrigger w }
  | 0x11 => some { resv := fun w => w.within 8 1 && w.zero 9 15, check := fun d _ w => d.checkTbStep w }
  | 0x14 => some { resv := fun w => w.within 8 1 && w.zero 9 9 && w.zero 12 15, uses := fun w => [Use.rdAny (w.dw 6)],
                   check := fun d _ w => d.checkPlgSwap w }
  | 0x70 => some { resv := fun w => w.f 6 31 8 == 0 && w.f 15 31 24 == 0, owner := false }
  | 0x71 => some { resv := fun w => w.within 6 0xF && w.zero 7 15, owner := false, check := Dev.checkDisarm }
  | 0x78 => some { resv := fun w => w.f 6 31 5 == 0 && w.zero 8 15, check := onKind 12 (fun d c w => d.checkTrack c w) }
  | 0x79 => some { resv := fun w => w.f 6 31 6 == 0 && w.zero 7 15, check := onKind 12 (fun d _ w => d.checkResync w) }
  | 0x7A => some { resv := fun w => w.f 6 31 1 == 0 && w.zero 9 15, named := false,
                   uses := fun w => [Use.rdAny (w.dw 7), Use.wrAny (w.dw 8)], check := fun d _ w => d.checkQuote w }
  | 0x7C => some { resv := fun w => w.f 6 31 5 == 0 && w.dw 15 == 0, uses := crcUses, check := onKind 9 (fun d _ w => d.checkCrc w) }
  | 0x7D => some { resv := fun w => w.zero 6 15, check := Dev.checkRestore }
  | 0x7F => some { resv := fun w => w.f 6 31 3 == 0 && w.zero 11 15, named := false, uses := fun w => if w.f 6 1 0 = 0 ∨ w.f 6 1 0 = 3 then [Use.rdAny (w.dw 7)] else [],
                   check := fun d _ w => d.checkInstall w }
  | _ => none

/-! ## The checks at fetch (R90) -/

/-- Step 1 of R90 on the header: reserved bits, R88, PERIODIC (R295), and no target where none is taken (R89, R361). -/
def headForm (w : DescWords) (m : Stage) : Bool :=
  w.f 0 15 13 == 0 && w.dw 3 == 0 && decide (w.maxShrink ≤ 3) && (w.optional || w.maxShrink == 0) &&
    (w.periodic == (w.opc == 0x70)) && (m == .ring || !stageForbids w.opc) && (m != .arming || w.offsetsOk) &&
    (!(([0x00, 0x03, 0x04, 0x7A, 0x7F] : List Nat).contains w.opc) || w.target == 0)

/-- Step 1 of R90 on the operation words of a leaf's operation; the ranges of its fields belong to its chapter (step 5). -/
def opResv (w : DescWords) (o : OpDef) : Bool := if w.isList then w.listResv else o.resv w

/-- The opcodes among leaf operations that are OWNER-only (R361, R369). -/
def opOwner (opc : Nat) : Bool := opc == 0x7B || opc == 0x7E

/-- Steps 2 and 3 of R90: class, then target. -/
def Dev.checkPort (d : Dev) (c : Nat) (w : DescWords) (owner named : Bool) (fresh : Bool := true) : Option Status :=
  if owner && !d.owner c then some .refusedPort
  else if !named then none
  else match (if fresh then d.checkTarget w.target else d.handleForm w.target) with
    | some st => some st
    | none => d.checkTenant c w.target

/-- A DEADLINE too far ahead (R134). -/
def Dev.checkDeadline (d : Dev) (w : DescWords) : Option Status := if targetOk d.now w.deadline then none else some .refusedMalformed

/-- An input below the length its operation needs; a ZERO-PACK home's length is not known yet (R403). -/
def Dev.tooShort (d : Dev) (l : List (DW × Nat)) : Bool :=
  l.any (fun p => let s := d.sheet (shIdx p.1); !(s.zp && s.tier != 0) && decide (s.size < p.2))

/-- The chapter checks of a leaf's operation on its jobs; under LIST a failing entry is REFUSED_MALFORMED (R167). -/
def Dev.checkJobs (d : Dev) (c : Nat) (w : DescWords) (m : Stage) (o : OpDef) (js : List DescWords) : Option Status :=
  let list (st : Option Status) : Option Status := if w.isList then st.map (fun _ => Status.refusedMalformed) else st
  match (o.uses js).findSome? (d.useStatus c none) with
  | some st => some st
  | none =>
      if d.targetOff w.target then some .refusedDisabled
      else if (w.isList ∧ !js.all o.resv) ∨ !o.form js ∨ (w.opc = 0x31 ∧ ¬ epochOk w (bitOf (w.dw 6) 2) (m != .ring)) then
        some .refusedMalformed
      else if !d.hasKind o.kind w.target ∨ d.tooShort (o.needs js) then some .refusedMalformed
      else match list (d.remapSels w js) with
        | some st => some st
        | none =>
          match list (o.late d js) with
          | some st => some st
          | none => d.checkDeadline w

/-- Steps 4 and 5 of R90 for a leaf's operation. -/
def Dev.checkOp (d : Dev) (c : Nat) (w : DescWords) (m : Stage) (o : OpDef) : Option Status :=
  match w.preUses.findSome? (d.useStatus c none) with
  | some st => some st
  | none =>
    if w.isList ∧ !w.listForm then some .refusedMalformed
    else if d.fetchBad w then some .failedUncorrectable
    else if w.opc = 0x30 then
      if !d.layPlanOk w then some .refusedMalformed
      else match ((d.layRecs w).flatMap layUses).findSome? (d.useStatus c none) with
        | some st => some st
        | none =>
          if d.targetOff w.target then some .refusedDisabled
          else if !d.hasKind o.kind w.target then some .refusedMalformed
          else match d.checkLayer w (m != .ring) with
            | some st => some st
            | none => d.checkDeadline w
    else match d.jobsOf w 0 with
      | none => some .refusedMalformed
      | some js => d.checkJobs c w m o js

/-- Steps 4 and 5 of R90 for an opcode the device runs itself. UNIT_DISABLE, UNIT_ENABLE and FLT_RESTORE answer for a unit out
of service under their own rules (R101). -/
def Dev.checkCtl (d : Dev) (c : Nat) (w : DescWords) (k : Ctl) : Option Status :=
  match (k.uses w).findSome? (d.useStatus c (k.also w)) with
  | some st => some st
  | none =>
    if k.named && !([0x05, 0x06, 0x7D] : List Nat).contains w.opc && d.targetOff w.target then some .refusedDisabled
    else match k.check d c w with
      | some st => some st
      | none => d.checkDeadline w

/-- The checks of a descriptor of context `c` in the order of R90. A device out of service refuses every descriptor
(R349). -/
def Dev.checkAt (d : Dev) (c : Nat) (w : DescWords) (m : Stage) : Option Status :=
  let v := if m = .arming then w.atArming d.now else w
  if d.flt.devOos then some .refusedDisabled
  else if !headForm w m then some .refusedMalformed
  else
    match opDefOf v with
    | some o =>
      if !opResv v o then some .refusedMalformed
      else match d.checkPort c v (opOwner v.opc) true with
        | some st => some st
        | none => d.checkOp c v m o
    | none =>
      match ctlOf v with
      | none => some .refusedMalformed
      | some k =>
        if !k.resv v then some .refusedMalformed
        else match d.checkPort c v k.owner k.named k.fresh with
          | some st => some st
          | none => d.checkCtl c v k

/-- Every sheet use of a descriptor at its applied level, each sheet once, a write dominating a read (R54). -/
def mergeUses (l : List Use) : List Use :=
  l.foldl (fun acc u =>
    if acc.any (fun a => shIdx a.h == shIdx u.h) then
      acc.map (fun a => if shIdx a.h = shIdx u.h ∧ u.write then { a with write := true } else a)
    else acc ++ [u]) []

/-- The sheet uses of an accepted descriptor. -/
def Desc.uses (x : Desc) : List Use :=
  match opDefOf x.w with
  | some o => mergeUses (o.uses x.jobs)
  | none => match ctlOf x.w with
    | some k => mergeUses (k.uses x.w)
    | none => []

/-- Sheets a descriptor's own words name beside those it uses: its job list, layer record, group or member list, a plan and its RECORDS,
and the home of a pin, an eviction or a tracking. -/
def namesToo (w : DescWords) : List DW :=
  if w.isList ∨ w.opc = 0x30 then [w.dw 7]
  else if w.opc = 0x44 then [w.dw 9]
  else if w.opc = 0x01 ∧ bitOf (w.dw 6) 19 then [w.dw 8]
  else if w.opc = 0x70 then [w.dw 7, w.dw 14]
  else if w.opc = 0x0A ∨ w.opc = 0x0C then [w.dw 6]
  else if w.opc = 0x78 then [w.dw 7]
  else []

/-- A descriptor names a sheet handle (R53). -/
def Desc.names (x : Desc) (h : DW) : Bool := (namesToo x.w).contains h || x.uses.any (fun u => u.h == h)

end Sys2Proof.Machine
end

