-- ==== Sys2Proof/Machine/PlanArm.lean ====
section
/-! DEFINITION. Plans: the plan image, the checks and the effect of SCH_ARM (R71, R293–R295, R327), SCH_DISARM (R296), and the
catchword promotions of a running firing (R70). -/

namespace Sys2Proof.Machine

/-- A plan image as it stands in its sheet. -/
structure PlanImage where
  bytes   : Bytes
  size    : Nat
  stages  : Nat
  stageAt : Nat
  cwAt    : Nat
  cwN     : Nat

/-- The plan image a SCH_ARM names: the bytes from its header to the end of its tables, and the bytes left in PLAN. -/
def Dev.planImage (d : Dev) (w : DescWords) : PlanImage :=
  let s := d.sheet (shIdx (w.dw 7))
  let off := (w.dw 8).toNat
  let h := d.plainRead (shIdx (w.dw 7)) off 64
  let n := bits (bw h 2) 10 0
  let sa := (bw h 4).toNat
  let ca := (bw h 5).toNat
  let cn := bits (bw h 6) 15 0
  let stop := Nat.max 64 (Nat.max (sa + 256 * n) (ca + 8 * cn))
  let left := s.size - off
  { bytes := if stop ≤ left then d.plainRead (shIdx (w.dw 7)) off stop else h, size := left, stages := n, stageAt := sa, cwAt := ca,
    cwN := cn }

/-- Slot `k` of stage `i`. -/
def PlanImage.slot (p : PlanImage) (i k : Nat) : DescWords :=
  let b := bslice p.bytes (p.stageAt + 256 * i + 64 * k) 64
  Vector.ofFn (fun j => bw b j.val)

/-- Catchword entry `j`: home, layer, mover. -/
def PlanImage.entry (p : PlanImage) (j : Nat) : DW × Nat × Nat :=
  let b := bslice p.bytes (p.cwAt + 8 * j) 8
  (bw b 0, bnat b 4 2, bnat b 6 1 % 8)

/-- Item 1 of R295 on the image: its header's fields, MAGIC, and tables inside PLAN. -/
def PlanImage.form (p : PlanImage) : Bool :=
  let h := p.bytes
  decide (64 ≤ p.size) && bw h 0 == 0x504C4E31 && decide ((bw h 1).toNat &&& 0xFFFFF0FE = 0) && decide (bits (bw h 1) 11 8 ≤ 8) &&
    decide (1 ≤ p.stages ∧ p.stages ≤ 1024) && bits (bw h 2) 31 11 == 0 && decide (1 ≤ (bw h 3).toNat ∧ (bw h 3).toNat ≤ 1000000) &&
    decide (p.stageAt % 64 = 0 ∧ p.cwAt % 8 = 0) && bits (bw h 6) 31 16 == 0 && allZero ((List.range 9).map (fun k => bw h (7 + k))) &&
    decide (p.stageAt + 256 * p.stages ≤ p.size ∧ p.cwAt + 8 * p.cwN ≤ p.size) &&
    (List.range p.cwN).all (fun j => let b := bslice p.bytes (p.cwAt + 8 * j) 8; bnat b 6 2 / 8 == 0)

/-- Every catchword entry. -/
def PlanImage.catchwords (p : PlanImage) : List (DW × Nat × Nat) := (List.range p.cwN).map p.entry

/-- The first stage slot that fails its checks, and the status (item 5 of R295). -/
def Dev.badStage (d : Dev) (c : Nat) (p : PlanImage) : Option (Status × Nat) :=
  (List.range p.stages).findSome? (fun i =>
    let opt := (p.slot i 0).optional
    (List.range 4).findSome? (fun k =>
      let w := p.slot i k
      if allZero w.toList then none
      else if k ≠ 0 ∧ ¬ opt then some (.refusedMalformed, 4 * i + k)
      else (d.checkAt c w .arming).map (fun st => (st, 4 * i + k))))

/-- The largest sum of plain lengths over the distinct homes below T1 named in a window of d + 1 layers, in 4 KiB (R71). -/
def Dev.footprint (d : Dev) (look : Nat) (cw : List (DW × Nat × Nat)) : Nat :=
  let low := cw.filter (fun e => shTier e.1 != 0)
  (low.map (fun a =>
    let win := (low.filter (fun e => decide (a.2.1 ≤ e.2.1 ∧ e.2.1 ≤ a.2.1 + look))).map (·.1)
    sumBy (fun h => chargeOf 0 (d.plainLen (shIdx h))) win.dedup)).foldl Nat.max 0

/-- A context's pinned T1 use: the copies it owns and has pinned, in 4 KiB. -/
def Dev.pinnedT1 (d : Dev) (c : Nat) : Nat :=
  sumBy (fun p => if p.2.owner = some c ∧ p.2.tier = 0 ∧ p.2.pins.contains c then chargeOf 0 p.2.charge else 0) d.copies

/-- LOOKAHEAD of an image; 0 stands for SPN_CFG.CATCHWORD_D. -/
def Dev.lookahead (d : Dev) (p : PlanImage) : Nat :=
  let l := bits (bw p.bytes 1) 11 8
  if l = 0 then d.regF 0x3008 3 0 else l

/-- The catchword checks of R71. -/
def Dev.checkCw (d : Dev) (c : Nat) (p : PlanImage) : Option Status :=
  let cw := p.catchwords
  if cw.any (fun e => (d.handleStatus e.1).isSome) then some .refusedMalformed
  else if d.quota c 0 < d.footprint (d.lookahead p) cw + d.pinnedT1 c then some .refusedQuota else none

/-- The fields of a SCH_ARM lie in their ranges (item 1 of R295). -/
def armForm (w : DescWords) : Bool :=
  let wait := w.f 15 23 8
  (w.dw 8).toNat % 64 == 0 && decide (5000 ≤ (w.dw 9).toNat ∧ (w.dw 9).toNat ≤ 1000000) && decide (1 ≤ w.f 15 7 0) &&
    decide (wait ≤ 10000) && (bitOf (w.dw 6) 4 || wait == 0)

/-- The checks of SCH_ARM beyond R90's first three steps, in the order of R295: the status, and DW4 of the refusal. The regulator
lost below 0.72 V refuses it (R381). -/
def Dev.checkArm (d : Dev) (c : Nat) (w : DescWords) : Option (Status × DW) :=
  let no (st : Status) : Option (Status × DW) := some (st, 0)
  let mal := no .refusedMalformed
  if w.target ≠ hTimebase then mal
  else match [Use.rdAny (w.dw 7), Use.wrAny (w.dw 14)].findSome? (d.useStatus c none) with
    | some st => no st
    | none =>
      let p := d.planImage w
      let rs := d.sheet (shIdx (w.dw 14))
      if !armForm w ∨ (d.sheet (shIdx (w.dw 7))).tier ≠ 0 ∨ (Tab.get? d.plans (w.f 6 3 0)).isSome then mal
      else if d.badIn (shIdx (w.dw 7)) (w.dw 8).toNat p.bytes.length then no .failedUncorrectable
      else if ¬ p.form then mal
      else if bits (bw p.bytes 1) 0 0 ≠ d.board.variant.grain then mal
      else if rs.tier ≠ 3 ∨ rs.size < w.f 15 7 0 * (64 + 32 * p.stages) then mal
      else if !targetOk d.now (w.q 10) then mal
      else match d.badStage c p with
        | some (st, k) => some (st, dwN k)
        | none =>
          match d.checkCw c p with
          | some st => no st
          | none =>
            if d.pwr.pmbFault ∧ d.pwr.setMv < 720 then no .refusedDisabled
            else (d.checkDeadline w).map (fun st => (st, 0))

/-- A SCH_ARM waits before acceptance while the governor restores VDD_C (R381). -/
def Dev.armWaits (d : Dev) (w : DescWords) : Bool := w.opc == 0x70 && decide (d.pwr.setMv < 720) && !d.pwr.pmbFault

/-- The plan identity of R327: the image from its header through its tables, PERIOD_US, START, BASE_EPOCH and the tracked
handles in ascending order. -/
def Dev.planIdent (d : Dev) (w : DescWords) (p : PlanImage) : Digest :=
  let hs := sortBy (fun (a b : DW) => decide (a.toNat ≤ b.toNat)) (d.mslot (w.f 6 3 0)).tracked
  sha3 (p.bytes ++ le32 (w.dw 9) ++ toLe (w.q 10) 8 ++ toLe (w.q 12) 8 ++ leWords hs)

/-- An accepted SCH_ARM takes its slot, keeps the caps at the floor or above (R19), and raises SCH_ARMED; a mirrored plan tells
the partner (R295, R327). -/
def Dev.runArm (d : Dev) (x : Desc) : Dev :=
  let w := x.w
  let slot := w.f 6 3 0
  let p := d.planImage w
  let mir := bitOf (w.dw 6) 4
  let plan : Plan :=
    { armId := x.id, ctx := x.ctx, ctxGen := x.ctxGen, tag := w.tag, mirrored := mir, evt := bitOf (w.dw 6) 5, prio := w.f 6 7 6,
      stages := (List.range p.stages).map (fun i => (List.range 4).map (p.slot i)), cw := p.catchwords, look := d.lookahead p,
      slackUs := (bw p.bytes 3).toNat, periodUs := (w.dw 9).toNat, t0 := w.q 10, epoch := BitVec.ofNat 64 (w.q 12),
      records := w.dw 14, ringN := w.f 15 7 0, waitUs := w.f 15 23 8, next := 0, running := false, rAt := 0, sAt := 0, cAt := 0,
      debt := 0, debtIn := 0, level := 0, high := false, diverged := false, missed := false, refused := false, recs := [], firings := 0,
      stopping := false, cwDone := [], peer := [] }
  let ident := d.planIdent w p
  let d := { d with plans := Tab.set d.plans slot plan }
  let d := d.modDesc x.id (fun y => { y with await_ := .armed slot, phase := .dispatched })
  let d := { d with pwr := { d.pwr with
    cap := if d.pwr.cap = 0 then 0 else Nat.max 850 d.pwr.cap
    rates := if d.pwr.cap = 0 then d.pwr.rates else d.pwr.rates.map (fun r => if r = 0 then 0 else Nat.max 850 r) } }
  let d := d.event { code := 0xA0, tag := w.tag, ctx := some x.ctx, d4 := dwN slot, d5 := w.dw 9 }
  if mir then
    ((d.modSlot slot (fun m => { MirSlot.reset with tracked := m.tracked, ident := some ident, peer := m.peer })).sendPlan slot true).pairSlot slot
  else d

/-- SCH_DISARM (R296): on a slot that is not armed it has no effect; else it waits for the slot's SCH_ARM. -/
def Dev.runDisarm (d : Dev) (x : Desc) : Dev :=
  let slot := x.w.f 6 3 0
  match Tab.get? d.plans slot with
  | none => d.endDesc x.id { st := .done }
  | some p =>
    ((d.modDesc x.id (fun y => { y with await_ := .disarm slot p.armId, phase := .dispatched })).stopPlan slot).disarmNow slot

/-! ## Catchword promotions (R70) -/

/-- Promote one catchword home to T1 for a plan's context unless a copy exists, and hold the copy until a layer completes (R70). Where
the home already has a copy, of another context as it may be, the plan's context becomes a reference of it at once, before any read: the
hold "for that context" needs it to be one (DEDUCED, log 85). A promotion that is refused leaves no completion, event or count: the layer
promotes on demand and meets the refusal there (DESIGN CHOICE, log 86). -/
def Dev.cwPromote (d : Dev) (c slot hold cls : Nat) (e : DW × Nat × Nat) : Dev :=
  let i := shIdx e.1
  if shTier e.1 = 0 ∨ (d.sheetOf e.1).isNone then d
  else
    let keep (d : Dev) (k : Nat) : Dev := d.modCopy k (fun y =>
      let y := y.use c d.now
      let was := ((y.heldFor.find? (fun h => h.1 == slot)).map (fun h => h.2.2)).getD 0
      { y with heldFor := y.heldFor.filter (fun h => h.1 != slot) ++ [(slot, c, Nat.max was hold)] })
    match d.copyOf i 0 with
    | some k => keep d k
    | none =>
      let (rid, d1) := d.freshId
      match (d1.promoRead i rid).promote i 0 c e.2.2 cls rid with
      | (d2, .ok k) => keep d2 k
      | (d2, .error _) => d2.modSheet i (fun s => s.release rid .done)

/-- The last layer of a plan at or before a layer (R70). -/
def Plan.lastLayer (p : Plan) (n : Nat) : Nat :=
  (p.stages.filterMap (fun s => s.head?.bind (fun w =>
    if w.opc = 0x30 ∧ w.f 6 15 0 ≤ n then some (w.f 6 15 0) else none))).foldl Nat.max 0

/-- The first part of a layer of a firing is dispatched: the promotions of layer k + d, and of what layers k to k + d − 1 need
and lack, in table order; what layers k to k + d need is held until the last of them completes (R70). -/
def Dev.catchword (d : Dev) (slot layer : Nat) : Dev :=
  match Tab.get? d.plans slot with
  | none => d
  | some p =>
    if p.cwDone.contains layer then d
    else
      let cls := if d.regF 0x1000 5 0 = p.ctx ∧ bitOf (d.reg 0x1000) 6 then 0 else p.prio + 1
      let d := { d with plans := Tab.set d.plans slot { p with cwDone := p.cwDone ++ [layer] } }
      (p.cw.filter (fun e => decide (layer ≤ e.2.1 ∧ e.2.1 ≤ layer + p.look))).foldl
        (fun d e => d.cwPromote p.ctx slot (p.lastLayer (layer + p.look)) cls e) d

end Sys2Proof.Machine
end

