-- ==== Sys2Proof/Machine/Submit.lean ====
section
/-! DEFINITION. From a ring to a result: fetch and acceptance (R82–R87), tokens and copies of an accepted descriptor (R54, R65,
R403), its parts on the leaves (R33, R36), its completion (R39, R41), and the effects of the opcodes the device runs itself. -/

namespace Sys2Proof.Machine

/-! ## Classes and timeouts -/

/-- The primary context, while there is one. -/
def Dev.primary (d : Dev) : Option Nat := if bitOf (d.reg 0x1000) 6 then some (d.regF 0x1000 5 0) else none

/-- Dispatch class of a context's descriptor from a ring or plan priority (R305). -/
def Dev.clsOf (d : Dev) (c n : Nat) : Nat := if d.primary = some c then 0 else n + 1

/-- The leaf kind whose default timeout an opcode takes; none for the plough, the timebase, a mirror port and the device's
own opcodes (R339). -/
def tmoKind (w : DescWords) : Option Nat :=
  match opDefOf w with
  | some o => some o.kind
  | none => if [0x08, 0x09, 0x0A, 0x0B, 0x0C, 0x7C].contains w.opc then some 9 else none

/-- A descriptor's timeout in µs, 0 for none (R339). -/
def Dev.tmoOf (d : Dev) (w : DescWords) : Nat :=
  if [0x00, 0x03, 0x04, 0x70, 0x79].contains w.opc then 0
  else if w.timeoutUs ≠ 0 then w.timeoutUs
  else match tmoKind w with
    | some k => (d.reg (0x15040 + 4 * k)).toNat
    | none => 0

/-! ## Acceptance (R85, R54) -/

/-- The bound gatherings a handle reaches, as they stand (R34). -/
def Dev.snapGaths (d : Dev) (h : Nat) : Tab Gath :=
  if uIdx h < 0x200 then [] else d.gaths.filter (fun p => p.2.bound && d.contains p.1 nestFuel h)

/-- The record of a descriptor as it is accepted. -/
def Dev.draft (d : Dev) (c : Nat) (o : Origin) (w : DescWords) (level cls period : Nat) : Desc :=
  let js := (d.jobsOf w level).getD [w]
  { id := d.nextId, ctx := c, ctxGen := (d.ctx c).gen, origin := o, w := w, jobs := js, gaths := d.snapGaths w.target, level := level,
    cls := cls, start := d.now, tmoUs := d.tmoOf w, phase := .waiting, await_ := .run, parts := [], flags := 0, doom := none,
    copies := [], stallAt := none, sels := d.selsOf w js, r4 := 0, r5 := 0, period := period, cutAt := none }

/-- Every range a descriptor makes the device read at fetch or acceptance, the plan image of a SCH_ARM included. -/
def Dev.allFetchReads (d : Dev) (w : DescWords) : List (DW × Nat × Nat) :=
  if w.opc = 0x70 then [(w.dw 7, (w.dw 8).toNat, (d.planImage w).bytes.length)] else d.fetchReads w

/-- Accept a descriptor: it takes the next id, its jobs are read and decoded, its sheet requests enter the queues, and
selectors whose time has passed close. -/
def Dev.accept (d : Dev) (c : Nat) (o : Origin) (w : DescWords) (level cls period : Nat) : Dev × Nat :=
  let id := d.nextId
  let x := d.draft c o w level cls period
  let r := { d with nextId := id + 1 }.eccDecodeReads x (d.allFetchReads w)
  let d := { r.1 with descs := r.1.descs ++ [{ x with flags := r.2.1 }] }
  let d := x.uses.foldl (fun d u => d.modSheet (shIdx u.h) (fun s => if u.write then s.addWrite id else s.addRead id)) d
  (d.closePast id, id)

/-- A descriptor refused for a word read at fetch that cannot be used: the word is counted and reported (R333). -/
def Dev.noteRefused (d : Dev) (c : Nat) (w : DescWords) (st : Status) : Dev :=
  if st = .failedUncorrectable then (d.eccDecodeReads (d.draft c (.ring 0) w 0 0 0) (d.allFetchReads w)).1 else d

/-! ## Tokens and copies of an accepted descriptor -/

/-- Sheets whose VOID does not end the descriptor. -/
def Desc.voidOk (x : Desc) : List DW :=
  match opDefOf x.w with
  | some o => o.voidOk x.jobs
  | none => []

/-- Where a descriptor's requests stand: the status that dooms it, and whether every request is granted. -/
def Dev.tokensOf (d : Dev) (x : Desc) : Option Status × Bool :=
  let free := x.voidOk.map shIdx
  d.sheets.foldl (fun acc p => p.2.q.foldl (fun (a : Option Status × Bool) r =>
    if r.desc = x.id then
      match r.st with
      | .doomed st => if free.contains p.1 then a else (some ((a.1.map (Status.join st)).getD st), a.2)
      | .granted => a
      | _ => (a.1, false)
    else a) acc) (none, true)

/-- Grant what a descriptor can be granted, and, once every request of it is granted, resolve its reads of homes below T1 to
their copies (R43, R54, R65, R72): a plan's later layer does not promote on demand while it still waits for an earlier one. -/
def Dev.resolve (d : Dev) (id : Nat) : Dev :=
  let d := d.grantFor id
  match d.desc? id with
  | none => d
  | some x =>
    if !(d.tokensOf x).2 then d
    else x.uses.foldl (fun d u =>
      let i := shIdx u.h
      let s := d.sheet i
      if u.leaf ∧ ¬ u.write ∧ s.tier ≠ 0 ∧ s.q.any (fun r => r.desc == id && !r.write && r.st == .granted) then d.resolveCopy id i
      else d) d

/-- The status that ends a waiting descriptor: its own, or that of a doomed request. -/
def Dev.doomOf (d : Dev) (x : Desc) : Option Status :=
  match x.doom, (d.tokensOf x).1 with
  | some a, some b => some (Status.join a b)
  | some a, none => some a
  | none, b => b

/-- Work a gathering accepted under an older generation has not completed: a descriptor of the new one queues behind it (R34). -/
def Dev.behindOld (d : Dev) (x : Desc) : Bool :=
  d.descs.any (fun y => decide (y.id < x.id) &&
    x.gaths.any (fun p => match Tab.get? y.gaths p.1 with
      | some g => g.gen != p.2.gen
      | none => false))

/-- Every request is granted, every copy PRESENT, every selector closed, and no older generation's work before it. -/
def Dev.readyToRun (d : Dev) (x : Desc) : Bool :=
  !d.behindOld x && (d.tokensOf x).2 && x.copies.all (fun p => ((d.copy? p.2).map (·.filled)).getD true) && x.selsClosed

/-- A copy of a ZERO-PACK home is shorter than its reader needs (R403). -/
def Dev.copyShort (d : Dev) (x : Desc) : Bool :=
  match opDefOf x.w with
  | none => false
  | some o =>
    let ns := if x.w.opc = 0x30 then d.layNeeds (layOf x.jobs) else o.needs x.jobs ++ o.images x.jobs
    ns.any (fun p => (d.viaCopy x (shIdx p.1)).isSome && (d.sheet (shIdx p.1)).zp && decide (d.lenOf x p.1 < p.2))

/-! ## Ribbons (R58) -/

/-- The declared row window with which a descriptor reads a ribbon sheet: 8 rows of LEFT and RIGHT (R181), 37 of IMG (R191), a layer's
(R211), else 1. -/
def Desc.rowWindow (x : Desc) (i : Nat) : Nat :=
  let at_ (l : List Nat) : Bool := x.jobs.any (fun j => l.any (fun k => j.dw k != 0 && shIdx (j.dw k) == i))
  if x.w.opc = 0x21 ∧ at_ [7, 8] then 8
  else if x.w.opc = 0x22 ∧ at_ [7] then 37
  else if x.w.opc = 0x30 then (layOf x.jobs).window
  else 1

/-- Rows of its ribbon inputs that a job has been granted when it writes row `y`: for a stereo job all of them (R181), for a remap its whole
frame (R174), for a convolution or pool up to row y·SH − PH + (KH − 1)·DH (R211), else row `y` itself. -/
def Desc.rowsFor (x : Desc) (j : DescWords) (y : Nat) : Nat :=
  if x.w.opc = 0x21 then j.f 9 31 16
  else if x.w.opc = 0x20 then j.f 11 31 16
  else if x.w.opc = 0x30 then
    let r := layOf x.jobs
    Nat.min r.hin (if r.op = 1 ∨ r.op = 0x0A then y * r.sh + (r.kh - 1) * r.dh + 1 - r.ph else y + 1)
  else y + 1

/-- Rows of the frame a descriptor writes into a ribbon sheet. -/
def Dev.frameRows (d : Dev) (x : Desc) (i : Nat) : Nat :=
  match opDefOf x.w with
  | none => 0
  | some o =>
    let rb := (d.sheet i).rowBytes
    ((o.run d x).wr.filter (fun p => shIdx p.1 == i)).foldl (fun n p => Nat.max n (cdiv (p.2.1 + p.2.2.length) rb)) 0

/-- Readers matched to the frame a granted writer writes: the rows each has released, all that lie behind its window (R58). -/
def Dev.frameRels (d : Dev) (i w : Nat) : List Nat :=
  let s := d.sheet i
  (s.q.filter (fun r => !r.write && (r.st == .granted || r.st == .onWrite w))).map (fun r =>
    Tab.getD s.rowRel r.desc 0 - (((d.desc? r.desc).map (fun x => x.rowWindow i)).getD 1 - 1))

/-- The writer may write row `r` of a ribbon: every reader of the frame has released row r − ROWS. -/
def Dev.mayWriteRow (d : Dev) (i w r : Nat) : Bool := (d.frameRels i w).all (fun n => decide (r < n + (d.sheet i).rows))

/-- A descriptor can write row `y` of a ribbon output: a leaf is at work on it with every token granted, and has been granted the rows of
its ribbon inputs the row needs. -/
def Dev.rowFormed (d : Dev) (x : Desc) (i y : Nat) : Bool :=
  x.live && x.parts.any (fun p => p.st != .waiting) && (d.tokensOf x).2 &&
    (match opDefOf x.w with
    | none => false
    | some o =>
      let outTo (j : DescWords) : Bool := (o.uses (if x.w.opc = 0x30 then x.jobs else [j])).any (fun u => u.write && shIdx u.h == i)
      (x.jobs.filter outTo).all (fun j => (o.uses (if x.w.opc = 0x30 then x.jobs else [j])).all (fun u =>
        u.write || !(d.sheet (shIdx u.h)).ribbon || decide (x.rowsFor j y ≤ Tab.getD (d.sheet (shIdx u.h)).rowRel x.id 0))))

/-- A descriptor may complete: its readers have released what its last rows overwrite, and the writers of the frames it
reads have completed. -/
def Dev.ribbonsOk (d : Dev) (x : Desc) : Bool :=
  x.uses.all (fun u =>
    let i := shIdx u.h
    let s := d.sheet i
    if !s.ribbon then true
    else if u.write then
      let n := d.frameRows x i
      n == 0 || d.mayWriteRow i x.id (n - 1)
    else !s.q.any (fun r => r.write && r.st == .granted))

/-- RIBBON_ROW_GRANT (R58): a writer writes its next row once it is formed and the readers have released its slot; a reader is granted the
next row of its frame once it is written, which moves its window on. -/
def ribbonRowGrant (i id : Nat) (d : Dev) : Dev :=
  let s := d.sheet i
  match s.ribbon, s.q.find? (fun r => r.desc == id && r.st == .granted), d.desc? id with
  | true, some r, some x =>
    if r.write then
      if s.rowsDone < d.frameRows x i ∧ d.rowFormed x i s.rowsDone ∧ d.mayWriteRow i id s.rowsDone then d.setSheet i { s with rowsDone := s.rowsDone + 1 } else d
    else
      let n := Tab.getD s.rowRel id 0
      if n < s.rowsDone then d.setSheet i { s with rowRel := Tab.set s.rowRel id (n + 1) } else d
  | _, _, _ => d

/-! ## Parts (R33, R36–R39) -/

/-- The partitions of the incident in which a descriptor is being replayed (R345). -/
def Dev.replayParts (d : Dev) (id : Nat) : List Nat :=
  (d.flt.incidents.filter (fun n => n.replay == some id)).flatMap (fun n => n.parts.map (·.1))

/-- The parts of a descriptor over the membership it was accepted with (R34, R36, R345). -/
def Dev.partsOf (d : Dev) (x : Desc) : List Part :=
  match opDefOf x.w with
  | none => []
  | some o => { d with gaths := x.gaths }.cut (d.replayParts x.id) o.kind (o.axes d x) x.w.target

/-- A leaf is executing a part. -/
def Dev.leafBusy (d : Dev) (l : Nat) : Bool := d.descs.any (fun x => x.parts.any (fun p => p.leaf == l && p.st == .running))

/-- Set the first part of a list on a leaf in one state to another at a time. -/
def setPart (l : Nat) (old new : PartSt) (crc : DW) (now : Nat) : List Part → List Part
  | [] => []
  | p :: t => if p.leaf = l ∧ p.st = old then { p with st := new, crcXor := crc, fin := now } :: t else p :: setPart l old new crc now t

/-- Every part of a list has finished by a time. -/
def endParts (now : Nat) (l : List Part) : List Part :=
  l.map (fun p => if p.st = .finished then p else { p with st := .finished, fin := now })

/-- An idle leaf in service takes the waiting part of lowest class, then of earliest acceptance (R33, R305). -/
def Dev.takeNext (d : Dev) (l : Nat) : Dev :=
  if d.leafBusy l then d
  else
    let ws := d.descs.filter (fun x => x.live && d.leafIn (d.replayParts x.id) l && x.parts.any (fun p => p.leaf == l && p.st == .waiting))
    match bestBy (fun (a b : Desc) => decide (a.cls < b.cls ∨ (a.cls = b.cls ∧ a.id < b.id))) ws with
    | some x => d.modDesc x.id (fun y => { y with parts := setPart l .waiting .running 0 d.now y.parts })
    | none => d

/-- Record a DEADLINE already passed when a solve is granted (R262). -/
def Dev.noteCut (d : Dev) (x : Desc) : Dev :=
  if x.w.opc = 0x53 ∧ x.w.deadline ≠ 0 ∧ tbReached d.now x.w.deadline then d.modDesc x.id (fun y => { y with cutAt := some (0, false, d.now) })
  else d

/-- Cut a ready descriptor and hand its parts to the leaves; with no member in service it ends REFUSED_DISABLED (R40). The first
part of a layer of a firing issues its catchword promotions (R70). -/
def Dev.dispatchParts (d : Dev) (x : Desc) : Dev :=
  let ps := d.partsOf x
  if ps.isEmpty then d.endDesc x.id { st := .refusedDisabled }
  else
    let d := (d.noteCut x).modDesc x.id (fun y => { y with parts := ps, phase := if y.phase = .replaying then .replaying else .dispatched })
    let d := (ps.map (·.leaf)).dedup.foldl (fun d l => d.takeNext l) d
    match x.stage? with
    | some (slot, _) => if x.w.opc = 0x30 then d.catchword slot (x.w.f 6 15 0) else d
    | none => d

/-! ## Completion (R39, R41) -/

/-- The parts that contribute to the outputs of a member of a REPLICATE gathering: those below it that every deeper REPLICATE
gathering gave its first member (R39). -/
def memberParts (ps : List Part) (node pos : Nat) : List Part :=
  ps.filter (fun p => p.reps.any (fun s => s.node == node && s.pos == pos) &&
    ((p.reps.dropWhile (fun s => s.node != node)).drop 1).all (fun s => s.pos == 0))

/-- A member whose outputs disagree with the first member's: the gathering, the member's handle, the disturbance of the first member's
CRC and of its own. -/
structure Dissent where
  node   : Nat
  member : Nat
  first  : DW
  own    : DW

/-- The members of the REPLICATE gatherings a descriptor's parts came through whose outputs disagree with the first member's (R39). -/
def Desc.dissents (x : Desc) : List Dissent :=
  let steps := (x.parts.flatMap (·.reps)).dedup
  let dist (node pos : Nat) : DW := (memberParts x.parts node pos).foldl (fun a p => a ^^^ p.crcXor) 0
  (steps.filter (fun s => s.pos != 0 && dist s.node s.pos != dist s.node 0)).map (fun s =>
    { node := s.node, member := s.member, first := dist s.node 0, own := dist s.node s.pos })

/-- The CRC-32C over the output words of a member of a REPLICATE gathering, in address order: by sheet, then by offset. A member that
computed only a part of the descriptor's outputs gives an open value of those outputs and its part (log 83). -/
def Desc.replicaCrc (x : Desc) (wr : List (DW × Nat × Bytes)) (node : Nat) : DW :=
  let le (a b : DW × Nat × Bytes) : Bool := decide (shIdx a.1 < shIdx b.1 ∨ (shIdx a.1 = shIdx b.1 ∧ a.2.1 ≤ b.2.1))
  let out := (sortBy le wr).flatMap (fun p => p.2.2)
  if node = x.w.target then crc32c out
  else
    let box (p : Part) : List Nat := [p.box.batch.1, p.box.batch.2, p.box.rows.1, p.box.rows.2, p.box.channels.1, p.box.channels.2]
    (Config.openValue ((memberParts x.parts node 0).flatMap box ++ out.map (·.toNat)) 0).setWidth 32

/-- A descriptor whose parts have all finished completes: its result is formed, the outputs of REPLICATE members are compared (R39), its
writes are applied and its one record written (R41). -/
def Dev.finishRun (d : Dev) (id : Nat) : Dev :=
  match d.desc? id with
  | none => d
  | some x =>
    match opDefOf x.w with
    | none => d
    | some o =>
      if d.copyShort x then d.endDesc id { st := .failedCheck }
      else
        let r := o.run d x
        let bad := x.dissents
        let d :=
          if bad.isEmpty then d.conclude x r
          else
            let d := bad.foldl (fun d m =>
              let crc := x.replicaCrc r.wr m.node
              (d.crcMismatch ((d.crcUnit id).getD 6) 1 (crc ^^^ m.first) (crc ^^^ m.own) x.w.tag x.w.target (some x.ctx)).event
                (x.ev 0xD1 (dwN m.member) (crc ^^^ m.first) (crc ^^^ m.own))) d
            d.conclude x { st := r.st.join .failedCheck, flags := r.flags, rdr := r.rdr }
        d

/-- Whether a ready descriptor runs whole at once: its leaves are idle, a pool unit is free for its comparisons, nothing streams, and no
DEADLINE can still cut it. -/
def Dev.runsNow (d : Dev) (x : Desc) : Bool :=
  ((d.partsOf x).all (fun p => p.reps.isEmpty) || d.crcFree.isSome) && (d.partsOf x).all (fun p => !d.leafBusy p.leaf) && d.ribbonsOk x && !x.uses.any (fun u => d.stalled (shIdx u.h)) &&
    !(x.w.opc == 0x53 && decide (x.w.deadline ≠ 0 ∧ ¬ tbReached d.now x.w.deadline))

/-- Carry an accepted descriptor of a leaf as far as it goes: its tokens and copies, and, for a descriptor performed whole, if it
then stands alone on idle leaves, its whole execution. -/
def Dev.tryRun (d : Dev) (id : Nat) (whole : Bool) : Dev :=
  let d := d.resolve id
  match d.desc? id with
  | none => d
  | some x =>
    match d.doomOf x with
    | some st => d.endDesc id { st := st }
    | none =>
      if !whole ∨ !d.readyToRun x ∨ x.phase ≠ .waiting then d
      else if d.copyShort x then d.endDesc id { st := .failedCheck }
      else if !d.runsNow x then d.dispatchParts x
      else
        let d := d.dispatchParts x
        (d.modDesc id (fun y => { y with parts := endParts d.now y.parts })).crcTake.finishRun id

/-! ## The opcodes the device runs itself -/

/-- Descriptors accepted under the present generation of a gathering slot (R34). -/
def Dev.acceptedUnder (d : Dev) (i self : Nat) : List Nat :=
  (d.descs.filter (fun x => x.id != self && x.gaths.any (fun p => p.1 == i))).map (·.id)

/-- Finish a BIND or UNBIND for which nothing is left to wait. -/
def Dev.rebindDone (d : Dev) (id : Nat) : Dev :=
  match d.desc? id with
  | some x => match x.await_ with
    | .rebind [] => d.endDesc id { st := .done, r4 := x.r4, r5 := x.r5 }
    | _ => d
  | none => d

/-- An accepted BIND (R29, R34): the slot is bound at its next generation. -/
def Dev.runBind (d : Dev) (x : Desc) : Dev :=
  let i := uIdx x.w.target
  let olds := d.acceptedUnder i x.id
  let d := d.bindSlot x.w
  let r := d.bindResult x.w
  (d.modDesc x.id (fun y => { y with await_ := .rebind olds, phase := .dispatched, r4 := r.1, r5 := r.2 })).rebindDone x.id

/-- An accepted UNBIND (R34). -/
def Dev.runUnbind (d : Dev) (x : Desc) : Dev :=
  let i := uIdx x.w.target
  let olds := d.acceptedUnder i x.id
  let d := d.unbindSlot i
  (d.modDesc x.id (fun y => { y with await_ := .rebind olds, phase := .dispatched })).rebindDone x.id

/-- GATHERING_REBIND_COMPLETE (R34). -/
def gatheringRebindComplete (id : Nat) (d : Dev) : Dev := d.rebindDone id

/-- Accepted descriptors that name a sheet: in their words, in the jobs of their list, or by a request on it (R53). -/
def Dev.naming (d : Dev) (i self : Nat) : List Nat :=
  let h := d.handleOf i
  let q := d.sheet i |>.q
  (d.descs.filter (fun x => x.id != self && (x.names h || q.any (fun r => r.desc == x.id)))).map (·.id)

/-- An accepted SHEET_FREE: the handle is dead, and the descriptor waits for the earlier ones that name it. -/
def Dev.runFree (d : Dev) (x : Desc) : Dev :=
  let i := shIdx (x.w.dw 6)
  let olds := d.naming i x.id
  ((d.modDesc x.id (fun y => { y with await_ := .free i olds })).freeSheet i).disarmAll

/-- An accepted CTX_OPEN (R81). -/
def Dev.runOpen (d : Dev) (x : Desc) : Dev :=
  let c := x.w.f 6 5 0
  let d := d.openCtx c
  d.endDesc x.id { st := .done, r4 := dwN (d.ctx c).gen.toNat }

/-- An accepted CTX_TEARDOWN (R103). -/
def Dev.runTear (d : Dev) (x : Desc) : Dev :=
  let c := x.w.f 6 5 0
  (d.modDesc x.id (fun y => { y with await_ := .teardown c, phase := .dispatched })).tearStart c { cause := 0, owner := some x.id, silent := false }

/-- The leaves a leaf, folio or quire holds. -/
def Dev.unitLeaves (d : Dev) (i : Nat) : List Nat := d.leaves (leafHandle i)

/-- The descriptors a UNIT_DISABLE drains: those with a part running or queued on a leaf of the unit, or those the gathering
handle has accepted (R101). -/
def Dev.drainSet (d : Dev) (h self : Nat) : List Nat :=
  let ls := if uIdx h < 0x200 then d.unitLeaves (uIdx h) else []
  (d.descs.filter (fun x => x.id != self && (match x.await_ with | .run => true | _ => false) &&
    (if uIdx h < 0x200 then x.parts.any (fun p => ls.contains p.leaf && p.st != .finished) else decide (x.w.target = h)))).map (·.id)

/-- A partition takes part in an incident, or is being reset. -/
def Dev.partBusy (d : Dev) (i : Nat) : Bool :=
  ((unitPart i).map (fun p => d.flt.incidents.any (fun n => n.parts.any (fun q => q.1 == p)))).getD false

/-- SEC_FALLBACK is raised as soon as the context that takes device-wide events is open (R356). -/
def Dev.fallbackEvent (d : Dev) : Dev :=
  if d.sec.fbEvent ∧ (d.ctx d.sysCtx).st = .opened then
    let d := { d with sec := { d.sec with fbEvent := false } }
    d.event { code := 0xE2, d4 := dwN (b2n d.sec.slotB) }
  else d

/-- The control state is held in protected words (R335): a correction is counted, an uncorrectable word takes the device out of service.
The spec names no tier for it, the model counts with the I/O buffers; a word that was corrected is written back (DESIGN CHOICE, log 94). -/
def Dev.ctlCheck (d : Dev) : Dev :=
  let found (p : CtlWord × Byte) : EccRes := (eccSynd 0 p.2).1
  let n := (d.flt.ctl.filter (fun p => found p == .corrected)).length
  let lost := d.flt.ctl.any (fun p => found p == .uncorrectable || found p == .poison)
  let d := { d with flt := { d.flt with ctl := [] } }
  let d := if n = 0 then d else d.eccCe 4 n
  if lost then d.leaveService 3 else d

/-- Complete what waits for a drain or an incident that is over (R101, R348), and look at the control state (R335). -/
def Dev.settle (d : Dev) : Dev :=
  let d := (d.drains.map (·.owner)).foldl (fun d o =>
    match d.drains.find? (fun r => r.owner == o), d.desc? o with
    | some r, some x =>
      if r.waits.isEmpty ∧ ¬ d.partBusy r.index then
        let d := { d with drains := d.drains.filter (fun s => s.owner != o) }
        (d.event (x.ev 0x05 (dwN r.aborted))).endDesc o { st := .done, r4 := dwN r.aborted }
      else d
    | some r, none => if r.waits.isEmpty then { d with drains := d.drains.filter (fun s => s.owner != o) } else d
    | _, _ => d) d
  let d := (d.descs.filter (fun x => match x.await_ with | .enable i => !d.partBusy i | _ => false)).foldl
    (fun d x => (d.event (x.ev 0x06)).endDesc x.id { st := .done }) d
  d.fallbackEvent.ctlCheck

/-- An accepted UNIT_DISABLE (R101). -/
def Dev.runDisable (d : Dev) (x : Desc) : Dev :=
  let i := uIdx x.w.target
  let wait (d : Dev) (l : List Nat) : Dev :=
    let r : Drain := { owner := x.id, index := i, until_ := d.now + 1000000, waits := l, aborted := 0 }
    let d := { d with drains := d.drains ++ [r] }
    d.modDesc x.id (fun y => { y with await_ := .drain, phase := .dispatched })
  if d.disabled.contains i then
    match d.drains.filter (fun r => r.index == i) with
    | [] => d.endDesc x.id { st := .done }
    | l => wait d (l.map (·.owner))
  else (wait { d with disabled := d.disabled ++ [i] } (d.drainSet x.w.target x.id)).settle

/-- An accepted UNIT_ENABLE (R102, R348). -/
def Dev.runEnable (d : Dev) (x : Desc) : Dev :=
  let i := uIdx x.w.target
  if !d.disabled.contains i then d.endDesc x.id { st := .done }
  else
    let d := { d with disabled := d.disabled.filter (· != i) }
    (d.modDesc x.id (fun y => { y with await_ := .enable i, phase := .dispatched })).settle

/-- UNIT_DISABLE_DRAIN_EXPIRY (R101): the drain of 1 ms has ended; what is not finished and not held by an incident ends with
ABORTED_FENCE. -/
def unitDisableDrainExpiry (id : Nat) (d : Dev) : Dev :=
  match d.drains.find? (fun r => r.owner == id) with
  | none => d
  | some r =>
    if d.now < r.until_ then d
    else
      let l := r.waits.filter (fun k => ((d.desc? k).map (fun x => x.phase != .held && x.phase != .replaying &&
        (match x.await_ with | .run => true | _ => false))).getD false)
      let d := { d with drains := mapIf (fun s => s.owner == id) (fun s => { s with aborted := s.aborted + l.length }) d.drains }
      (l.foldl (fun d k => d.endDesc k { st := .abortedFence }) d).settle

/-- An accepted FLT_RESTORE (R351): on a partition out of service its restoring reset starts; in service it has no effect. -/
def Dev.runRestore (d : Dev) (x : Desc) : Dev :=
  let p := uIdx x.w.target - 0x170
  if d.flt.partOos.contains p then
    let d := { d with flt := { d.flt with restores := d.flt.restores ++ [(p, d.now, x.id)] } }
    d.modDesc x.id (fun y => { y with await_ := .restore p, phase := .dispatched })
  else d.endDesc x.id { st := .done }

/-- An opcode of a mover or the binder with its tokens held; a MOVE or CRC_CHECK performed whole on an idle mover is done at once. -/
def Dev.runHeld (d : Dev) (x : Desc) (whole : Bool) : Dev :=
  match x.w.opc with
  | 0x0B =>
    let m := d.mover (moverOf x.w.target)
    if x.w.dw 7 = 0 then d.runPromote x
    else if whole ∧ m.jobs.isEmpty ∧ m.resetAt.isNone ∧ !d.stalled (shIdx (x.w.dw 6)) ∧ !d.stalled (shIdx (x.w.dw 7)) then d.runMove x else d.startMove x
  | 0x7A => d.runQuote x
  | 0x7C =>
    let m := d.mover (moverOf x.w.target)
    match d.crcFree with
    | some u =>
      if whole ∧ m.jobs.isEmpty ∧ m.resetAt.isNone ∧ !d.descs.any (fun y => y.asksCrc && (d.crcUnit y.id).isNone) then d.runCrc x u
      else (d.modDesc x.id (fun y => { y with phase := .dispatched })).crcTake
    | none => d.modDesc x.id (fun y => { y with phase := .dispatched })
  | 0x7F => d.runInstall x
  | _ => d

/-- Carry a descriptor of a mover or the binder as far as its tokens go. -/
def Dev.tryHeld (d : Dev) (id : Nat) (whole : Bool := false) : Dev :=
  let d := d.grantFor id
  match d.desc? id with
  | none => d
  | some x =>
    match d.doomOf x with
    | some st => d.endDesc id { st := st }
    | none =>
      if !(d.tokensOf x).2 ∨ x.phase ≠ .waiting ∨ (x.w.opc ≠ 0x0B ∧ x.uses.any (fun u => d.stalled (shIdx u.h))) then d
      else d.runHeld x whole

/-- After a reset, descriptors of a mover or the binder that held their tokens go on. -/
def Dev.retryHeld (d : Dev) : Dev :=
  ((d.descs.filter (fun x => x.phase == .waiting && (opDefOf x.w).isNone && x.w.opc != 0x14)).map (·.id)).foldl (fun d id =>
    match (d.desc? id).map (·.w.opc) with
    | some 0x0B | some 0x7A | some 0x7C | some 0x7F => d.tryHeld id
    | _ => d) d

/-- The effect of an accepted descriptor that no leaf runs. -/
def Dev.startCtl (d : Dev) (x : Desc) (whole : Bool) : Dev :=
  let w := x.w
  let done (d : Dev) (r4 r5 : DW) : Dev := d.endDesc x.id { st := .done, r4 := r4, r5 := r5 }
  match w.opc with
  | 0x01 => d.runBind x
  | 0x02 => d.runUnbind x
  | 0x03 => d.runOpen x
  | 0x04 => d.runTear x
  | 0x05 => d.runDisable x
  | 0x06 => d.runEnable x
  | 0x08 => let r := d.allocSheet w; done r.1 r.2.1 r.2.2
  | 0x09 => sheetFreeComplete x.id (d.runFree x)
  | 0x0A => let r := d.runPin w; done r.1 (dwN (b2n r.2)) 0
  | 0x0C => d.runEvict x
  | 0x10 => d.runTbTrigger x
  | 0x11 => d.runTbStep x
  | 0x14 => d.runPlgSwap x
  | 0x70 => d.runArm x
  | 0x71 => d.runDisarm x
  | 0x78 => done (d.runTrack w) 0 0
  | 0x79 => (d.modDesc x.id (fun y => { y with await_ := .resync (w.f 6 3 0), phase := .dispatched })).runResync x
  | 0x7D => d.runRestore x
  | 0x0B | 0x7A | 0x7C | 0x7F => d.tryHeld x.id whole
  | _ => done d 0 0

/-- Start an accepted descriptor. The command of an opcode performs its operation `whole` as far as nothing stands in its way; what a ring or a
plan brings goes step by step, each step an event of its own (DESIGN CHOICE, log 9). -/
def Dev.launch (d : Dev) (id : Nat) (whole : Bool := false) : Dev :=
  match d.desc? id with
  | none => d
  | some x => if (opDefOf x.w).isSome then d.tryRun id whole else d.startCtl x whole

/-! ## Rings (R82–R87) -/

/-- The completion ring has room for one more descriptor's record (R83). -/
def Dev.cqRoom (d : Dev) (c : Nat) : Bool := let x := d.ctx c; decide ((x.cqTail - x.cqHead).toNat + x.owed < x.cqSize)

/-- Length of the group of entries at the head of a ring: one entry, or a chain; none while its last member is missing, and
whether a chain broke the limit of 64 members (R87). -/
def groupLen : Nat → List DescWords → Option (Nat × Bool)
  | _, [] => none
  | n, w :: t => if !w.chain then some (n + 1, false) else if n + 1 = 64 then some (64, true) else groupLen (n + 1) t

/-- Entries of a ring that are fetched and not accepted. -/
def Dev.heldOf (d : Dev) (c ring : Nat) : List DescWords := ((d.ctx c).held.filter (fun f => f.ring == ring)).map (·.w)

/-- Drop the first `n` held entries of a ring. -/
def dropRing (ring : Nat) : Nat → List Fetched → List Fetched
  | _, [] => []
  | 0, l => l
  | n + 1, f :: t => if f.ring = ring then dropRing ring n t else f :: dropRing ring (n + 1) t

/-- The checks of a ring's descriptor (R90) with DW4 of its refusal (R295). -/
def Dev.checkRing (d : Dev) (c : Nat) (w : DescWords) : Option (Status × DW) :=
  match d.checkAt c w .ring with
  | some st => some (st, 0)
  | none => if w.opc = 0x70 then d.checkArm c w else none

/-- The outcome for the group at the head of a ring: it waits, it is refused whole with a status, or it is accepted. -/
inductive Verdict where
  | waits
  | refused (n : Nat) (st : Status) (r4 : DW)
  | accepted (n : Nat)
  deriving DecidableEq, Repr

/-- An opcode whose effect is at its acceptance: one the device runs itself and that takes no sheet token. -/
def actsAtOnce (w : DescWords) : Bool :=
  (opDefOf w).isNone && !([0x0B, 0x7A, 0x7C, 0x7F] : List Nat).contains w.opc

/-- Accept one member of a group: what acts at its acceptance acts now; the id of what is still to start. -/
def Dev.takeIn (d : Dev) (c ring : Nat) (w : DescWords) (whole : Bool) : Dev × List Nat :=
  let a := d.accept c (.ring ring) w 0 (d.clsOf c ring) 0
  if actsAtOnce w then (a.1.launch a.2 whole, []) else (a.1, [a.2])

/-- The first member of a group that fails its checks, each checked as it stands once the members before it are accepted (R87, R90,
R295): its status and DW4. -/
def Dev.checkGroup (d : Dev) (c ring : Nat) : List DescWords → Option (Status × DW)
  | [] => none
  | [w] => d.checkRing c w
  | w :: t =>
    match d.checkRing c w with
    | some r => some r
    | none => (d.takeIn c ring w false).1.checkGroup c ring t

/-- Judge the group at the head of a ring (R86, R87, R90, R381). -/
def Dev.judge (d : Dev) (c ring : Nat) : Verdict :=
  let l := d.heldOf c ring
  match groupLen 0 l with
  | none => .waits
  | some (n, true) => .refused n .refusedMalformed 0
  | some (n, false) =>
    let g := l.take n
    if g.any d.armWaits then .waits
    else match d.checkGroup c ring g with
      | some (st, r4) => .refused n st r4
      | none => if g.any (·.fenceBefore) ∧ d.descs.any (fun x => x.ctx == c) then .waits else .accepted n

/-- Take the group at the head of a ring as judged. -/
def Dev.takeGroup (d : Dev) (c ring : Nat) (whole : Bool := false) : Dev :=
  let l := d.heldOf c ring
  match d.judge c ring with
  | .waits => d
  | .refused n st r4 =>
    (l.take n).foldl (fun d w => (d.noteRefused c w st).complete c w { st := st, r4 := r4 }) (d.modCtx c (fun x => { x with held := dropRing ring n x.held }))
  | .accepted n =>
    let d := d.modCtx c (fun x => { x with held := dropRing ring n x.held })
    let r := (l.take n).foldl (fun (acc : Dev × List Nat) w =>
      let a := acc.1.takeIn c ring w whole
      (a.1, acc.2 ++ a.2)) (d, [])
    r.2.foldl (fun d id => d.launch id whole) r.1

/-- Take groups from a ring until its head waits. -/
def Dev.drainRing (d : Dev) (c ring : Nat) (whole : Bool := false) : Dev :=
  iter (fun _ d => if (d.ctx c).st = .opened then d.takeGroup c ring whole else d) (d.heldOf c ring).length d

/-- An entry reaches a ring of an open context and is taken as far as it goes. -/
def Dev.enterRing (d : Dev) (c ring : Nat) (w : DescWords) (whole : Bool := false) : Dev :=
  (d.modCtx c (fun x => { x with held := x.held ++ [{ ring := ring, w := w }], owed := x.owed + 1 })).drainRing c ring whole

/-- A descriptor presented by a context on its ring 0, and performed whole: nothing happens while the context is not OPEN or its completion ring
has no room (R83). -/
def Dev.submit (d : Dev) (c : Nat) (w : DescWords) : Dev :=
  if (d.ctx c).st = .opened ∧ d.cqRoom c then (d.enterRing c 0 w true).settle else d

end Sys2Proof.Machine

namespace Sys2Proof
open Machine

/-- A descriptor with its opcode in place. -/
def DescWords.withOp (w : DescWords) (opc : Nat) : DescWords := w.put 0 (w.dw 0 &&& 0xFFFFFF00 ||| dwN opc)

/-- A descriptor with a field of word 6 in place. -/
def DescWords.withField (w : DescWords) (mask v : Nat) : DescWords := w.put 6 (w.dw 6 &&& ~~~ dwN mask ||| dwN v)

end Sys2Proof

namespace Sys2Proof.Machine

/-- A ring's held group could be taken now. -/
def Dev.groupReady (d : Dev) (c ring : Nat) : Bool := d.judge c ring != .waits

/-- A ring has a posted entry the device may fetch: room for its record is all it takes (R83, R84). -/
def Dev.mayFetch (d : Dev) (c ring : Nat) : Bool :=
  let r := (d.ctx c).sq.getD ring Ring.reset
  r.head != r.tail && d.cqRoom c

/-- The ring of a context the device turns to next: the lowest with a group or an entry ready (R85). -/
def Dev.nextRing (d : Dev) (c : Nat) : Option Nat :=
  let x := d.ctx c
  if x.st ≠ .opened then none
  else (List.range x.rings).find? (fun n => d.groupReady c n || d.mayFetch c n)

/-- One turn of a context on a ring: a held group is taken, else one entry is fetched from host memory. -/
def Dev.turn (d : Dev) (c ring : Nat) : Dev :=
  if d.groupReady c ring then d.takeGroup c ring
  else
    let r := (d.ctx c).sq.getD ring Ring.reset
    let b := Mem.read d.host (r.base + 64 * (r.head.toNat % r.size)) 64
    let w : DescWords := Vector.ofFn (fun i => bw b i.val)
    (d.modCtx c (fun x => { x with sq := x.sq.setIfInBounds ring { r with head := r.head + 1 } })).enterRing c ring w

/-- DESCRIPTOR_FETCH (R83–R87): one turn of the device, to the primary context first, to the others round-robin. -/
def descriptorFetch (d : Dev) : Dev :=
  let prim := d.primary.bind (fun c => (d.nextRing c).map (fun n => (c, n)))
  match prim with
  | some (c, n) => (d.turn c n).settle
  | none =>
    match ((List.range 64).map (fun k => (d.rr + 1 + k) % 64)).findSome? (fun c => (d.nextRing c).map (fun n => (c, n))) with
    | some (c, n) => ((fun (d : Dev) => d.turn c n) { d with rr := c }).settle
    | none => d

/-- The group the device takes next of those already fetched: the primary context's first, then the others' round-robin, each on its
lowest ring with one ready (R85). -/
def Dev.nextHeld (d : Dev) : Option (Nat × Nat) :=
  let ready (c : Nat) : Option (Nat × Nat) :=
    if (d.ctx c).st = .opened then ((List.range 4).find? (fun n => d.groupReady c n)).map (fun n => (c, n)) else none
  match d.primary.bind ready with
  | some r => some r
  | none => ((List.range 64).map (fun k => (d.rr + 1 + k) % 64)).findSome? ready

/-- One turn of the device on what it has fetched. -/
def Dev.takeHeld (d : Dev) : Dev :=
  match d.nextHeld with
  | some (c, n) => (if d.primary = some c then d else { d with rr := c }).takeGroup c n
  | none => d

/-- FENCE_BEFORE_RELEASE (R85, R86): the group at the head of a ring is taken, in its turn, once nothing it waits for is left. -/
def fenceBeforeRelease (c ring : Nat) (d : Dev) : Dev := if d.nextHeld = some (c, ring) then d.takeHeld.settle else d

/-- Everything fetched that no longer waits is taken, turn by turn (R85). -/
def Dev.drainHeld (d : Dev) : Dev := iter (fun _ d => d.takeHeld) (sumBy (fun (x : Ctx) => x.held.length) d.ctxs.toList) d

/-- Groups that waited for VDD_C are taken in their turns (R381). -/
def Dev.releaseArms (d : Dev) : Dev := d.drainHeld

/-! ## The events of a descriptor's life -/

/-- TOKEN_GRANT (R54, R55): a doomed request of a sheet ends its descriptor, else the first grantable request is granted; the
descriptor resolves its copies, and one of a mover or the binder runs once it holds every token. -/
def tokenGrant (i : Nat) (d : Dev) : Dev :=
  let s := d.sheet i
  let dead := s.q.filterMap (fun r => match r.st with
    | .doomed st => (d.desc? r.desc).bind (fun x => if x.voidOk.map shIdx |>.contains i then none else some (x.id, st))
    | _ => none)
  let promo (id : Nat) : Option Nat := (d.copies.find? (fun p => p.2.order == id && p.2.st == .waiting)).map (·.1)
  let deadCopy := s.q.filterMap (fun r => match r.st with
    | .doomed st => (promo r.desc).map (fun k => (k, st))
    | _ => none)
  match dead, deadCopy with
  | (id, st) :: _, _ => (d.endDesc id { st := st }).settle
  | [], (k, st) :: _ => (d.endCopy k st).settle
  | [], [] =>
    match s.nextGrant with
    | none => d
    | some r =>
      let d := d.grantReq i r
      match d.desc? r.desc with
      | none =>
        match promo r.desc with
        | some k => if d.canStart k then d.startCopy k else d
        | none => d
      | some x =>
        if (opDefOf x.w).isSome then
          let d := d.resolve x.id
          match (d.desc? x.id).bind (fun (y : Desc) => y.doom) with
          | some st => (d.endDesc x.id { st := st }).settle
          | none => d
        else if x.w.opc = 0x14 then d else (d.tryHeld x.id).settle

/-- PART_DISPATCH (R33, R36): a ready descriptor is cut over its in-service members, or its waiting parts are offered to their
leaves. -/
def partDispatch (id : Nat) (d : Dev) : Dev :=
  match d.desc? id with
  | none => d
  | some x =>
    if (opDefOf x.w).isNone then d
    else if x.phase = .waiting then
      let d := d.resolve id
      match d.desc? id with
      | none => d
      | some x =>
        match d.doomOf x with
        | some st => (d.endDesc id { st := st }).settle
        | none =>
          if !d.readyToRun x then d
          else if d.copyShort x then (d.endDesc id { st := .failedCheck }).settle else (d.dispatchParts x).settle
    else (x.parts.map (·.leaf)).dedup.foldl (fun d l => d.takeNext l) d

/-- PART_FINISH (R33): the running part of a leaf finishes, and the leaf takes its next one. `crcXor` disturbs the outputs a
REPLICATE member computed. -/
def partFinish (l : Nat) (crcXor : DW) (d : Dev) : Dev :=
  match d.descs.find? (fun x => x.live && x.parts.any (fun p => p.leaf == l && p.st == .running)) with
  | none => d
  | some x =>
    if x.uses.any (fun u => d.stalled (shIdx u.h)) then d
    else ((d.modDesc x.id (fun y => { y with parts := setPart l .running .finished crcXor d.now y.parts })).takeNext l).crcTake

/-- PRS_DEADLINE_HIT (R259, R260, R263): a running solve sees its DEADLINE before a block step, after some completed iterations,
and ends on its leaf. A replay does not act on it (R345). -/
def prsDeadlineHit (id iters : Nat) (within : Bool) (d : Dev) : Dev :=
  match d.desc? id with
  | none => d
  | some x =>
    if x.w.opc ≠ 0x53 ∨ x.phase ≠ .dispatched ∨ x.w.deadline = 0 ∨ ¬ tbReached d.now x.w.deadline ∨ x.cutAt.isSome then d
    else (d.modDesc id (fun y => { y with cutAt := some (iters, within, d.now), parts := endParts d.now y.parts })).crcTake

end Sys2Proof.Machine
end

