-- ==== Sys2Proof/Machine/Sched.lean ====
section
/-! DEFINITION. Firings of armed plans: when one starts, the shrink level and the injected stages (R297–R299, R303), its
completion with the debt and the period records (R300–R302), and the exchange with the partner (R304, R320). -/

namespace Sys2Proof.Machine

/-- The scheduled time of the next firing, T_k. -/
def Plan.tAt (p : Plan) : Nat := p.t0 + p.next * p.periodUs * 1000

/-- The instant at which the next firing is ready, R_k (R302). -/
def Plan.readyAt (p : Plan) : Nat := if p.next = 0 then p.t0 else Nat.max p.tAt p.cAt

/-- The period number of firing `k`. -/
def Plan.period (p : Plan) (k : Nat) : BitVec 64 := p.epoch + BitVec.ofNat 64 k

/-- The partner's debt for the next firing of a mirrored plan: of the period number before it; firing 0 needs none (R304). -/
def Plan.peerDebt (p : Plan) : Option Nat :=
  if p.next = 0 then some 0 else (p.peer.find? (fun q => q.1 == p.period (p.next - 1))).map (·.2)

/-- S_k of the next firing if it starts now: R_k, unless the exchange with the partner has delayed it past the next clock tick (R297). -/
def Plan.startAt (p : Plan) (now : Nat) : Nat := if p.mirrored ∧ p.readyAt + 4 ≤ now then now else p.readyAt

/-- The next firing of a plan has no firing before it under way, an open context, and R_k passed; a repair of a mirrored slot
holds it back no longer (R296, R297, R320). -/
def Dev.firingReady (d : Dev) (slot : Nat) (p : Plan) : Bool :=
  !p.stopping && !p.running && (d.ctx p.ctx).st == .opened && decide (p.readyAt ≤ d.now) && (!p.mirrored || d.syncReady slot)

/-- The wait for the partner's SCHED has run out (R304). -/
def Dev.schedLate (d : Dev) (p : Plan) : Bool :=
  p.mirrored && p.peerDebt.isNone && decide (p.readyAt + p.waitUs * 1000 ≤ d.now)

/-- The instant S_k at which a plan may start now, the partner's debt in hand or the wait for it over. -/
def Dev.mayFire (d : Dev) (slot : Nat) : Option Nat :=
  match Tab.get? d.plans slot with
  | some p => if d.firingReady slot p && (!p.mirrored || p.peerDebt.isSome || d.schedLate p) then some (p.startAt d.now) else none
  | none => none

/-- A plan that may start has its turn: none that may start has an earlier S_k, or the same one and a lower slot (R297). -/
def Dev.firingTurn (d : Dev) (slot : Nat) : Bool :=
  match d.mayFire slot with
  | none => false
  | some t => (List.range 16).all (fun s => (d.mayFire s).all (fun u => decide (t < u ∨ (t = u ∧ slot ≤ s))))

/-- The descriptor a stage executes at a period level, and its applied level (R303). -/
def chosenSlot (l : Nat) (st : List DescWords) : DescWords × Nat :=
  let w0 := st.getD 0 (Vector.replicate 16 0)
  let s := if w0.optional then Nat.min l w0.maxShrink else 0
  let w := st.getD s w0
  (if allZero w.toList then w0 else w, s)

/-- A mirrored firing's results can be trusted to match: the mirror is UP and the slot SYNCED with a matching period since split
mode (R318, R326). -/
def Dev.inStep (d : Dev) (slot : Nat) : Bool :=
  let m := d.mslot slot
  d.mir.state == 1 && m.sync == .synced && !m.stale

/-! ## The end of a firing (R300–R302) -/

/-- A stage record's flags word carries DIVERGED. -/
def recDiverged (v : Vector DW 8) : Bool := bitOf (v.getD 1 0) 6

/-- A stage record's status is other than DONE, DONE_DEGRADED or DONE_TIME_CUT. -/
def recNotDone (v : Vector DW 8) : Bool := decide (2 < bits (v.getD 0 0) 7 0)

/-- Results of the firing carry DIVERGED. -/
def Plan.anyDiverged (p : Plan) : Bool := p.diverged || p.recs.any (fun r => recDiverged r.2)

/-- Stages that did not deliver. -/
def Plan.notDone (p : Plan) : Nat := (p.recs.filter (fun r => recNotDone r.2)).length

/-- The debt after a completed firing (R302); a refused one leaves it (R298). -/
def Plan.debtAfter (p : Plan) : Nat :=
  if p.refused then p.debt else p.debt + cdiv (p.cAt - p.rAt) 1000 - p.periodUs

/-- The 64-byte period header of firing `k` (R300). -/
def Plan.header (p : Plan) (k debtOut : Nat) : Bytes :=
  let n := p.period k
  let t := p.t0 + k * p.periodUs * 1000
  bslice (le64 n ++ toLe t 8 ++ toLe p.sAt 8 ++ toLe p.cAt 8 ++ toLe p.debtIn 4 ++ toLe debtOut 4 ++
    toLe (p.level + b2n p.anyDiverged * 4 + b2n p.missed * 8 + b2n p.refused * 16) 4 ++ toLe p.notDone 4) 0 60 ++ toLe n.toNat 4

/-- Write the period slot: every stage record, then the header (R300). -/
def Dev.writeSlot (d : Dev) (p : Plan) (k debtOut : Nat) : Dev :=
  let i := shIdx p.records
  let a := k % p.ringN * (64 + 32 * p.stages.length)
  (p.recs.foldl (fun d r => d.rawWrite i (a + 64 + 32 * r.1) (leWords r.2.toList)) d).rawWrite i a (p.header k debtOut)

/-- A firing all of whose stages have completed ends: debt, period slot, events, the holds of its catchwords, and what the
mirror sends (R70, R300–R302, R316). -/
def Dev.closeFiring (d : Dev) (slot : Nat) : Dev :=
  match Tab.get? d.plans slot with
  | none => d
  | some p =>
    let k := p.next - 1
    let out := p.debtAfter
    let above : Bool := decide (p.periodUs < out) && !p.high
    let d := (d.writeSlot p k out).cwClear slot
    let d := { d with plans := Tab.set d.plans slot { p with running := false, debt := out, high := decide (0 < out) && (p.high || above),
                                                             firings := p.firings + 1 } }
    let ev (code d4 : Nat) (d5 d6 : DW) : Ev := { code := code, tag := p.tag, ctx := some p.ctx, d4 := dwN d4, d5 := d5, d6 := d6 }
    let d := d.count cSchFiring
    let d := if above then d.event (ev 0xA6 slot (dwN out) 0) else d
    let d := if p.evt then d.event (ev 0xA2 (slot + p.level * 16 + b2n p.anyDiverged * 64) (dwN out) (dwN (p.period k).toNat)) else d
    let d := if p.mirrored then d.firingDelta slot (p.period k) (decide (0 < p.notDone)) else d
    d.disarmNow slot

/-- FIRING_COMPLETE (R300–R302): every stage of the running firing has its record. -/
def firingComplete (slot : Nat) (d : Dev) : Dev :=
  match Tab.get? d.plans slot with
  | some p => if p.running ∧ p.stages.length ≤ p.recs.length then (d.closeFiring slot).settle else d
  | none => d

/-! ## The start of a firing (R297, R298, R303) -/

/-- The record of a stage of a refused firing (R298). -/
def refusedRec (p : Plan) (k i : Nat) (w : DescWords) (s : Nat) (st : Status) : Nat × Vector DW 8 :=
  let ws := compHead w { st := st, shrink := s, flags := flagIf p.diverged fDiverged } p.sAt ++ [dwN ((p.period k).toNat % 2 + 2 * i)]
  (i, Vector.ofFn (fun j => ws.getD j.val 0))

/-- The plan as firing `k = p.next` starts, at `now`. The partner's debts for later firings are kept. -/
def Plan.starting (p : Plan) (now debt : Nat) (missed diverged : Bool) : Plan :=
  { p with
    running := true
    rAt := p.readyAt
    sAt := p.startAt now
    debt := debt
    debtIn := debt
    level := Nat.min 3 (cdiv debt p.slackUs)
    diverged := diverged
    missed := missed
    refused := false
    recs := []
    cwDone := []
    peer := p.peer.filter (fun q => decide (p.epoch.toNat + p.next ≤ q.1.toNat))
    next := p.next + 1 }

/-- Start the next firing of a plan: its level, the checks of every chosen slot, and the acceptance of every stage as one step,
or its refusal whole. -/
def Dev.startFiring (d : Dev) (slot : Nat) (p : Plan) (missed : Bool) : Dev :=
  let k := p.next
  let debt := if p.mirrored ∧ ¬ missed then Nat.max p.debt (p.peerDebt.getD 0) else p.debt
  let q := p.starting d.now debt missed (p.mirrored && (missed || !d.inStep slot))
  let d := { d with plans := Tab.set d.plans slot q }
  let ev (code d4 : Nat) (d5 : DW) : Ev := { code := code, tag := p.tag, ctx := some p.ctx, d4 := dwN d4, d5 := d5 }
  let d := if q.sAt > p.tAt then d.count cSchLate else d
  let d := if missed then d.count cSchSyncMiss else d
  let d := if q.level ≠ p.level then d.event (ev 0xA3 (slot + q.level * 16) (dwN debt)) else d
  let ws := p.stages.map (fun st => let c := chosenSlot q.level st; (c.1.atTime p.tAt, c.2))
  match (ws.zipIdx).findSome? (fun w => (d.checkAt p.ctx w.1.1 .firing).map (fun st => (st, w.2))) with
  | some (st, i) =>
    let q := { q with refused := true, cAt := q.sAt, recs := ws.zipIdx.map (fun w => refusedRec q k w.2 w.1.1 w.1.2 st) }
    let d := { d with plans := Tab.set d.plans slot q }
    let d := match ws[i]? with
      | some w => d.noteRefused p.ctx w.1 st
      | none => d
    (((d.count cSchRefused).event (ev 0xA5 (slot + i * 2 ^ 16) (dwN st.code))).closeFiring slot).settle
  | none =>
    let r := (ws.zipIdx).foldl (fun (acc : Dev × List Nat) w =>
      let a := acc.1.accept p.ctx (.plan slot w.2) w.1.1 w.1.2 (acc.1.clsOf p.ctx p.prio) (p.period k).toNat
      (a.1, acc.2 ++ [a.2])) (d, [])
    (r.2.foldl (fun d id => d.launch id) r.1).settle

/-- Start the next firing of a plan whose turn it is, with the partner's debt or, when `expired`, without it. -/
def Dev.fire (d : Dev) (slot : Nat) (expired : Bool) : Dev :=
  match Tab.get? d.plans slot with
  | some p => if d.firingTurn slot && d.schedLate p == expired then d.startFiring slot p expired else d
  | none => d

/-- PERIOD_FIRING (R297): the next firing of a plan starts at S_k; of plans that start at one instant the lower slot is
first. -/
def periodFiring (slot : Nat) (d : Dev) : Dev := d.fire slot false

/-- SCHED_WAIT_EXPIRY (R304): the firing starts on the device's own debt, with SYNC_MISSED and DIVERGED. -/
def schedWaitExpiry (slot : Nat) (d : Dev) : Dev := d.fire slot true

/-- MIR_REPAIR_WAIT_EXPIRY (R320, R321): a repair, or a period of a bulk resync, incomplete at its bound becomes a bulk resync
from the next period, and the firing it held back starts. -/
def mirRepairWaitExpiry (slot : Nat) (d : Dev) : Dev :=
  match d.mplan slot with
  | none => d
  | some p =>
    if p.running ∨ d.syncReady slot ∨ d.now < p.readyAt + d.regF 0x14008 15 0 * 1000 then d
    else
      let d := d.repairExpire slot
      d.fire slot (((Tab.get? d.plans slot).map d.schedLate).getD false)

end Sys2Proof.Machine
end

