-- ==== Sys2Proof/Machine/Faults.lean ====
section
/-! DEFINITION. Completion of what runs on leaves (R41), timeouts (R339, R340), incidents with their samples, resets and
replays (R341–R348), escalation (R349–R352) and scrubbing (R336). -/

namespace Sys2Proof.Machine

/-! ## Incidents as data -/

/-- An incident holds a partition. -/
def Incident.has (n : Incident) (p : Nat) : Bool := n.parts.any (fun q => q.1 == p)

/-- Two incidents share a partition or a held descriptor. -/
def Incident.meets (a b : Incident) : Bool := a.parts.any (fun q => b.has q.1) || a.held.any (fun k => b.held.contains k)

/-- Two incidents become one: the partitions keep their phases, the earlier one's trigger and time stay (R342). -/
def Incident.merge (a b : Incident) : Incident :=
  let (a, b) := if b.t0 < a.t0 then (b, a) else (a, b)
  { a with
    parts := a.parts ++ b.parts.filter (fun q => !a.has q.1)
    watch := (a.watch ++ b.watch).dedup
    marks := b.marks.foldl (fun t m => if (Tab.get? t m.1).isSome then t else Tab.set t m.1 m.2) a.marks
    held := (a.held ++ b.held).dedup
    replay := if a.replay.isSome then a.replay else b.replay
    front := if a.front.isSome then a.front else if b.front.isSome then b.front else if a.replay.isSome then b.replay else none
    guilty := (a.guilty ++ b.guilty).dedup
    replayed := a.replayed + b.replayed
    timedOut := a.timedOut || b.timedOut }

/-- Add an incident, merging it with every one it meets. -/
def addIncident (l : List Incident) (n : Incident) : List Incident :=
  l.filter (fun m => !n.meets m) ++ [(l.filter (fun m => n.meets m)).foldl Incident.merge n]

/-- Merge incidents that have come to meet. -/
def mergeAll (l : List Incident) : List Incident := l.foldl addIncident []

/-- Change every incident. -/
def Dev.mapInc (d : Dev) (f : Incident → Incident) : Dev := { d with flt := { d.flt with incidents := d.flt.incidents.map f } }

/-- Replace the incidents. -/
def Dev.setIncs (d : Dev) (l : List Incident) : Dev := { d with flt := { d.flt with incidents := l } }

/-- The incident that holds a partition. -/
def Dev.incOf (d : Dev) (p : Nat) : Option Incident := d.flt.incidents.find? (fun n => n.has p)

/-- Set the phase of a partition. -/
def Dev.setPhase (d : Dev) (p : Nat) (ph : PartPhase) : Dev :=
  d.mapInc (fun n => { n with parts := mapIf (fun q => q.1 == p) (fun _ => (p, ph)) n.parts })

/-- Every partition of an incident is reset and nothing is left to be judged. -/
def Incident.settled (n : Incident) : Bool := n.parts.all (fun q => q.2 == .ready) && n.guilty.isEmpty

/-- The partitions of an incident as a mask. -/
def Incident.mask (n : Incident) : Nat := n.parts.foldl (fun m q => m + 2 ^ q.1) 0

/-- The cause of a partition's sample and reset: 0 timeout, 1 replay timeout, 2 sequencer watchdog (R343, R346, R352). -/
def Incident.causeOf (n : Incident) (p : Nat) : Nat := if !n.guilty.isEmpty then 1 else if n.watch.contains p then 2 else 0

/-- An incident is over: FLT_UNATTRIBUTED unless a replay timed out, FLT_INCIDENT_END, and its partitions are back in service
(R347). -/
def Dev.endIncident (d : Dev) (n : Incident) : Dev :=
  let d := d.setIncs (d.flt.incidents.filter (fun m => m != n))
  let d := if n.timedOut then d else d.event { code := 0xC6, d4 := dwN n.mask, d5 := dwN n.replayed }
  (d.event { code := 0xC7, d4 := dwN n.mask, d5 := dwN n.replayed, d6 := dwN ((d.now - n.t0) / 1000) }).settle

/-- End every incident that is settled, replays nothing and holds nothing. -/
def Dev.endIncidents (d : Dev) : Dev :=
  (d.flt.incidents.filter (fun n => n.settled && n.replay.isNone && n.held.isEmpty)).foldl (fun d n => d.endIncident n) d

/-! ## Completion of leaf operations -/

/-- An incident holds a descriptor and does not replay it now. -/
def Dev.heldBack (d : Dev) (id : Nat) : Bool := d.flt.incidents.any (fun n => n.held.contains id && n.replay != some id)

/-- A replay has ended, its descriptor complete. -/
def Dev.replayDone (d : Dev) (id : Nat) : Dev :=
  (d.mapInc (fun n => if n.replay = some id then { n with replay := none, replayed := n.replayed + 1 } else n)).endIncidents

/-- DESCRIPTOR_COMPLETE (R41, R54, R345): every part of a dispatched or replaying descriptor has finished, and a pool
unit compares its REPLICATE members (R337). -/
def descriptorComplete (id : Nat) (d : Dev) : Dev :=
  match d.desc? id with
  | none => d
  | some x =>
    if !x.live || !x.allFinished || !d.ribbonsOk x || d.heldBack id || (x.compares && (d.crcUnit id).isNone) then d
    else if x.phase = .replaying then ((d.finishRun id).replayDone id).settle
    else (d.finishRun id).settle

/-! ## Movers (R340) -/

/-- Where the work of a descriptor stands on a mover: the mover, and whether it is the work the mover is at. -/
def Dev.moverAt (d : Dev) (o : MoveOf) : Option (Nat × Bool) :=
  (List.range 8).findSome? (fun m =>
    let js := (d.mover m).jobs
    (js.find? (fun j => j.own == o)).map (fun j => (m, j.running || (js.head?.map (·.own)) == some o)))

/-- The promotion of a MOVE goes on without it where others need the copy, under a reader token of its own; else it ends. -/
def Dev.leavePromotion (d : Dev) (id k : Nat) : Dev :=
  match d.copy? k with
  | none => d
  | some c =>
    if c.order ≠ id then d
    else
      let wanted := !c.users.isEmpty || !c.heldFor.isEmpty || d.descs.any (fun x => x.id != id && x.await_ == .copy k false)
      if !wanted then (d.dropCopy k).endEvicts k
      else
        let (rid, d) := d.freshId
        (d.modSheet c.home (fun s => { s with q := s.q.map (fun r => if r.desc = id ∧ !r.write then { r with desc := rid } else r) })).modCopy k
          (fun c => { c with order := rid })

/-- The handle of a mover (R31). -/
def moverUnit (m : Nat) : Nat := 0x9180 + m

/-- Reset a mover alone. -/
def Dev.resetMover (d : Dev) (m : Nat) : Dev :=
  (d.modMover m (fun x => { x with resetAt := some d.now })).count cFltMoverReset

/-- MOVER_RESET_DONE (R340): within 100 µs the mover resumes its queued work; FLT_MOVER_RESET says how the reset ended. -/
def moverResetDone (m : Nat) (d : Dev) : Dev :=
  match (d.mover m).resetAt with
  | some t =>
    if d.now ≤ t + 100000 then (d.modMover m (fun x => { x with resetAt := none }.begin_)).event { code := 0xCB, unit := moverUnit m, d4 := dwN m } else d
  | none => d

/-- MOVEs and CRC_CHECKs aimed at a mover that wait for their tokens or a CRC unit end with ABORTED_RESET (R340). -/
def Dev.abortQueued (d : Dev) (m : Nat) : Dev :=
  ((d.descs.filter (fun x => (x.w.opc == 0x0B || x.w.opc == 0x7C) && moverOf x.w.target == m && x.await_ == .run)).map (·.id)).foldl
    (fun d id => d.endDesc id { st := .abortedReset }) d

/-- MOVER_RESET_HANG (R340): a reset unfinished after 100 µs takes the mover out of service. Its MOVEs and CRC_CHECKs end ABORTED_RESET, those
that still wait for tokens among them; its promotions are issued again on the next mover in service. -/
def moverResetHang (m : Nat) (d : Dev) : Dev :=
  match (d.mover m).resetAt with
  | none => d
  | some t =>
    if d.now < t + 100000 then d
    else
      let js := (d.mover m).jobs
      let d := d.modMover m (fun _ => { oos := true, resetAt := none, jobs := [] })
      let d := d.event { code := 0xCB, unit := moverUnit m, d4 := dwN (m + 8) }
      let n := d.moverIn m
      let d := { d with copies := d.copies.map (fun (p : Nat × Copy) => (p.1, if p.2.mover = m then { p.2 with mover := n } else p.2)) }
      ((js.foldl (fun (d : Dev) (j : MoveJob) =>
        match j.own with
        | .desc id => d.endDesc id { st := .abortedReset }
        | .copy k =>
          match d.copy? k with
          | none => d
          | some c =>
            let own := (d.desc? c.order).isSome
            let d := if own then (d.leavePromotion c.order k).endDesc c.order { st := .abortedReset } else d
            match d.copy? k with
            | some c => d.addJob n { j with order := c.order, running := false, segs := segsOf c.size }
            | none => d) d).abortQueued m).settle

/-! ## Timeouts (R57, R339, R340) -/

/-- The expiry of a MOVE or a CRC_CHECK: work a mover is at resets it; work still queued leaves it. -/
def Dev.moveTimeout (d : Dev) (x : Desc) (o : MoveOf) : Dev :=
  let d := match d.moverAt o with
    | some (m, true) => d.resetMover m
    | _ => d
  let d := match o with
    | .copy k => d.leavePromotion x.id k
    | .desc _ => d
  (d.endDesc x.id { st := .failedTimeout }).settle

/-- An operation that has not taken effect is withdrawn: a queued trigger schedule, a swap no channel has made, a staged
image. -/
def Dev.withdraw (d : Dev) (id : Nat) : Dev :=
  let d := d.modTb (fun t => { t with trigs := t.trigs.map (fun g => { g with queue := g.queue.filter (fun q => q.owner != some id) }) })
  let d := match d.plg.swap with
    | some s => if s.owner = some id ∧ d.plg.chans.toList.all (fun c => !c.switched) then { d with plg := { d.plg with swap := none } } else d
    | none => d
  match d.sec.staging with
  | some s => if s.owner = some id then { d with sec := { d.sec with staging := none } } else d
  | none => d

/-- The partitions that hold a leaf with an unfinished part of a descriptor. -/
def Desc.openParts (x : Desc) : List Nat := ((x.parts.filter (fun p => p.st != .finished)).map (fun p => partOf p.leaf)).dedup

/-- Note the part each leaf had in execution when a descriptor is stopped: a sample shows it (R343). -/
def Dev.noteStopped (d : Dev) (x : Desc) : Dev :=
  let f (t : Tab (Nat × BitVec 16 × Nat)) (p : Part) : Tab (Nat × BitVec 16 × Nat) :=
    if p.st = .running then Tab.set t p.leaf (x.w.opc, x.w.tag, x.ctx) else t
  { d with flt := { d.flt with stopped := x.parts.foldl f d.flt.stopped } }

/-- A descriptor is stopped and held (R342); one already doomed by a teardown ends (R348). -/
def Dev.hold (d : Dev) (id : Nat) : Dev :=
  match d.desc? id with
  | none => d
  | some x =>
    let d := d.mapInc (fun n => if n.replay = some id then { n with replay := none, front := some id } else n)
    let d := (((d.noteStopped x).crcDrop id).modDesc id (fun y => { y with phase := .held, parts := [] })).crcTake
    if x.doom.isSome then d.endDesc id { st := .abortedTeardown } else d

/-- The mark of an expiry now. -/
def Dev.markOf (d : Dev) (x : Desc) : Mark :=
  { target := BitVec.ofNat 24 x.w.target, tag := x.w.tag, ctx := x.ctx, at_ := d.now }

/-- The expiry of a dispatched descriptor starts an incident, or joins the running ones it overlaps (R341, R342). -/
def Dev.startIncident (d : Dev) (x : Desc) : Dev :=
  let ps := x.openParts
  let joined := d.flt.incidents.filter (fun n => ps.any n.has)
  let fresh := ps.filter (fun p => !joined.any (fun n => n.has p))
  let base : Incident :=
    { parts := [], watch := [], marks := [], t0 := d.now,
      held := [], replay := none, front := none, guilty := [], replayed := 0, timedOut := false }
  let n := match joined with
    | [] => base
    | i :: t => t.foldl Incident.merge i
  let n := { n with
    parts := n.parts ++ fresh.map (fun p => (p, .draining d.now))
    marks := fresh.foldl (fun t p => Tab.set t p (d.markOf x)) n.marks
    held := n.held ++ [x.id] }
  let d := d.setIncs (mergeAll (d.flt.incidents.filter (fun m => !joined.contains m) ++ [n]))
  let d := d.event (x.ev 0xC2 (dwN n.mask))
  if joined.isEmpty then d else (d.hold x.id).settle

/-- DESCRIPTOR_TIMEOUT (R57, R340): the timeout of a descriptor has run out. A held or replaying descriptor is the incident's
affair. -/
def descriptorTimeout (id : Nat) (d : Dev) : Dev :=
  match d.desc? id with
  | none => d
  | some x =>
    if x.tmoUs = 0 ∨ d.now < x.start + x.tmoUs * 1000 ∨ x.phase = .held ∨ x.phase = .replaying ∨ d.heldBack id then d
    else
      let out (d : Dev) : Dev := ((d.withdraw id).endDesc id { st := .failedTimeout }).settle
      match x.await_ with
      | .run =>
        if (opDefOf x.w).isSome then (if x.phase = .dispatched ∧ ¬ x.openParts.isEmpty then d.startIncident x else out d)
        else if x.w.opc = 0x0B ∨ x.w.opc = 0x7C then d.moveTimeout x (.desc id) else out d
      | .copy k false => d.moveTimeout x (.copy k)
      | .armed _ | .teardown _ | .resync _ => d
      | _ => out d

/-! ## The drain and the sample (R342, R343) -/

/-- A descriptor runs a part on a partition. -/
def Desc.onPart (x : Desc) (p : Nat) : Bool := x.live && x.parts.any (fun q => q.st != .finished && partOf q.leaf == p)

/-- The part a leaf is executing has not finished. -/
def Dev.partRuns (d : Dev) (p : Nat) : Bool := d.descs.any (fun x => x.parts.any (fun q => q.st == .running && partOf q.leaf == p))

/-- Stop and hold what is unfinished on a partition, and the triggers of its incident; incidents that come to hold one
descriptor merge. -/
def Dev.holdPart (d : Dev) (p : Nat) : Dev :=
  let ids := (d.descs.filter (fun x => x.onPart p)).map (·.id)
  let trig := match d.incOf p with
    | some n => n.held.filter (fun k => ((d.desc? k).map (fun x => x.phase == .dispatched)).getD false)
    | none => []
  let ids := (trig ++ ids).dedup
  let d := d.setIncs (mergeAll (d.flt.incidents.map (fun n => if n.has p then { n with held := (n.held ++ ids).dedup } else n)))
  ids.foldl (fun d k => d.hold k) d

/-- INCIDENT_DRAIN_END (R342): the drain of a fenced partition has lasted 1 ms, or nothing runs there any more. -/
def incidentDrainEnd (p : Nat) (d : Dev) : Dev :=
  match (d.incOf p).bind (fun n => n.parts.find? (fun q => q.1 == p)) with
  | some (_, .draining t) =>
    if t + 1000000 ≤ d.now ∨ ¬ d.partRuns p then ((d.holdPart p).setPhase p .sampling).settle else d
  | _ => d

/-- Free bytes, as many as asked for. -/
def Dev.drawBytes (d : Dev) (n : Nat) : Bytes × Dev :=
  ((List.range n).map (fun k => Sys2Proof.Config.freeByte (d.free + k)), { d with free := d.free + n })

/-- The record of one leaf in a sample: its handle, then opcode, TAG and context of the part in execution; BEATS, MARGIN_FILL,
the firmware state and the margin words the model does not know are the device's own, and so are TAG and context of a leaf without a part. -/
def Dev.leafRecord (d : Dev) (l : Nat) : Bytes × Dev :=
  let r := d.drawBytes (17 * 1024 - 48)
  let head := match Tab.get? d.flt.stopped l with
    | some (o, t, c) => toLe (o + t.toNat * 2 ^ 16) 4 ++ toLe c 4
    | none => [0xFF, 0] ++ bslice r.1 0 2 ++ toLe (bnat r.1 2 1 % 64) 4
  (toLe (leafHandle l) 4 ++ head ++ bslice r.1 3 12 ++ List.replicate 40 0 ++ (r.1.drop 15).take (17 * 1024 - 64), r.2)

/-- Bytes of a leaf's margin (chapter 01, the eleven quires). -/
def marginBytes (l : Nat) : Nat :=
  if l < 0x100 then 2 ^ 19 else if (0x102 ≤ l ∧ l < 0x104) ∨ (0x108 ≤ l ∧ l < 0x10C) then 2 ^ 21 else 2 ^ 20

/-- Where a margin word stands in its leaf's record: the first and the last 8 KiB of the margin follow the control state. -/
def marginAt (l w : Nat) : Option Nat :=
  let n := marginBytes l / 8
  if w < 1024 then some (1024 + 8 * w) else if n - 1024 ≤ w ∧ w < n then some (1024 + 8192 + 8 * (w - (n - 1024))) else none

/-- Write the words the model knows of a leaf's margin into its record at an offset of the dump sheet: a word that cannot be used is written
poisoned (R333, R343). -/
def Dev.sampleMargin (d : Dev) (i at_ l : Nat) : Dev :=
  (Tab.getD d.flt.margins l []).foldl (fun d p =>
    match marginAt l p.1 with
    | none => d
    | some o =>
      let s := eccCheck p.2.1 ^^^ p.2.2
      let r := d.eccWord { store := none, tier := 0, sheet := none, tag := 0, ctx := none } (p.1, s)
      let d := r.1.rawWrite i (at_ + o) (le64 (eccSynd p.2.1 s).2)
      if r.2.2 then d.modSheet i (fun t => { t with synd := Tab.set t.synd ((at_ + o) / 8) 0xFF }) else d) d

/-- Sample a partition to the dump sheet (R343), or count the loss and clear FLT_DUMP. -/
def Dev.sample (d : Dev) (n : Incident) (p : Nat) : Dev :=
  let h := d.own 0x15004
  match if h = 0 then none else d.sheetOf h with
  | none => (d.count cFltSampleLost).setOwn 0x15004 0
  | some s =>
    let i := shIdx h
    let slots := s.size / 589824
    let k := d.flt.samples
    let base := (k % 2 ^ 32) % slots * 589824
    let ls := sortBy (fun (a b : Nat) => decide (a ≤ b)) (d.leaves (leafHandle (0x170 + p)))
    let d := (ls.zipIdx).foldl (fun d l =>
      let r := d.leafRecord l.1
      (r.2.rawWrite i (base + 64 + 17408 * l.2) r.1).sampleMargin i (base + 64 + 17408 * l.2) l.1) d
    let m := Tab.getD n.marks p { target := 0, tag := 0, ctx := 0, at_ := n.t0 }
    let head := bslice (toLe k 4 ++ toLe (p + n.causeOf p * 16 + ls.length * 2 ^ 8) 4 ++ toLe m.target.toNat 4 ++
      toLe (m.tag.toNat + m.ctx * 2 ^ 16) 4 ++ toLe m.at_ 8) 0 60 ++ toLe k 4
    let d := d.rawWrite i base head
    { d with flt := { d.flt with samples := k + 1 } }.count cFltSample

/-- PARTITION_SAMPLE_DONE (R343): the sample is written and the partition goes into reset. -/
def partitionSampleDone (p : Nat) (d : Dev) : Dev :=
  match d.incOf p with
  | none => d
  | some n =>
    match n.parts.find? (fun q => q.1 == p) with
    | some (_, .sampling) => (d.sample n p).setPhase p (.resetting d.now)
    | _ => d

/-! ## Resets (R47, R344, R349) -/

/-- The content of a lost sheet is not preserved. -/
def Dev.spoil (d : Dev) (m : Mem) : Mem × Dev :=
  m.foldl (fun acc c => (Mem.set acc.1 c.1 (Sys2Proof.Config.freeByte acc.2.free), { acc.2 with free := acc.2.free + 1 })) (m, d)

/-- A sheet is lost (R47): VOID with ABORTED_RESET, readers not yet granted doomed, descriptors that hold a token of it doomed to
ABORTED_RESET; its press image and the map it is a region of are gone. -/
def Dev.loseSheet (d : Dev) (i : Nat) : Dev :=
  let s := d.sheet i
  let h := d.handleOf i
  let r := d.spoil s.cells
  let q := s.q.map (fun r => if !r.write && r.st == .ready then { r with st := .doomed .abortedReset } else r)
  let writing := s.q.any (fun r => r.write && r.st == .granted)
  let d := r.2.setSheet i { s with cells := r.1, synd := [], q := q, tok := if writing then s.tok else .void, void := .abortedReset }
  let ids := (s.q.filter (fun r => r.st == .granted)).map (·.desc)
  let d := { d with descs := mapIf (fun x => ids.contains x.id && x.doom.isNone) (fun x => { x with doom := some .abortedReset }) d.descs
                    press := Tab.del d.press i
                    maps := d.maps.filter (fun p => p.1 != i && !(p.2.regions.any (fun r => r == h && r != p.2.hCache))) }
  d.event { code := 0xC4, ctx := if isLanding i then none else some s.ctx, d4 := h }

/-- The PRIVATE sheets of a channel group. -/
def Dev.privateOf (d : Dev) (p : Nat) : List Nat :=
  (d.sheets.filter (fun s => s.2.live && s.2.tier == 1 && s.2.place == 0 && s.2.part == p)).map (·.1)

/-- A partition and its channel group are reset: leaves and margins start afresh (R344), PRIVATE sheets are lost, CG10's reset empties the caches of maps (R47,
R281). -/
def Dev.resetGroup (d : Dev) (p : Nat) : Dev × Nat :=
  let l := d.privateOf p
  let d := l.foldl (fun d i => d.loseSheet i) d
  let d := { d with flt := { d.flt with stopped := d.flt.stopped.filter (fun t => partOf t.1 != p),
                                        margins := d.flt.margins.filter (fun t => partOf t.1 != p) } }
  (if p = 10 then { d with maps := d.maps.map (fun m => (m.1, { m.2 with cache := [] })) } else d, l.length)

/-- Held descriptors that name a lost sheet end with ABORTED_RESET (R344). -/
def Dev.endLost (d : Dev) : Dev :=
  (d.descs.filter (fun x => x.phase == .held && x.doom.isSome)).foldl (fun d x => d.endDesc x.id { st := .abortedReset }) d

/-- Resets of a partition within the window (R350). -/
def Dev.resetsIn (d : Dev) (p : Nat) : Nat :=
  ((Tab.getD d.flt.resetsAt p []).filter (fun t => decide (d.now < t + d.regF 0x15000 15 4 * 10 ^ 9))).length

/-- Reset a partition with its channel group: TOTAL, FLT_SHEET_LOST for each lost sheet, FLT_PARTITION_RESET (R344). `counts`
tells a reset that counts toward PART_LIMIT. -/
def Dev.resetPart (d : Dev) (p cause : Nat) (counts : Bool) : Dev :=
  let d := d.count (0x15080 + 4 * p)
  let d := if counts then
      { d with flt := { d.flt with resetsAt := Tab.set d.flt.resetsAt p (d.now :: (Tab.getD d.flt.resetsAt p []).take 14) } } else d
  let r := d.resetGroup p
  (r.1.event { code := 0xC3, d4 := dwN (p + cause * 16), d5 := dwN (d.resetsIn p), d6 := dwN r.2 }).endLost

/-- The replay that timed out is judged once its partitions are reset (R346): FAILED_TIMEOUT, FLT_GUILTY, and the teardown of its
context. -/
def Dev.punish (d : Dev) (id : Nat) : Dev :=
  match d.desc? id with
  | none => d
  | some x =>
    let d := d.endDesc id { st := .failedTimeout }
    let d := d.event { code := 0xC5, tag := x.w.tag, unit := x.w.target, ctx := some x.ctx,
                       d4 := dwN (x.ctx + x.ctxGen.toNat * 2 ^ 8), d5 := dwN x.w.tag.toNat }
    if (d.ctx x.ctx).st = .opened ∧ (d.ctx x.ctx).gen = x.ctxGen then d.tearStart x.ctx { cause := 0, owner := none, silent := false } else d

/-- Judge the guilty of every incident whose partitions are all reset. -/
def Dev.judgeGuilty (d : Dev) : Dev :=
  (d.flt.incidents.filter (fun n => n.parts.all (fun q => q.2 == .ready) && !n.guilty.isEmpty)).foldl (fun d n =>
    let d := d.mapInc (fun m => if m = n then { m with guilty := [] } else m)
    n.guilty.foldl (fun d id => d.punish id) d) d

/-- A partition whose resets have reached PART_LIMIT leaves service (R350). -/
def Dev.limitPart (d : Dev) (p : Nat) : Dev :=
  if d.regF 0x15000 3 0 ≤ d.resetsIn p ∧ ¬ d.flt.partOos.contains p then
    { d with flt := { d.flt with partOos := d.flt.partOos ++ [p] } }.event { code := 0xC9, d4 := dwN p }
  else d

/-- PARTITION_RESET_DONE (R344, R350, R351): the reset of an incident's partition, or the restoring reset of one out of service,
has finished within 2 ms. -/
def partitionResetDone (p : Nat) (d : Dev) : Dev :=
  match d.flt.restores.find? (fun r => r.1 == p) with
  | some (_, t, _) =>
    if t + 2000000 < d.now then d
    else
      let ids := (d.flt.restores.filter (fun r => r.1 == p)).map (·.2.2)
      let d := { d with flt := { d.flt with restores := d.flt.restores.filter (fun r => r.1 != p) } }.resetPart p 0 false
      let d := { d with flt := { d.flt with partOos := d.flt.partOos.filter (· != p), resetsAt := Tab.del d.flt.resetsAt p } }
      (ids.foldl (fun d id => d.endDesc id { st := .done }) (d.event { code := 0xCA, d4 := dwN p })).retryHeld.settle
  | none =>
    match d.incOf p with
    | none => d
    | some n =>
      match n.parts.find? (fun q => q.1 == p) with
      | some (_, .resetting t) =>
        if t + 2000000 < d.now then d
        else (((((d.resetPart p (n.causeOf p) true).limitPart p).setPhase p .ready).judgeGuilty).endIncidents).retryHeld.settle
      | _ => d

/-! ## Replay (R345–R347) -/

/-- The next held descriptor of an incident: the head of its queue, else the primary context's, else in acceptance order. -/
def Dev.nextReplay (d : Dev) (n : Incident) : Option Desc :=
  let xs := d.descs.filter (fun x => n.held.contains x.id && x.phase == .held)
  match xs.find? (fun x => n.front == some x.id) with
  | some x => some x
  | none =>
    let cls (x : Desc) : Nat := if d.primary = some x.ctx then 0 else 1
    bestBy (fun (a b : Desc) => decide (cls a < cls b ∨ (cls a = cls b ∧ a.id < b.id))) xs

/-- REPLAY_START (R345, R347): with every partition of an incident reset, its next held descriptor runs alone there, its timeout
restarted; with none held the incident ends. -/
def replayStart (d : Dev) : Dev :=
  let d := d.endIncidents
  match d.flt.incidents.find? (fun n => n.settled && n.replay.isNone && (d.nextReplay n).isSome) with
  | none => d
  | some n =>
    match d.nextReplay n with
    | none => d
    | some x =>
      let d := d.mapInc (fun m => if m = n then { m with replay := some x.id, front := if m.front = some x.id then none else m.front } else m)
      let d := d.modDesc x.id (fun y => { y with phase := .replaying, start := d.now })
      let d := match d.desc? x.id with
        | some y => d.dispatchParts y
        | none => d
      (if (d.desc? x.id).isNone then d.replayDone x.id else d).settle

/-- REPLAY_TIMEOUT (R346): the replay's timeout has run out; its partitions are drained, sampled with CAUSE 1 and reset once
more. -/
def replayTimeout (d : Dev) : Dev :=
  let late (n : Incident) : Bool := match n.replay.bind d.desc? with
    | some x => decide (x.tmoUs ≠ 0 ∧ x.start + x.tmoUs * 1000 ≤ d.now)
    | none => false
  match d.flt.incidents.find? late with
  | none => d
  | some n =>
    match n.replay with
    | none => d
    | some id =>
      let d := d.mapInc (fun m => if m = n then { m with replay := none, guilty := m.guilty ++ [id], replayed := m.replayed + 1, timedOut := true,
                                                           parts := m.parts.map (fun q => (q.1, PartPhase.draining d.now)),
                                                           marks := match d.desc? id with
                                                             | some x => m.marks.map (fun k => (k.1, d.markOf x))
                                                             | none => m.marks } else m)
      d.modDesc id (fun y => { y with phase := .dispatched })

/-! ## Escalation (R349, R352) -/

/-- Volume resets within the last 10 min. -/
def Dev.volResets (d : Dev) : Nat := (d.flt.volTimes.filter (fun t => decide (d.now < t + 600 * 10 ^ 9))).length

/-- The device goes out of service (R349), and what it had fetched is refused. -/
def Dev.outOfService (d : Dev) (cause : Nat) : Dev := if d.flt.devOos then d else (d.leaveService cause).drainHeld.settle

/-- Reset the compute volume (R349): every descriptor with a part there, every held one and every FLT_RESTORE ends ABORTED_RESET,
all PRIVATE sheets are lost, running incidents end. The third within 10 min takes the device out of service. -/
def Dev.resetVolume (d : Dev) : Dev :=
  let incs := d.flt.incidents
  let d := { d with flt := { d.flt with volAt := some d.now, volTimes := d.now :: d.flt.volTimes.take 14 } }
  let d := (List.range 11).foldl (fun d p => (d.resetGroup p).1) d
  let gone (x : Desc) : Bool := x.phase == .held || !x.parts.isEmpty || (match x.await_ with | .restore _ => true | _ => false)
  let d := (d.descs.filter gone).foldl (fun d x => d.abortDesc x.id .abortedReset) d
  let d := { d with flt := { d.flt with restores := [] } }
  let d := d.event { code := 0xC8, d4 := dwN d.volResets }
  let over_ (d : Dev) (n : Incident) : Dev :=
    (d.setIncs []).event { code := 0xC7, d4 := dwN n.mask, d5 := dwN n.replayed, d6 := dwN ((d.now - n.t0) / 1000) }
  let d := incs.foldl over_ d
  if 3 ≤ d.volResets then d.outOfService 2 else d.settle

/-- PARTITION_RESET_HANG (R349, R351): a partition reset unfinished after 2 ms escalates to a volume reset. -/
def partitionResetHang (p : Nat) (d : Dev) : Dev :=
  let since : Option Nat := match d.flt.restores.find? (fun r => r.1 == p) with
    | some r => some r.2.1
    | none => match (d.incOf p).bind (fun n => n.parts.find? (fun q => q.1 == p)) with
      | some (_, .resetting t) => some t
      | _ => none
  match since with
  | some t => if d.now < t + 2000000 then d else d.resetVolume
  | none => d

/-- VOLUME_RESET_DONE (R349): within 20 ms the quires and CG0–CG10 are back in service. -/
def volumeResetDone (d : Dev) : Dev :=
  match d.flt.volAt with
  | some t => if d.now ≤ t + 20000000 then { d with flt := { d.flt with volAt := none } }.retryHeld.settle else d
  | none => d

/-- VOLUME_RESET_HANG (R349): a volume reset unfinished after 20 ms takes the device out of service. -/
def volumeResetHang (d : Dev) : Dev :=
  match d.flt.volAt with
  | some t => if d.now < t + 20000000 then d else d.outOfService 1
  | none => d

/-- SEQUENCER_WATCHDOG (R352): a silent quire sequencer starts an incident on its partition without drain and trigger; every
descriptor with a part there is held at once. A partition of a running incident that is not in reset ends its drain, or its replay, at once. -/
def sequencerWatchdog (p : Nat) (d : Dev) : Dev :=
  if !partPresent d.board.variant p || d.partState p == 2 || d.partState p == 4 then d
  else
    let mark : Mark := { target := 0, tag := 0, ctx := 0, at_ := d.now }
    let n : Incident := match d.incOf p with
      | some n => { n with parts := mapIf (fun q => q.1 == p) (fun _ => (p, .sampling)) n.parts, watch := (n.watch ++ [p]).dedup,
                           marks := Tab.set n.marks p mark }
      | none =>
        { parts := [(p, .sampling)], watch := [p], marks := [(p, mark)], t0 := d.now, held := [],
          replay := none, front := none, guilty := [], replayed := 0, timedOut := false }
    let d := d.setIncs (d.flt.incidents.filter (fun m => !m.has p) ++ [n])
    ((d.event { code := 0xC2, d4 := dwN n.mask }).holdPart p).settle

/-! ## Scrubbing (R336) -/

/-- Bytes of an allocation unit of a tier. -/
def grainBytes (tier : Nat) : Nat := if tier = 0 then 4096 else 65536

/-- The stores of a tier with their bytes, in the order the patrol takes them. The spec maps no sheet to an address: the model takes sheets by
index, then copies, then free space as ascending addresses (DESIGN CHOICE, log 95). -/
def Dev.scrubPlaces (d : Dev) (tier : Nat) : List (Store × Nat) :=
  ((d.sheets.filter (fun p => p.2.live && p.2.tier == tier)).map (fun p => (Store.sheet p.1, p.2.size)) ++
    (d.copies.filter (fun p => p.2.tier == tier && p.2.st != .waiting)).map (fun p => (Store.copy p.1, p.2.size)) ++
    [(Store.free, grainBytes tier * d.tierFree tier)]).filter (fun p => p.2 != 0)

/-- The rank of a store in the patrol's order. -/
def Store.rank : Store → Nat × Nat
  | .sheet i => (0, i)
  | .copy k => (1, k)
  | .free => (2, 0)

/-- The store after one, the first again after the last. -/
def storeAfter (l : List (Store × Nat)) (st : Store) : Store :=
  let r := st.rank
  let later (p : Store × Nat) : Bool := decide (r.1 < p.1.rank.1 ∨ (r.1 = p.1.rank.1 ∧ r.2 < p.1.rank.2))
  match l.find? later, l with
  | some p, _ => p.1
  | none, p :: _ => p.1
  | none, [] => .free

/-- The place after one when `n` words are passed, at the start of the next store past its end. -/
def placeAfter (l : List (Store × Nat)) (p : Store × Nat) (n : Nat) : Store × Nat :=
  if 8 * (p.2 + n) < ((l.find? (fun q => q.1 == p.1)).map (·.2)).getD 0 then (p.1, p.2 + n) else (storeAfter l p.1, 0)

/-- A T2 channel is in a group under reset. -/
def Dev.chanStopped (d : Dev) (c : Nat) : Bool :=
  (List.range 11).any (fun g => d.partState g == 2 && (groupChans d.board.variant g).contains c)

/-- A word lies in a channel under reset (R336): a PRIVATE sheet in those of its group, what ALL places interleaves by units of 4 KiB over the
channels, ascending from channel 0 (R46; DESIGN CHOICE, log 95). -/
def Dev.scrubStopped (d : Dev) (tier : Nat) (p : Store × Nat) : Bool :=
  let inAll : Bool := d.chanStopped (p.2 / 512 % chanCount d.board.variant)
  tier == 1 && (match p.1 with
    | .sheet i => let s := d.sheet i; if s.place = 0 then d.partState s.part == 2 else s.place == 2 && inAll
    | .copy _ => inAll
    | .free => inAll)

/-- The first word from a place on that lies in no channel under reset. -/
def Dev.scrubSkip (d : Dev) (tier : Nat) (l : List (Store × Nat)) : Nat → Store × Nat → Option (Store × Nat)
  | 0, _ => none
  | n + 1, p =>
    if !d.scrubStopped tier p then some p
    else
      let whole : Bool := match p.1 with
        | .sheet i => (d.sheet i).place == 0
        | _ => false
      d.scrubSkip tier l n (if whole then (storeAfter l p.1, 0) else placeAfter l p (512 - p.2 % 512))

/-- The syndromes of a store's words. -/
def Dev.syndOf (d : Dev) (tier : Nat) : Store → Tab Byte
  | .sheet i => (d.sheet i).synd
  | .copy k => ((d.copy? k).map (·.synd)).getD []
  | .free => Tab.getD d.flt.loose tier []

/-- Replace the syndrome of a word of a store. -/
def Dev.setSynd (d : Dev) (tier : Nat) (st : Store) (w : Nat) (s : Option Byte) : Dev :=
  let f (t : Tab Byte) : Tab Byte := match s with
    | some b => Tab.set t w b
    | none => Tab.del t w
  match st with
  | .sheet i => d.modSheet i (fun x => { x with synd := f x.synd })
  | .copy k => d.modCopy k (fun x => { x with synd := f x.synd })
  | .free => { d with flt := { d.flt with loose := Tab.set d.flt.loose tier (f (Tab.getD d.flt.loose tier [])) } }

/-- Rewrite a word of a store with its corrected data (R336). Free space has no content. -/
def Dev.fixWord (d : Dev) (st : Store) (w : Nat) (s : Byte) : Dev :=
  let f (m : Mem) : Mem :=
    let q : QW := BitVec.ofNat 64 (leNat (Mem.read m (8 * w) 8))
    let q' := (eccSynd q s).2
    if q' = q then m else Mem.write m (8 * w) (le64 q')
  match st with
  | .sheet i => d.modSheet i (fun x => { x with cells := f x.cells })
  | .copy k => d.modCopy k (fun x => { x with cells := f x.cells })
  | .free => d

/-- The sheet a store belongs to. -/
def Dev.homeOf (d : Dev) : Store → Option Nat
  | .sheet i => some i
  | .copy k => (d.copy? k).map (·.home)
  | .free => none

/-- Scrub one word: a corrected word is rewritten and counted, an unusable one is rewritten poisoned and reported; in free space it becomes
zero (R336). -/
def Dev.scrubWord (d : Dev) (tier : Nat) (st : Store) (w : Nat) : Dev :=
  match Tab.get? (d.syndOf tier st) w with
  | none => d
  | some s =>
    match (eccSynd 0 s).1 with
    | .corrected => ((d.fixWord st w s).setSynd tier st w none).eccCe (eccTier tier) 1
    | .uncorrectable =>
      match d.homeOf st with
      | some i =>
        (d.setSynd tier st w (some 0xFF)).eccUe (eccTier tier) (d.handleOf i) (8 * w) 0 (if isLanding i then none else some (d.sheet i).ctx)
      | none => d.setSynd tier st w none
    | _ => d

/-- SCRUB_PATROL (R336): the patrol reads the next word of a tier, allocated or free. It skips channels under reset, and goes back to where it
stopped once their reset has ended; queued lines go before it. -/
def scrubPatrol (tier : Nat) (d : Dev) : Dev :=
  let l := d.scrubPlaces tier
  match l with
  | [] => d
  | h :: _ =>
    if !d.flt.hints.isEmpty then d
    else
      let back := (Tab.get? d.flt.skipped tier).bind (fun p => if d.scrubStopped tier p then none else some p)
      let p := match back, Tab.get? d.flt.patrol tier with
        | some p, _ => p
        | none, some p => placeAfter l p 1
        | none, none => (h.1, 0)
      let sk := d.flt.skipped
      let sk := if back.isSome then Tab.del sk tier
        else if d.scrubStopped tier p ∧ (Tab.get? sk tier).isNone then Tab.set sk tier p else sk
      let d := { d with flt := { d.flt with skipped := sk } }
      match d.scrubSkip tier l (66 * (l.length + 1)) p with
      | none => d
      | some p => { d with flt := { d.flt with patrol := Tab.set d.flt.patrol tier p } }.scrubWord tier p.1 p.2

/-- The tier a store lies in. -/
def Dev.tierOf (d : Dev) : Store → Nat
  | .sheet i => (d.sheet i).tier
  | .copy k => ((d.copy? k).map (·.tier)).getD 0
  | .free => 0

/-- SCRUB_HINT (R336): the line queued first is scrubbed. -/
def scrubHint (d : Dev) : Dev :=
  match d.flt.hints with
  | [] => d
  | (st, line) :: rest =>
    (List.range 8).foldl (fun d k => d.scrubWord (d.tierOf st) st (8 * line + k)) { d with flt := { d.flt with hints := rest } }

end Sys2Proof.Machine
end

