-- ==== Sys2Proof/Machine/Sensor.lean ====
section
/-! DEFINITION. The sensor ports (chapter 04): CSI-2 (R108, R115, R116), Ethernet (R109), CAN FD (R110), SPI (R111). -/

namespace Sys2Proof.Machine

/-! ## CSI-2 -/

/-- Camera mapping words. -/
def Dev.camMap (d : Dev) (c : Nat) : DW := d.reg (0x4100 + 8 * c)
def Dev.camW (d : Dev) (c : Nat) : Nat := d.regF (0x4104 + 8 * c) 15 0
def Dev.camH (d : Dev) (c : Nat) : Nat := d.regF (0x4104 + 8 * c) 31 16
/-- Data type of a camera. -/
def Dev.camDt (d : Dev) (c : Nat) : Nat := bits (d.camMap c) 13 8

/-- Bits per pixel of the packed CSI-2 layout of a data type (R114). -/
def dtBits (dt : Nat) : Nat :=
  if dt = 0x2A then 8 else if dt = 0x2B then 10 else if dt = 0x2C then 12 else if dt = 0x1E then 16 else 20

/-- Bytes of a line of a camera; a line whose pixels fill no whole number of bytes ends in a whole one (DESIGN CHOICE, log 98). -/
def Dev.camLine (d : Dev) (c : Nat) : Nat := cdiv (d.camW c * dtBits (d.camDt c)) 8

/-- A lower enabled camera has the same PORT, VC and DT (R108, SNS_CAM_DUP). -/
def Dev.camDup (d : Dev) (c : Nat) : Bool :=
  d.snsOn c && (List.range c).any (fun b => d.snsOn b && bits (d.camMap b) 13 0 &&& 0x3F7F == bits (d.camMap c) 13 0 &&& 0x3F7F)

/-- The enabled, not shadowed cameras of a port and virtual channel. -/
def Dev.camsOf (d : Dev) (port vc : Nat) : List Nat :=
  (List.range 16).filter (fun c => d.snsOn c && !d.camDup c && bits (d.camMap c) 2 0 == port && bits (d.camMap c) 6 3 == vc)

/-- The open frame of a camera. -/
def Dev.frame? (d : Dev) (c : Nat) : Option Frame := Tab.get? d.sns.frames c
/-- Set or remove the open frame of a camera. -/
def Dev.setFrame (d : Dev) (c : Nat) (f : Option Frame) : Dev :=
  { d with sns := { d.sns with frames := match f with
      | some x => Tab.set d.sns.frames c x
      | none => Tab.del d.sns.frames c } }

/-- End the open frame of a camera: a frame that was dropped is noted; another lands with its record (R112, R114–R116). The
embedded data gives SENSOR_STAMP where EMB asks for it. -/
def Dev.endFrame (d : Dev) (c : Nat) : Dev :=
  match d.frame? c with
  | none => d
  | some f =>
    let d := d.setFrame c none
    if f.dropped then d.noteMapped c d.now
    else
      let io := d.ioDecode (bits (d.camMap c) 2 0)
      let d := io.1
      let f := { f with crcBad := f.crcBad || io.2 }
      let trunc := f.trunc || f.lines < d.camH c
      let emb := bitOf (d.camMap c) 14
      let p : Parsed := if !emb then {} else if f.crcBad ∨ trunc then d.unparsed (d.parserOf c) else d.parse (d.parserOf c) false (fun _ => 0) f.emb
      let size := (d.sheet f.sheet).size
      d.landOwn
        { sensor := c, ukind := 0, flags := (if f.crcBad then aCrcBad else 0) + (if trunc then aTrunc else 0),
          arrival := d.now, stamp := p.stamp, sheet := f.sheet, rawLen := size, rawOff := 0, parsed := none, count := 0,
          info0 := dwN (d.camW c + d.camH c * 2 ^ 16),
          info1 := dwN (d.camDt c + bits (d.camMap c) 6 3 * 2 ^ 6 + f.number.toNat * 2 ^ 16) } p.err

/-- CSI_FRAME_START (R115, R116): an open frame closes with TRUNC; the new frame takes its pool space or is dropped. -/
def csiFrameStart (port vc : Nat) (number : BitVec 16) (d : Dev) : Dev :=
  let cams := d.camsOf port vc
  if cams.isEmpty then d.count cCsiDrop
  else cams.foldl (fun d c =>
    let d := match d.frame? c with
      | some f => (d.setFrame c (some { f with trunc := true })).endFrame c
      | none => d
    let mk (dropped : Bool) (i : Nat) : Frame :=
      { cam := c, dropped := dropped, sheet := i, number := number, lines := 0, trunc := false, crcBad := false, emb := [] }
    let place := if d.slotHeld c then none else d.takeLanding (d.camLine c * d.camH c)
    match place with
    | some (i, d) => d.setFrame c (some (mk false i))
    | none => (d.dropUnit c (d.snsSeq c)).setFrame c (some (mk true 0))) d

/-- CSI_LINE_PACKET (R116, R127): a header error discards the packet and truncates the frame; embedded data is kept for its
parser; a pixel line is written. A line beyond the configured height or width closes the frame with TRUNC, its excess discarded; a shorter
one leaves it open and truncated. A payload error marks the frame. -/
def csiLinePacket (port vc dt : Nat) (eccOk crcOk : Bool) (data : Bytes) (d : Dev) : Dev :=
  let cams := d.camsOf port vc
  let open_ := cams.filter (fun c => (d.frame? c).isSome)
  let upd (c : Nat) (f : Frame → Frame) (d : Dev) : Dev := match d.frame? c with
    | some x => d.setFrame c (some (f x))
    | none => d
  if !eccOk then open_.foldl (fun d c => upd c (fun f => { f with trunc := true }) d) (d.count cCsiEcc)
  else if dt = 0x12 then
    if open_.isEmpty then d.count cCsiDrop
    else open_.foldl (fun d c => upd c (fun f => { f with emb := f.emb ++ data, crcBad := f.crcBad || !crcOk }) d) d
  else
    match open_.filter (fun c => d.camDt c == dt) with
    | [] => d.count cCsiDrop
    | c :: _ =>
      match d.frame? c with
      | none => d
      | some f =>
        let line := d.camLine c
        let f' := { f with crcBad := f.crcBad || !crcOk, lines := f.lines + 1, trunc := f.trunc || decide (data.length ≠ line) }
        if f.lines ≥ d.camH c then (d.setFrame c (some { f' with lines := f.lines, trunc := true })).endFrame c
        else
          let d := if f.dropped then d else d.rawWrite f.sheet (line * f.lines) (data.take line)
          let d := d.setFrame c (some f')
          if line < data.length then d.endFrame c else d

/-- CSI_FRAME_END (R112): the open frames of the channel land. -/
def csiFrameEnd (port vc : Nat) (d : Dev) : Dev :=
  let cams := (d.camsOf port vc).filter (fun c => (d.frame? c).isSome)
  if cams.isEmpty then d.count cCsiDrop else cams.foldl (fun d c => d.endFrame c) d

/-! ## Ethernet (R109) -/

/-- One's complement sum of 16-bit words of a byte string. -/
def ocSum : Bytes → Nat
  | [] => 0
  | [a] => a.toNat * 256
  | a :: b :: t => a.toNat * 256 + b.toNat + ocSum t

/-- An Internet checksum over bytes that hold their own checksum. -/
def ocOk (extra : Nat) (b : Bytes) : Bool := (ocSum b + extra) % 65535 == 0 && ocSum b + extra != 0

/-- What the device parses of a frame: its VLAN ID, EtherType, the payload after the EtherType, and for IPv4 with UDP the
source, destination port, payload and checks. -/
structure EthParsed where
  vlan   : Option Nat
  etype  : Nat
  body   : Bytes
  frag   : Bool
  udp    : Option (Nat × Nat × Bytes)
  bad    : Bool
  summed : Bool

/-- Parse a frame of destination, source, an optional 802.1Q tag and a payload. -/
def ethParse (f : Bytes) : EthParsed :=
  let be (o n : Nat) : Nat := beNat (bslice f o n)
  let tag := be 12 2 == 0x8100
  let o := if tag then 18 else 14
  let et := be (o - 2) 2
  let body := f.drop o
  let b (i n : Nat) : Nat := beNat (bslice body i n)
  let ihl := 4 * (b 0 1 % 16)
  let udpLen := b (ihl + 4) 2
  let isIp := et == 0x0800
  let isUdp := isIp && b 0 1 / 16 == 4 && b 9 1 == 17 && decide (ihl + 8 ≤ body.length)
  let dg := (body.drop ihl).take udpLen
  let sum := b (ihl + 6) 2
  let pseudo := ocSum (bslice body 12 8) + 17 + udpLen
  { vlan := if tag then some (be 14 2 % 4096) else none, etype := et, body := body,
    frag := et == 0x0800 && b 6 2 % 2 ^ 14 != 0,
    udp := if isUdp then some (b 12 4, b (ihl + 2) 2, dg.drop 8) else none,
    bad := (isIp && !ocOk 0 (body.take ihl)) || (isUdp && sum != 0 && !ocOk pseudo dg),
    summed := isUdp && sum != 0 }

/-- A filter matches a frame of a port; a filter of RAW takes the bytes after the EtherType, whatever SRC_IPV4 says (DESIGN CHOICE, log 97). -/
def Dev.filterHit (d : Dev) (f port : Nat) (e : EthParsed) : Option Bytes :=
  let o := 0x4300 + 16 * f
  let c := d.reg o
  let m := d.regF (o + 4) 15 0
  let raw := bitOf (d.reg (o + 4)) 16
  let src := (d.reg (o + 8)).toNat
  if !bitOf c 6 || !bitOf c port || (bitOf c 7 && e.vlan != some (bits c 19 8)) then none
  else if raw then (if e.etype = m then some e.body else none)
  else match e.udp with
    | some (s, p, b) => if p = m ∧ (src = 0 ∨ src = s) then some b else none
    | none => none

/-- The frame is for the port: its own address or a multicast group (R109). -/
def Dev.macFor (d : Dev) (port : Nat) (f : Bytes) : Bool :=
  let o := 0x4200 + 16 * port
  (f.headD 0).getLsbD 0 || bslice f 0 6 == toLe ((d.reg (o + 4)).toNat + 2 ^ 32 * d.regF (o + 8) 15 0) 6

/-- ETH_FRAME_RX (R109, R118, R127): bad FCS, fragments, unmatched and oversized frames are discarded and counted; a match
lands under its filter's sensor; a frame without a buffer counts as lost (R115). PTP frames pass to the timebase as messages of their own,
and are dropped where the port runs no PTP (R136). A filter whose SENSOR is still 0 names no Ethernet sensor and lands nothing (R107;
DEDUCED, log 96). ARRIVAL is corrected by the port's ingress latency (R112, R137). -/
def ethFrameRx (port : Nat) (fcsOk bufferOk : Bool) (f : Bytes) (d : Dev) : Dev :=
  if !bitOf (d.reg (0x4200 + 16 * port)) 0 then d.count cEthDrop
  else if !fcsOk then d.count cFcs
  else
    let e := ethParse f
    if e.etype = 0x88F7 then (if d.ptpOn port then d else d.count cEthDrop)
    else if e.frag ∨ f.length > 9216 ∨ ¬ d.macFor port f then d.count cEthDrop
    else
      match (List.range 16).findSome? (fun k => (d.filterHit k port e).map (fun b => (k, b))) with
      | none => d.count cEthDrop
      | some (k, body) =>
        let s := d.regF (0x430C + 16 * k) 7 0
        let at_ := d.now - d.regF (0x8044 + 8 * port) 15 0
        if !d.snsOn s ∨ s < 0x20 then d.count cEthDrop
        else if !bufferOk then (d.dropUnit s (d.snsSeq s)).noteMapped s at_
        else
          let io := d.ioDecode (8 + port)
          let d := io.1
          let p := d.parserOf s
          let chk := d.parserCheck p body
          let crcBad := e.bad || chk == some false || io.2
          let unchecked := chk.isNone && !e.summed
          let d := d.noteParser p chk body
          let lidar := decide (s < 0x28)
          let f0 := d.free
          let r : Parsed := if crcBad then d.unparsed p else d.parse p lidar (fun i => (Sys2Proof.Config.freeValue (f0 + i)).toNat) body
          let d := { d with free := d.free + r.points.length }
          let out := if crcBad ∨ r.dead then [] else if lidar then r.points.flatten
            else (r.meas.toList.map (fun x => toLe (BitVec.ofInt 64 x).toNat 8)).flatten
          let n := if crcBad ∨ r.dead then 0 else if lidar then r.points.length else 1
          d.landPacked s (if lidar then 1 else if s = 0x50 then 4 else 5)
            ((if crcBad then aCrcBad else 0) + (if unchecked then aUnchecked else 0)) at_ r.stamp body out n
            (if lidar then dwN k else r.msg) (if lidar then 0 else dwN k) r.err

/-! ## CAN FD (R110) -/

/-- The receive error counter of a controller, as ISO 11898-1 keeps it: one more for a frame in error, one less for a good one, which from
above 127 leaves it at 127 (PRESUMED, log 99). In MONITOR mode the controller takes no part on the bus and keeps its count. -/
def Dev.canCount (d : Dev) (n : Nat) (error : Bool) : Dev :=
  let c := Tab.getD d.sns.canRec n 0
  let c' := if error then Nat.min 255 (c + 1) else if 127 < c then 127 else c - 1
  { d with sns := { d.sns with canRec := Tab.put 0 d.sns.canRec n c' } }

/-- A controller is error passive. -/
def Dev.canPassive (d : Dev) (n : Nat) : Bool := decide (127 < Tab.getD d.sns.canRec n 0)

/-- One of the 32 acceptance filters of a controller takes a frame. -/
def Dev.canHit (d : Dev) (n : Nat) (f : CanFrame) : Bool :=
  let o := 0x6000 + 0x200 * n
  (List.range 32).any (fun k =>
    let w := d.reg (o + 0x100 + 8 * k)
    let m := d.regF (o + 0x104 + 8 * k) 28 0
    bitOf w 30 && bitOf w 29 == f.ext && (bits w 28 0 &&& m) == (f.id.toNat &&& m))

/-- CAN_FRAME_RX (R110, R127): in NORMAL mode a frame in error is answered with an error frame, a good one acknowledged; a remote frame, or one
no filter accepts, is discarded and counted; an accepted one lands. A controller that is bus-off loses the frame it would have landed. -/
def canFrameRx (n : Nat) (f : CanFrame) (d : Dev) : Dev :=
  let o := 0x6000 + 0x200 * n
  let s := 0x40 + n
  let normal := !bitOf (d.reg o) 1
  if !bitOf (d.reg o) 0 then d
  else if (Tab.get? d.sns.canStart n).isSome then
    if f.error ∨ f.remote ∨ ¬ d.canHit n f ∨ ¬ d.snsOn s then d else d.setLanding s { (d.landing s) with ovr := true }
  else if f.error then (if normal then (d.emitOut (.canError n (d.canPassive n))).canCount n true else d)
  else
    let d := if normal then (d.emitOut (.canAck n)).canCount n false else d
    if f.remote ∨ ¬ d.canHit n f ∨ ¬ d.snsOn s then d.count cCanFilt
    else
      let io := d.ioDecode (14 + n)
      io.1.landPacked s 3 (if io.2 then aCrcBad else 0) d.now 0 f.data [] 0
        (dwN (f.id.toNat + b2n f.ext * 2 ^ 29 + b2n f.fd * 2 ^ 30 + b2n f.brs * 2 ^ 31)) (dwN (f.data.length % 128)) none

/-- SNS_CAN_BUS_OFF (R110): the controller goes bus-off; frames on the bus are lost to it until it has recovered. -/
def snsCanBusOff (n : Nat) (d : Dev) : Dev :=
  if !bitOf (d.reg (0x6000 + 0x200 * n)) 0 ∨ (Tab.get? d.sns.canStart n).isSome then d
  else { d with sns := { d.sns with canStart := Tab.set d.sns.canStart n d.now } }.event { code := 0x25, d4 := dwN n }

/-- CAN_BUS_OFF_RECOVERY (R110): ISO 11898-1 recovery is done, 128 sequences of 11 recessive bits: the controller is error active again. -/
def canBusOffRecovery (n : Nat) (d : Dev) : Dev :=
  if (Tab.get? d.sns.canStart n).isNone then d
  else { d with sns := { d.sns with canStart := Tab.del d.sns.canStart n, canRec := Tab.put 0 d.sns.canRec n 0 } }

/-! ## Links -/

/-- SNS_LINK: a CSI-2 receiver (0–7) or Ethernet port (8–13) goes up or down. -/
def snsLink (port : Nat) (up : Bool) (d : Dev) : Dev :=
  let l := d.sns.csiUp.filter (· != port)
  let d := { d with sns := { d.sns with csiUp := if up then insertBy (fun a b => decide (a ≤ b)) port l else l } }
  let d := if 8 ≤ port ∧ ¬ up then d.ptpLinkDown (port - 8) else d
  d.event { code := 0x21, d4 := dwN (port + b2n up * 16) }

/-! ## SPI (R111) -/

/-- An SPI controller. -/
def Dev.spi (d : Dev) (n : Nat) : Spi := d.sns.spi.getD n Spi.reset
/-- Replace it. -/
def Dev.setSpi (d : Dev) (n : Nat) (x : Spi) : Dev := { d with sns := { d.sns with spi := d.sns.spi.setIfInBounds n x } }
/-- LEN of a controller. -/
def Dev.spiLen (d : Dev) (n : Nat) : Nat := d.regF (0x6800 + 0x40 * n) 21 16

/-- SPI_DRDY_EDGE (R111): an active edge starts a transaction, or is lost while one runs: the next landed block carries OVERRUN. -/
def spiDrdyEdge (n : Nat) (rising : Bool) (d : Dev) : Dev :=
  let o := 0x6800 + 0x40 * n
  let x := d.spi n
  if rising = bitOf (d.reg o) 2 then d
  else
    match x.running with
    | some _ =>
      let l := d.landing (0x30 + n)
      (((d.count cSpiOvr).setSpi n { x with missed := x.missed + 1 }).setLanding (0x30 + n) { l with ovr := true }).event
        { code := 0x24, d4 := dwN n }
    | none =>
      let cmd := ((List.range 8).flatMap (fun k => le32 (d.reg (o + 0x20 + 4 * k)))).take (d.spiLen n)
      (d.setSpi n { x with running := some d.now }).emitOut (.spiStart n cmd)

/-- Land the block of a controller once it is full, and start the next (R114). A block with a sample that failed its check is not parsed
(R116). -/
def Dev.spiBlock (d : Dev) (n : Nat) : Dev :=
  let x := d.spi n
  let s := 0x30 + n
  if x.raw.length < d.regF (0x6800 + 0x40 * n) 27 22 then d
  else
    let d := d.setSpi n { Spi.reset with running := x.running, missed := x.missed }
    if !d.snsOn s then d
    else
      let io := d.ioDecode (18 + n)
      let d := io.1
      let bad := x.crcBad || io.2
      let perr := if bad then d.parserBad (d.parserOf s) else x.perr
      let ok := !bad && perr.isNone
      let out := (x.stamps.zip x.parsed).flatMap (fun p => toLe p.1 8 ++ leWords p.2)
      d.landPacked s 2
        ((if bad then aCrcBad else 0) + (if x.unchecked then aUnchecked else 0))
        (x.stamps.headD 0) (if bad then 0 else x.sstamp) x.raw.flatten (if ok then out else []) (if ok then x.raw.length else 0)
        (dwN x.raw.length) 0 perr

/-- SPI_TRANSACTION_DONE (R111, R149, R153): the received bytes are checked and parsed; the sample joins the block and is
offered to the plough, after it the edges missed meanwhile. -/
def spiTransactionDone (n : Nat) (rx : Bytes) (d : Dev) : Dev :=
  let x := d.spi n
  match x.running with
  | none => d
  | some t =>
    let s := 0x30 + n
    let b := bslice rx 0 (d.spiLen n)
    let p := d.parserOf s
    let chk := d.parserCheck p b
    let d := d.noteParser p chk b
    let crcBad := chk == some false
    let r : Parsed := if crcBad then d.unparsed p else d.parse p false (fun _ => 0) b
    let vals := r.meas.map (satS 32)
    let good := !crcBad && !r.dead
    let x' : Spi :=
      { running := none, stamps := x.stamps ++ [t], raw := x.raw ++ [b], parsed := x.parsed ++ [vals.toList.map dwI],
        crcBad := x.crcBad || crcBad, unchecked := x.unchecked || chk.isNone, perr := (match x.perr with | some k => some k | none => r.err),
        sstamp := if x.raw.isEmpty then r.stamp else x.sstamp, missed := 0 }
    let d := d.setSpi n x'
    let d := if d.snsOn s then
        let d := d.plgOffer n t (if good then some vals else none) 1
        iter (fun _ d => d.plgOffer n t none 0) x.missed d
      else d
    d.spiBlock n

end Sys2Proof.Machine
end

