-- ==== Sys2Proof/Machine/RegIo.lean ====
section
/-! DEFINITION. BAR0 as a whole: what every register word reads (R392–R395, R398 and the chapters' register tables), writes
field by field (R9, R396, R397), the setup lock and its digest (R100, R400, R401), the sensor pool (R73). -/

namespace Sys2Proof.Machine

/-! ## Words with read-only fields -/

/-- A signed value as a word, saturated. -/
def satWord (x : Int) : DW := dwI (if x > 2 ^ 31 - 1 then 2 ^ 31 - 1 else if x < -(2 ^ 31) then -(2 ^ 31) else x)

/-- The low or high word of a 64-bit value. -/
def halfOf (hi : Bool) (n : Nat) : DW := dwN (if hi then n / 2 ^ 32 else n)

/-- Read-only bits of the HST and SPN blocks and COLOPHON. -/
def Dev.roHst (d : Dev) (off : Nat) : DW :=
  let v := d.board.variant
  if off = 0 then d.colophon
  else if off = 0x1004 then dwN (b2n d.locked)
  else if off = 0x1008 then dwN (b2n d.locked + b2n d.sec.svcLink * 2 + b2n d.sec.unlocked * 4)
  else if inArr off 0x1400 64 64 ∧ (off - 0x1400) % 64 = 12 then
    let x := d.ctx ((off - 0x1400) / 64)
    let st := match x.st with | .closed => 0 | .opened => 1 | .tearing => 2
    dwN (st * 2 ^ 8 + x.gen.toNat * 2 ^ 16)
  else if off = 0x3000 then dwN (t1Mib v + t2Gib v * 2 ^ 16 + v.grain * 2 ^ 24)
  else if off = 0x3004 then (if v = .bl6440 ∨ d.board.t3Gib = 0 then 0 else dwN (d.board.t3Gib + 4 * 2 ^ 8))
  else if inArr off 0x3500 16 64 ∧ off % 16 < 12 then dwN (d.useOf ((off - 0x3500) / 16) (off % 16 / 4))
  else if off = 0x3914 then dwN (d.tierFree 0)
  else if off = 0x3918 then dwN (d.tierFree 1)
  else if off = 0x391C then dwN (d.tierFree 2)
  else 0

/-- Read-only bits of the SNS and TB blocks. -/
def Dev.roTime (d : Dev) (off : Nat) : DW :=
  if off = 0x402C then dwN ((List.range 16).foldl (fun n c => n + b2n (d.camDup c) * 2 ^ c) 0)
  else if inArr off 0x4200 16 6 ∧ off % 16 = 12 then dwN (b2n (d.sns.csiUp.contains (8 + (off - 0x4200) / 16)))
  else if inArr off 0x6000 0x200 4 ∧ off % 0x200 = 12 then 
    (let n := (off - 0x6000) / 0x200; if (Tab.get? d.sns.canStart n).isSome then 2 else dwN (b2n (d.canPassive n)))
  else if off = 0x8004 then
    let slave := ((List.range 8).find? (fun p => (d.ptp p).st == .slave)).getD 15
    dwN (b2n d.tb.valid + b2n d.tb.holdover * 2 + b2n d.tb.txOvf * 4 + b2n d.tb.sat * 8 + slave * 16)
  else if off = 0x8010 then dwN d.now
  else if off = 0x8014 then d.tb.hiLatch
  else if off = 0x8018 then dwN d.tb.frLatch.toNat
  else if off = 0x8020 then dwI d.tb.rate
  else if off = 0x8024 then dwI d.tb.freq
  else if off = 0x8028 then satWord d.tb.offset
  else if off = 0x802C then d.tb.stepCnt
  else if off = 0x8030 then d.tb.txDrop
  else if inArr off 0x8080 16 9 then
    let c := d.tb.caps.getD ((off - 0x8080) / 16) Cap.reset
    if off % 16 = 4 then dwN (c.count.toNat + c.ovr.toNat * 2 ^ 24)
    else if off % 16 = 8 then halfOf false c.last.toNat else if off % 16 = 12 then halfOf true c.last.toNat else 0
  else if inArr off 0x8200 32 9 then
    let t := d.trig ((off - 0x8200) / 32)
    if off % 32 = 0 then (if d.own off = 1 then 0 else dwN (t.cur.mode + b2n t.cur.low * 4))
    else if off % 32 = 24 then halfOf false (t.next.getD 0) else if off % 32 = 28 then halfOf true (t.next.getD 0) else d.own off
  else if inArr off 0x8400 32 0x52 ∧ ownSensor ((off - 0x8400) / 32) then
    let m := Tab.getD d.tb.maps ((off - 0x8400) / 32) Mapper.reset
    let st := match m.st with | .acquiring => 0 | .locked => 1 | .quarantined => 2
    if off % 32 = 20 then dwN (st + m.cnt % 16 * 16)
    else if off % 32 = 24 then satWord m.residual else if off % 32 = 28 then satWord m.rate else 0
  else 0

/-- The words of the plough, which keep their own state. -/
def Dev.roPlg (d : Dev) (off : Nat) : DW :=
  let pend := b2n d.plg.swap.isSome
  if off = 0x9000 then dwN (b2n d.plg.en)
  else if off = 0x9004 then dwN (b2n d.plg.active + pend * 2)
  else if off = 0x9010 then dwN (pend + (d.own off).toNat % 4 / 2 * 2)
  else if inArr off 0x9040 8 8 then
    let l := d.plg.logs.getD ((off - 0x9040) / 8) PlgLog.reset
    if off % 8 = 0 then l.sheet else dwN (b2n l.live)
  else if inArr off 0x9100 8 32 then
    let k := (off - 0x9100) / 8
    if off % 8 = 0 then (d.pch k).cfg else d.plgDelay k
  else if inArr off 0x9400 0x200 2 then
    let o := (off - 0x9400) % 0x200
    if o < 0x140 ∧ o % 0x40 < 56 then d.plg.coefWord (decide (0x9600 ≤ off)) (o / 0x40) (o % 0x40 / 4) else 0
  else d.own off

/-- The status of press leaf `n`: an iteration under way is not part of the model's state, so its number is free. -/
def Dev.prsLeaf (d : Dev) (n : Nat) : DW :=
  let xs := d.descs.filter (fun x => x.parts.any (fun p => p.leaf == 0x108 + n && p.st == .running))
  if xs.isEmpty then 0
  else if xs.any (fun x => x.w.opc == 0x53) then dwN (1 + (Sys2Proof.Config.freeValue d.free).toNat % 2 ^ 9 * 2) else 1

/-- Read-only words of plan slot `n` (SCH_PLAN). -/
def Dev.roPlan (d : Dev) (n o : Nat) : DW :=
  match Tab.get? d.plans n with
  | none => 0
  | some p =>
    let busy : Bool := p.running && decide (p.recs.length < p.stages.length)
    if o = 0 then dwN (1 + b2n busy * 2 + p.level * 4 + b2n p.mirrored * 16 + p.ctx * 2 ^ 8)
    else if o = 4 then dwN (Nat.min p.debt (2 ^ 32 - 1))
    else if o = 8 then (if p.next = 0 then 0 else dwN (p.period (p.next - 1)).toNat)
    else dwN p.firings

/-- The sync state codes. -/
def Sync.code : Sync → Nat
  | .synced => 0 | .repair => 1 | .bulk => 2 | .diverged => 3 | .unpaired => 4

/-- Read-only bits of the PRS, LDG, SCH, MIR, FLT and CRC blocks. -/
def Dev.roRest (d : Dev) (off : Nat) : DW :=
  let v := d.board.variant
  if inArr off 0x10040 4 4 then d.prsLeaf ((off - 0x10040) / 4)
  else if off = 0x12004 then (if v = .bl6440 then 24 else 26)
  else if inArr off 0x13100 16 16 then d.roPlan ((off - 0x13100) / 16) (off % 16)
  else if off = 0x1400C then
    dwN (b2n d.mir.verso + d.mir.state * 2 + d.mir.reason * 16 + d.pairedLinks.foldl (fun n m => n + 2 ^ m) 0 * 2 ^ 8 + b2n d.mir.configDiff * 2 ^ 10)
  else if inArr off 0x14040 4 16 then
    let m := d.mslot ((off - 0x14040) / 4)
    dwN (m.sync.code + b2n m.adopt * 8)
  else if off = 0x14100 ∨ (off = 0x14120 ∧ v ≠ .bl6440) then dwN (b2n (d.link ((off - 0x14100) / 32)).up * 2 ^ 10)
  else if off = 0x15004 then d.own off
  else if off = 0x15008 then
    dwN (b2n d.flt.devOos + b2n (!d.flt.incidents.isEmpty) * 2 + (d.own off).toNat % 16 * 16 + Nat.min 15 d.volResets * 2 ^ 8)
  else if inArr off 0x15080 4 11 then
    let p := (off - 0x15080) / 4
    if partPresent v p then dwN (d.partState p + Nat.min 15 (d.resetsIn p) * 16 + (d.own off).toNat % 2 ^ 24 * 2 ^ 8) else 0
  else if inArr off 0x16040 4 16 then
    let u := (off - 0x16040) / 4
    dwN ((if u < 4 then 0 else if u < 6 then 1 else 2) + (d.own off).toNat / 2 ^ 16 * 2 ^ 16)
  else d.own off

/-- A word of a digest. -/
def digestWord (x : Digest) (k : Nat) : DW := dwN (x.toNat / 2 ^ (32 * k))

/-- Read-only words of the SEC block. -/
def Dev.roSec (d : Dev) (off : Nat) : DW :=
  let s := d.sec
  if off = 0x17000 then
    dwN (b2n s.slotB + b2n s.fallback * 2 + b2n s.recovery * 4 + b2n s.idOk * 8 + b2n d.vault.ownerKey.isSome * 16 + b2n s.staged * 32 +
      b2n s.mapStaged * 64 + b2n s.tampered * 128 + b2n d.measFull * 256)
  else if off = 0x17004 then s.runSvn
  else if off = 0x17008 then d.vault.rollback
  else if off = 0x1700C then d.vault.bootCnt
  else if off = 0x17014 then dwN s.log.length
  else if inArr off 0x17020 4 8 then digestWord s.meas ((off - 0x17020) / 4)
  else if inArr off 0x17040 4 8 then digestWord s.chain ((off - 0x17040) / 4)
  else d.own off

/-- The present beat rate of a quire: linear while it ramps (R383). -/
def Dev.rateNow (d : Dev) (q : Nat) : Nat :=
  match d.pwr.ramps.find? (fun r => r.1 == q) with
  | some (_, t, up) =>
    let part := d.pwr.cap * Nat.min 1000 (d.now - t) / 1000
    if up then part else d.pwr.cap - part
  | none => d.pwr.rates.getD q 0

/-- A temperature as s16. -/
def tempBits (t : Int) : Nat := (BitVec.ofInt 16 t).toNat

/-- Read-only words of the PWR block. -/
def Dev.roPwr (d : Dev) (off : Nat) : DW :=
  let p := d.pwr
  if off = 0x18004 then dwN (b2n p.pmbFault + b2n p.warn * 2 + b2n p.hot * 4 + b2n p.limit * 8)
  else if off = 0x18008 then dwN (p.setMv + p.measMv * 2 ^ 16)
  else if off = 0x1800C then dwN (33 * 2 ^ 8 + 24 * 2 ^ 16 + 20 * 2 ^ 24)
  else if inArr off 0x18010 4 3 then p.mw.getD ((off - 0x18010) / 4) 0
  else if off = 0x18020 then dwN (tempBits (p.temps.getD 0 0) + tempBits (p.temps.getD 1 0) * 2 ^ 16)
  else if off = 0x18024 then dwN (tempBits (p.temps.getD 2 0) + tempBits p.tjMax * 2 ^ 16)
  else if inArr off 0x18040 4 11 then
    let q := (off - 0x18040) / 4
    if partPresent d.board.variant q then dwN (d.rateNow q + p.cap * 2 ^ 16) else 0
  else if off = 0x18080 then dwN (850 + 720 * 2 ^ 16)
  else if off = 0x18084 then dwN (1000 + 720 * 2 ^ 16)
  else if off = 0x18088 then dwN (1250 + 820 * 2 ^ 16)
  else if off = 0x18090 then dwN (p.short.foldl (fun n k => n + 2 ^ k) 0) ||| d.own off
  else d.own off

/-- What the word at an offset holds beside the setup fields the device does not change. -/
def Dev.roWord (d : Dev) (off : Nat) : DW :=
  (if off < 0x4000 then d.roHst off ||| (if off = 0x1004 ∨ (0x3914 ≤ off ∧ off ≤ 0x391C) then 0 else d.own off)
   else if off < 0x9000 then (let w := d.roTime off; if 0x8000 ≤ off ∨ off = 0x402C then w else w ||| d.own off)
   else if off < 0xA000 then d.roPlg off
   else if off < 0x17000 then d.roRest off
   else if off < 0x18000 then d.roSec off
   else d.roPwr off)

/-- A BAR0 register word as it reads, without any effect (R392, R393, R396). In recovery only COLOPHON and the SEC block
answer (R357). -/
def Dev.readWord (d : Dev) (off : Nat) : DW :=
  if off % 4 ≠ 0 ∨ 0x19000 ≤ off ∨ ((d.sec.recovery ∨ d.sec.dead) ∧ off ≠ 0 ∧ ¬ (0x17000 ≤ off ∧ off < 0x18000)) then 0
  else
    let f := rwlAt d.board.variant off
    let set := if ownWord off ∨ f.isEmpty then 0 else d.reg off &&& dwN (fldMask f)
    set ||| d.roWord off

/-! ## The sensor pool (R73) -/

/-- POOL_MIB written before the lock: accepted up to half of T1, when free T1 can give up the increase or the pool's unoccupied
space the decrease. -/
def spnSnsPoolWrite (v : DW) (d : Dev) : Dev :=
  let new := bits v 7 0
  let old := d.regF 0x300C 7 0
  if d.locked ∨ t1Mib d.board.variant / 2 < new then d
  else if old < new then (if (new - old) * 256 ≤ d.tierFree 0 then d.setReg 0x300C (dwN new) else d)
  else if (old - new) * 256 ≤ d.poolFree then d.setReg 0x300C (dwN new) else d

/-! ## The lock (R100, R401) -/

/-- The setup digest: every register that holds an RWL field, ascending. -/
def Dev.setupDigest (d : Dev) : Digest :=
  sha3 (setupString d.board.variant (rwlOffsets d.board.variant) d.readWord)

/-- HST_LOCK written: 1 locks, measures the setup and raises HST_LOCKED; 0 has no effect. The lock is an event that must be measured,
so a full log refuses it (R366). -/
def hstLockWrite (v : DW) (d : Dev) : Dev :=
  if d.locked ∨ ¬ bitOf v 0 ∨ d.measFull then d
  else
    let d := { d with locked := true }
    d.framed ((d.addLog 4 d.setupDigest).event { code := 0x08 })

/-! ## Writes (R9, R396) -/

/-- FLT_DUMP.SHEET: a T1 sheet of whole 576 KiB, or 0; other handles are ignored. -/
def Dev.dumpWrite (d : Dev) (h : DW) : Dev :=
  let ok : Bool := match d.sheetOf h with
    | some s => s.tier == 0 && s.size % 589824 == 0
    | none => false
  if h = 0 ∨ ok then d.setOwn 0x15004 h else d

/-- SEC_STAGE: a T2 or T3 sheet of ACCESS OWNER, or 0; other handles are ignored. -/
def Dev.secStageWrite (d : Dev) (h : DW) : Dev :=
  let ok : Bool := match d.sheetOf h with
    | some s => (s.tier == 1 || s.tier == 2) && s.access == 0
    | none => false
  if h = 0 ∨ ok then d.setOwn 0x17010 h else d

/-- A write of one cleared-by-one word: accepted after the lock too. -/
def Dev.writeW1c (d : Dev) (off : Nat) (v : DW) : Dev :=
  if off = 0x1010 ∨ off = 0x1014 then d.setOwn off (d.own off &&& ~~~ v)
  else if off = 0x8004 then (if bitOf v 2 then d.modTb (fun t => { t with txOvf := false }) else d)
  else if off = 0x18090 then d.setOwn off (d.own off &&& ~~~ (v &&& 0x1FF0000))
  else d

/-- Setup words that act when written or keep their own state, HST_LOCK apart. -/
def Dev.writeOwn (d : Dev) (off : Nat) (v : DW) : Dev :=
  if inArr off 0x1400 64 64 then
    let c := (off - 0x1400) / 64
    let d := if bitOf v 0 then hstCtxOpenReg c d else d
    if bitOf v 1 then hstCtxTeardownReg c d else d
  else if inArr off 0x8200 32 9 then
    if off % 32 = 0 then tbTrigModeWrite ((off - 0x8200) / 32) v d else d.setOwn off (fldWrite (rwlAt d.board.variant off) (d.own off) v)
  else if off = 0x9000 then { d with plg := { d.plg with en := bitOf v 0 } }
  else if off = 0x9010 then plgCtlArmWrite v d
  else if inArr off 0x9040 8 8 then d.plgLogWrite ((off - 0x9040) / 8) v
  else if inArr off 0x9100 8 32 then d.plgChWrite ((off - 0x9100) / 8) v
  else if inArr off 0x9400 0x200 2 then
    let o := (off - 0x9400) % 0x200
    d.plgCoefWrite (decide (0x9600 ≤ off)) (o / 0x40) (o % 0x40 / 4) v
  else if off = 0x15004 then d.dumpWrite v
  else d.secStageWrite v

/-- What follows a write of the PTP clock words or of a mirror port's enable. -/
def Dev.afterSet (d : Dev) (off : Nat) (v : DW) : Dev :=
  if off = 0x8034 ∨ inArr off 0x8040 8 8 then d.ptpStates
  else if (off = 0x14100 ∨ off = 0x14120) ∧ ¬ bitOf v 0 ∧ (d.link ((off - 0x14100) / 32)).up then mirLink ((off - 0x14100) / 32) false d
  else d

/-- A sensor that has just been enabled starts its clock mapper anew (R145). -/
def Dev.sensorEnabled (d : Dev) (off : Nat) (was : Bool) : Dev :=
  let s := (off - 0x7000) / 16
  if inArr off 0x7000 16 0x52 ∧ off % 16 = 0 ∧ ownSensor s ∧ ¬ was ∧ bitOf (d.reg off) 0 then
    d.modTb (fun t => { t with maps := Tab.del t.maps s })
  else d

/-- Setup words the device does not change, and what follows a write of some. -/
def Dev.writeSet (d : Dev) (off : Nat) (v : DW) : Dev :=
  if off = 0x300C then spnSnsPoolWrite v d
  else
    let was := bitOf (d.reg off) 0
    let d := d.setReg off (fldWrite (rwlAt d.board.variant off) (d.reg off) v)
    d.framed ((d.afterSet off v).sensorEnabled off was)

/-- A 32-bit write to BAR0, field by field; read-only and reserved fields are left alone, every RWL field once locked. -/
def Dev.writeWord (d : Dev) (off : Nat) (v : DW) : Dev :=
  if off = 0x1010 ∨ off = 0x1014 ∨ off = 0x8004 ∨ off = 0x18090 then d.writeW1c off v
  else if d.locked ∨ (rwlAt d.board.variant off).isEmpty then d
  else if off = 0x1004 then hstLockWrite v d
  else if ownWord off then d.framed (d.writeOwn off v)
  else d.writeSet off v

/-- REGISTER_WRITE (R77, R396): a 32-bit write, or a 64-bit one as its low half and then its high half; a write that is not aligned
to its size is ignored and counted. -/
def registerWrite (off : Nat) (wide : Bool) (v : QW) (d : Dev) : Dev :=
  if off % (if wide then 8 else 4) ≠ 0 then d.count cDbErr
  else
    let d := d.writeWord off (dwN v.toNat)
    let d := if wide then d.writeWord (off + 4) (dwN (v.toNat / 2 ^ 32)) else d
    d.framed d.settle

end Sys2Proof.Machine
end

