-- ==== Sys2Proof/Machine/Service.lean ====
section
/-! DEFINITION. The service port (R98, R99, R357, R371), debug unlock (R372, R373) and the TEST port (R97). -/

namespace Sys2Proof.Machine

/-- The code of a writer token state, as DUMP_SHEET reports it (R99). -/
def Tok.code : Tok → Nat
  | .empty => 0 | .held => 1 | .set => 2 | .void => 3

/-- A response without data. -/
def Dev.svcDone (d : Dev) (k : SvcCmd) (st : Status) (result : QW := 0) (data : Bytes := []) : Dev :=
  d.emitOut (.service st k.tag result data)

/-- A refusal: counted, and HST_SVC_REFUSED (R98). -/
def Dev.svcRefuse (d : Dev) (op : Nat) (k : SvcCmd) (st : Status) : Dev :=
  ((d.count cSvcRefuse).event { code := 0x07, d4 := dwN (op + st.code * 2 ^ 8) }).svcDone k st

/-- A command has been accepted and its response is not yet sent (R98). -/
def Dev.svcBusy (d : Dev) : Bool :=
  d.sec.mapWait.isSome || ((d.sec.staging.map (fun g => g.owner.isNone)).getD false)

/-- A service command: nothing is accepted before the previous response; without a vendor record every command, in recovery
every command but INFO, READ_REG and STAGE_FIRMWARE, is refused; then its form is checked (R98, R357, R358). -/
def Dev.svc (d : Dev) (op : Nat) (k : SvcCmd) (argOk : Bool) (f : Dev → Dev) : Dev :=
  if d.svcBusy then d
  else if d.sec.dead ∨ (d.sec.recovery ∧ op ≠ 1 ∧ op ≠ 2 ∧ op ≠ 4) then d.svcRefuse op k .refusedDisabled
  else if k.reserved ≠ 0 ∨ !argOk then d.svcRefuse op k .refusedMalformed
  else f d

/-- INFO: COLOPHON and the measurement of the running image. -/
def svcInfo (k : SvcCmd) (d : Dev) : Dev :=
  d.svc 1 k (k.arg == 0) (fun d => d.svcDone k .done 0 (le32 d.colophon ++ Digest.bytes d.sec.meas))

/-- Bytes of BAR0 from an offset, read without side effects. -/
def Dev.barBytes (d : Dev) (off n : Nat) : Bytes :=
  let a := off / 4 * 4
  ((((List.range ((off + n - a) / 4 + 1)).flatMap (fun i => le32 (d.readWord (a + 4 * i)))).drop (off - a)).take n)

/-- READ_REG. An offset or a count that is no multiple of 4 is served by slicing words (DESIGN CHOICE, log 91). -/
def svcReadReg (k : SvcCmd) (d : Dev) : Dev :=
  let off := k.arg.toNat % 2 ^ 32
  let n := k.arg.toNat / 2 ^ 32 % 2 ^ 16
  let ok : Bool := decide (4 ≤ n ∧ n ≤ 4096 ∧ k.arg.toNat / 2 ^ 48 = 0 ∧ off + n ≤ 0x100000)
  d.svc 2 k ok (fun d =>
    let d' := d.svcDone k .done 0 (d.barBytes off n)
    { d' with free := d.free + 1 })

/-- DUMP_SHEET (R99): DEVICE sheets, landing sheets among them, and the dump sheet; others only when debug is unlocked. A
word is decoded as it is read (R332): a correction is counted and its line queued, an unusable word goes out as stored (R334). -/
def svcDumpSheet (k : SvcCmd) (d : Dev) : Dev :=
  let h : DW := dwN k.arg.toNat
  d.svc 3 k (decide (k.arg.toNat < 2 ^ 32)) (fun d =>
    match d.handleStatus h with
    | some st => d.svcRefuse 3 k st
    | none =>
      let i := shIdx h
      let s := d.sheet i
      if ¬ (isLanding i ∨ s.access = 2 ∨ d.own 0x15004 = h ∨ d.sec.unlocked) then d.svcRefuse 3 k .refusedPort
      else
        let d' := (d.eccHome i 0 s.size 0 none).1
        let r := s.round.toNat * (1 + 2 ^ 16) + s.tok.code * (2 ^ 32 + 2 ^ 34)
        (d'.emitOut (.dump (d.plainRead i 0 s.size))).svcDone k .done (BitVec.ofNat 64 r))

/-- STAGE_FIRMWARE (R357, R362): the response follows FIRMWARE_STAGE_DONE. -/
def svcStageFirmware (k : SvcCmd) (d : Dev) : Dev :=
  d.svc 4 k (k.arg == 0) (fun d =>
    if d.sec.staging.isSome then d.svcRefuse 4 k .refusedDisabled
    else match fwBad d.vault d.board.variant k.data with
      | some r => (d.secReject none 0 r).svcDone k .failedCheck
      | none => d.startStage k.data none k.tag)

/-- The staging sheet's writer token is granted: the archive is written and checked, and the token ends (R371). -/
def Dev.finishStageMap (d : Dev) : Dev :=
  match d.sec.mapWait with
  | none => d
  | some (id, tag, b) =>
    let i := (d.sheetsOf id).headD 0
    if (d.sheetsOf id).isEmpty then
      -- the sheet and its requests are lost
      { d with sec := { d.sec with mapWait := none } }.emitOut (.service .abortedReset tag 0 [])
    else if ¬ (d.sheet i).q.any (fun r => r.desc == id && r.st == .granted) then d
    else
      let d := d.rawWrite i 0 b
      let d := { d with sec := { d.sec with mapWait := none, mapStaged := (arcBad d.vault b).isNone } }
      match arcBad d.vault b with
      | none => (d.modSheet i (fun s => s.release id .done)).emitOut (.service .done tag 0 [])
      | some r =>
        ((d.secReject none 2 r).modSheet i (fun s => s.release id .failedCheck)).emitOut (.service .failedCheck tag 0 [])

/-- STAGE_MAP (R371): takes the writer token of the staging sheet, waiting for it if it must. -/
def svcStageMap (k : SvcCmd) (d : Dev) : Dev :=
  d.svc 5 k (k.arg == 0) (fun d =>
    let h := d.own 0x17010
    match d.sheetOf h with
    | none => d.svcRefuse 5 k .refusedDisabled
    | some s =>
      if s.size < k.data.length then d.svcRefuse 5 k .refusedMalformed
      else
        let (id, d) := d.freshId
        let d := d.modSheet (shIdx h) (fun s => s.addWrite id)
        let d := { d with sec := { d.sec with mapWait := some (id, k.tag, k.data) } }
        match (d.sheet (shIdx h)).q.find? (fun r => r.desc == id) with
        | some r => if (d.sheet (shIdx h)).grantable r then (d.grantReq (shIdx h) r).finishStageMap else d
        | none => d)

/-- TOKEN_GRANT (R54, R371): a grant to STAGE_MAP completes it. -/
def tokenGrantAll (i : Nat) (d : Dev) : Dev := (tokenGrant i d).finishStageMap

/-! ## Debug unlock (R372, R373) -/

/-- A fresh challenge. -/
def Dev.challengeOf (d : Dev) : Bytes :=
  toLe 0x44424731 4 ++ le32 d.colophon ++ le32 d.vault.bootCnt ++ List.replicate 20 0 ++ Digest.bytes (Config.freeDigest d.free) ++
    Digest.bytes d.vault.idDigest

/-- UNLOCK_CHALLENGE: refused for 1 s after a failure; a new challenge replaces the last. -/
def svcUnlockChallenge (k : SvcCmd) (d : Dev) : Dev :=
  d.svc 6 k (k.arg == 0) (fun d =>
    if ((d.sec.lockedTo.map (fun t => decide (d.now < t))).getD false) then d.svcRefuse 6 k .refusedDisabled
    else
      let c := d.challengeOf
      { d with free := d.free + 1, sec := { d.sec with challenge := some (c, d.now) } }.svcDone k .done 0 c)

/-- The key that answers: none, 0 the owner's, 1 the vendor's. -/
def Dev.debugKind (d : Dev) (key : Bytes) : Option Nat :=
  let g := sha3 key
  match d.vault.owner with
  | none => none
  | some r => if r.debugKey ≠ 0 ∧ g = r.debugKey then some 0 else if r.vendorDebug ∧ g = d.vault.debugKey then some 1 else none

/-- The challenge a response answers, unless it has lapsed. -/
def Dev.openChallenge (d : Dev) : Option Bytes :=
  match d.sec.challenge with
  | some (c, t) => if d.now < t + 60 * 10 ^ 9 then some c else none
  | none => none

/-- A failed response: counted, reported, and no challenge for 1 s. -/
def Dev.unlockFail (d : Dev) (k : SvcCmd) : Dev :=
  let d := { d with sec := { d.sec with lockedTo := some (d.now + 10 ^ 9) } }.count cSecUnlock
  (d.event { code := 0xE4, d4 := d.own cSecUnlock }).svcDone k .failedCheck

/-- UNLOCK_RESPONSE (R372, R373). The digest of the KIND 5 entry is not given, so it is free. -/
def svcUnlockResponse (k : SvcCmd) (d : Dev) : Dev :=
  d.svc 7 k (k.arg == 0) (fun d =>
    let c := d.openChallenge
    let d := { d with sec := { d.sec with challenge := none } }
    let key := k.data.take 1952
    match c, d.debugKind key with
    | some c, some n =>
      if k.data.length = 5261 ∧ Config.mldsaVerify key (sha3 c) (asciiOf "JGR-DBG") (k.data.drop 1952) then
        if d.measFull then d.svcRefuse 7 k .refusedQuota
        else
          let d := d.addLog 5 (Config.freeDigest d.free)
          let d := { d with free := d.free + 1, sec := { d.sec with unlocked := true } }
          (d.event { code := 0xE3, d4 := dwN n }).svcDone k .done
      else d.unlockFail k
    | _, _ => d.unlockFail k)

/-- A command with an undefined SVC_OP, or a defined one with a bad field, is refused (R98); one with neither has no effect
here: it is the command of its own name. -/
def svcUndefinedOp (op : Byte) (k : SvcCmd) (d : Dev) : Dev :=
  if op.toNat = 0 ∨ 7 < op.toNat ∨ k.reserved ≠ 0 then d.svc op.toNat k false id else d

/-- UNLOCK_CHALLENGE_LAPSE: 60 s after it was returned a challenge lapses. -/
def unlockChallengeLapse (d : Dev) : Dev :=
  match d.sec.challenge with
  | some (_, t) => if t + 60 * 10 ^ 9 ≤ d.now then { d with sec := { d.sec with challenge := none } } else d
  | none => d

/-- UNLOCK_LOCKOUT_END: the second after a failed response has passed. -/
def unlockLockoutEnd (d : Dev) : Dev :=
  match d.sec.lockedTo with
  | some t => if t ≤ d.now then { d with sec := { d.sec with lockedTo := none } } else d
  | none => d

/-- TEST_DEBUG_ACCESS (R97, R373): refused while locked, a read as zero; unlocked, the value read is not given, so it is free,
and a write sets TAMPERED. -/
def testDebugAccess (write : Bool) (d : Dev) : Dev :=
  if !d.sec.unlocked then
    let d := d.count cTestRefuse
    if write then d else d.emitOut (.readData 0)
  else if write then { d with sec := { d.sec with tampered := true } }
  else { d with free := d.free + 1 }.emitOut (.readData (Config.freeValue d.free))

/-- SVC_LINK_CHANGE: a USB host configures the port, or leaves it. -/
def svcLinkChange (up : Bool) (d : Dev) : Dev := { d with sec := { d.sec with svcLink := up } }

end Sys2Proof.Machine
end

