-- ==== Sys2Proof/Machine/Power.lean ====
section
/-! DEFINITION. Reset, boot, power and temperature (chapters 15 and 16): PERST_N and rails (R356–R358, R376–R379), the governor
(R380–R382), current ramps (R383), temperature (R384, R385) and trigger shorts (R387). -/

namespace Sys2Proof.Machine

/-! ## Rails (R375, R376) -/

/-- Absolute maximum of a rail in mV: VDD_C, VDD_S, VDD_DA, VDD_DQ, VDDIO_A, VDDIO_B, VDDIO_C, VDDIO_D, VDDQ_LP. -/
def railMax (r : Nat) : Nat := [950, 850, 1250, 700, 850, 1350, 1980, 3630, 600].getD r 0

/-- Operating range of a rail in tenths of a mV; VDD_C follows its setpoint. -/
def railRange (set r : Nat) : Nat × Nat :=
  [(10 * set - 100, 10 * set + 100), (7275, 7725), (10670, 11330), (5820, 6180), (7275, 7725), (11640, 12360), (17460, 18540),
    (32010, 33990), (4850, 5150)].getD r (0, 0)

/-- Guard band of a rail in tenths of a mV. -/
def railGuard (r : Nat) : Nat := if r = 7 then 600 else 200

/-- The supply monitor of a rail lets the device run. -/
def railIn (set r mv : Nat) : Bool :=
  let (lo, hi) := railRange set r
  decide (lo ≤ 10 * mv + railGuard r ∧ 10 * mv ≤ hi + railGuard r)

/-- Every rail lies in its guarded band. -/
def Dev.railsIn (d : Dev) : Bool := (List.range 9).all (fun r => railIn d.pwr.setMv r (d.pwr.rails.getD r 0))

/-! ## Loss of state (R376, R378, R385) -/

/-- Everything a removal of power loses. A slot that is being written is left invalid (R362, R376): it holds nothing since its
staging began. A VDD_C in range returns with its setpoint to 720 mV, where the regulator starts (R375; DESIGN CHOICE, log 34). -/
def Dev.wipe (d : Dev) (f : Pwr → Pwr) : Dev :=
  let rs := d.pwr.rails
  let p := { Pwr.reset with rails := if railIn d.pwr.setMv 0 (rs.getD 0 0) then rs.setIfInBounds 0 720 else rs, faultN := d.pwr.faultN, therm := d.pwr.therm, temps := d.pwr.temps }
  Dev.fresh d.board Pcie.reset d.vault (Sec.reset [] 0) (f p) d.mir.verso d.host d.free d.out

/-- The pins that have a level in reset, and that level (R378): trigger outputs and PPS_OUT low, CANn_TX recessive, SPIn_CS_N high and
SPIn_SCLK low, XSPI_CS_N high. -/
def resetLevels : List (Nat × Bool) :=
  (List.range 9).map (fun n => (n, false)) ++ (List.range 4).map (fun n => (11 + n, true)) ++
    (List.range 4).map (fun n => (15 + n, true)) ++ (List.range 4).map (fun n => (19 + n, false)) ++ [(23, true)]

/-- The outputs driven to their level in reset. -/
def Dev.pinsSafe (d : Dev) : Dev := resetLevels.foldl (fun d p => d.emitOut (.pin p.1 p.2)) d

/-- Drive FAULT_N; the open-drain output is low when asserted. -/
def Dev.setFaultN (d : Dev) (on : Bool) : Dev :=
  if d.pwr.faultN = on then d else { d with pwr := { d.pwr with faultN := on } }.emitOut (.pin 9 !on)

/-- Drive THERMTRIP_N. -/
def Dev.setTherm (d : Dev) (on : Bool) : Dev :=
  if d.pwr.therm = on then d else { d with pwr := { d.pwr with therm := on } }.emitOut (.pin 10 !on)

/-- RAIL_OUT_OF_RANGE within the absolute maxima (R376): a rail that leaves its guarded band while the device runs resets it as a
removal of power would and asserts FAULT_N; inside the band, or with the device held in reset, the level is only taken. -/
def railOutOfRange (r mv : Nat) (d : Dev) : Dev :=
  let e := { d with pwr := { d.pwr with rails := d.pwr.rails.setIfInBounds r mv } }
  if railIn e.pwr.setMv r mv ∨ ¬ d.alive then e
  else ((e.wipe (fun p => { p with off := true, brown := true })).pinsSafe).setFaultN true

/-- RAIL_RECOVERED (R376): every rail has been in range for 1 ms; FAULT_N is released unless a thermal trip holds it. A device that
runs has its rails in range already. -/
def railRecovered (d : Dev) : Dev :=
  if d.alive then d
  else
    let d := { d with pwr := { d.pwr with rails := Pwr.reset.rails, brown := false } }
    if d.pwr.therm then d else d.setFaultN false

/-! ## PERST_N and boot (R356–R358, R378) -/

/-- With PERST_N asserted THERMTRIP_N is released below 110 °C (R385), and FAULT_N unless R376 or the trip holds it (R378). -/
def Dev.releasePins (d : Dev) : Dev :=
  let cool : Bool := decide (d.pwr.temps.toList.all (fun t => decide (t < 110 * 16)))
  let d := if cool then d.setTherm false else d
  if d.pwr.brown ∨ d.pwr.therm then d else d.setFaultN false

/-- PERST_ASSERT: every volume in reset, outputs at their safe levels. -/
def perstAssert (d : Dev) : Dev := ((d.wipe (fun p => { p with perst := true, off := d.pwr.off, brown := d.pwr.brown })).pinsSafe).releasePins

/-- A PMBus transaction with the regulator at PWR_CFG.PMB_ADDR (R380). -/
def Dev.pmbus (d : Dev) (code : Byte) (word : Option (BitVec 16)) : Dev := d.emitOut (.pmbus (d.regF 0x18000 14 8) code word)

/-- Boot log entries 0 to 3 (R365): ROM, vendor record, owner record, firmware measurement. -/
def Sec.bootLog (s : Sec) (l : List Digest) : Sec := l.foldl (fun s g => s.append (logEntry s.log.length s.log.length 0 g)) s

/-- What the ROM finds in MRAM: a state record with no correct copy starts afresh with no owner key and slot A preferred, its other
fields not stated and so free; the boot is counted and the installed owner record takes effect (R359, R360). -/
def Vault.boot (v : Vault) (free : Nat) : Vault :=
  let v' := if v.stateA.isSome ∨ v.stateB.isSome then v
    else { v with stateA := some { v.record with rollback := dwN (Config.freeValue free).toNat, bootCnt := dwN (Config.freeValue (free + 1)).toNat } }
  { v'.update (fun r => { r with bootCnt := r.bootCnt + 1 }) with owner := v.installed }

/-- The boot of a device in reset with its rails in range: the preferred slot, the other, or recovery (R356–R358). A state record with
no correct copy means recovery (R359). Firmware reads VOUT_MODE once at its start (R380). -/
def Dev.boot (d : Dev) (verso : Bool) : Dev :=
  let v := d.vault.boot d.free
  let lost : Bool := d.vault.stateA.isNone && d.vault.stateB.isNone
  let d := Dev.fresh d.board Pcie.reset v (Sec.reset [] 0) { d.pwr with perst := false, off := false, faultN := false, tjMax := 0 }
    verso d.host (d.free + 2) d.out
  let sec := { d.sec with idOk := v.vendorOk }
  if !v.vendorOk then { d with sec := { sec with dead := true, rrs := true } }.setFaultN true
  else
    let ok (s : Bool) : Bool := (fwBad v d.board.variant (v.slot s)).isNone
    let start (s fb : Bool) : Dev :=
      let img := v.slot s
      let sec := sec.bootLog [v.romDigest, v.vendorDigest, (v.owner.map (·.digest)).getD 0, fwMeas img]
      { d with sec := { sec with slotB := s, fallback := fb, fbEvent := fb, runSvn := fwSvn img, meas := fwMeas img } }.pmbus 0x20 none
    if lost then { d with sec := { sec with recovery := true, rrs := true } }.setFaultN true
    else if ok v.preferred then start v.preferred false
    else if ok !v.preferred then start (!v.preferred) true
    else { d with sec := { sec with recovery := true, rrs := true } }.setFaultN true

/-- PERST_DEASSERT: samples MIRROR_ROLE and boots (R308, R356); rails out of range, or not yet back for 1 ms after a brown-out, hold
the device in reset (R376). -/
def perstDeassert (verso : Bool) (d : Dev) : Dev :=
  if !d.pwr.perst then d
  else if !d.railsIn ∨ d.pwr.brown ∨ d.pwr.therm then { d with pwr := { d.pwr with perst := false, off := true } }
  else d.boot verso

/-- RECOVERY_RRS_END (R357): at t0 + 1 s a device in recovery answers configuration requests. -/
def recoveryRrsEnd (d : Dev) : Dev :=
  if d.sec.recovery ∧ d.sec.rrs ∧ d.sec.bootAt + 10 ^ 9 ≤ d.now then { d with sec := { d.sec with rrs := false } } else d

/-! ## The governor (R380–R382) -/

/-- Some plan is armed. -/
def Dev.planArmed (d : Dev) : Bool := !d.plans.isEmpty

/-- An SCH_ARM waits in a ring. -/
def Dev.armHeld (d : Dev) : Bool := d.ctxs.toList.any (fun x => x.held.any (fun f => f.w.opc == 0x70))

/-- The VDD_C the governor heads for (R381, R382, R384). -/
def Dev.govTarget (d : Dev) : Nat :=
  if d.planArmed then (if bitOf (d.reg 0x18000) 0 ∧ ¬ d.pwr.hot ∧ ¬ d.pwr.limit then 820 else 720)
  else if bitOf (d.reg 0x18000) 1 ∧ ¬ d.armHeld then 660 else 720

/-- One step of at most 10 mV towards a target. -/
def govNext (set target : Nat) : Nat :=
  if set < target then Nat.min target (set + 10) else Nat.max target (set - 10)

/-- A PMBus transaction failed; the third failure in a row is the fault after which VDD_C stays (R380). -/
def Dev.pmbFail (d : Dev) : Dev :=
  let d := d.count cPwrPmbErr
  let n := d.pwr.retries + 1
  if d.pwr.pmbFault then d
  else if n < 3 then { d with pwr := { d.pwr with retries := n } }
  else { d with pwr := { d.pwr with retries := 0, pmbFault := true } }.event { code := 0xEB, d4 := 0, d5 := dwN d.pwr.status.toNat }

/-- The last transaction was acknowledged. -/
def Dev.pmbOk (d : Dev) : Dev := { d with pwr := { d.pwr with retries := 0 } }

/-- The word of VOUT_COMMAND for a voltage, in the format the regulator's VOUT_MODE reports: free, since the spec gives no regulator
(log 32). -/
def voutWord (mv : Nat) : BitVec 16 := Config.voutWord mv

/-- The previous step has settled: READ_VOUT within 5 mV, or 50 µs after it was written. -/
def Dev.govSettled (d : Dev) : Bool :=
  decide (d.pwr.setMv ≤ d.pwr.measMv + 5 ∧ d.pwr.measMv ≤ d.pwr.setMv + 5) || decide (d.pwr.stepAt + 50000 ≤ d.now)

/-- GOVERNOR_STEP (R381). A reply of false is a failed transaction. At 0.72 V a waiting SCH_ARM is taken. -/
def governorStep (reply : Bool) (d : Dev) : Dev :=
  let t := d.govTarget
  if d.pwr.pmbFault ∨ !d.govSettled ∨ d.pwr.setMv = t then d
  else
    let mv := govNext d.pwr.setMv t
    let d := d.pmbus 0x21 (some (voutWord mv))
    if !reply then (d.pmbFail).releaseArms.settle
    else
      let d := { d.pmbOk with pwr := { d.pmbOk.pwr with setMv := mv, stepAt := d.now, rails := d.pwr.rails.setIfInBounds 0 mv } }
      if 720 ≤ mv then d.releaseArms.settle else d

/-- PMB_ALERT (R380): PMB_ALERT_N makes the device read STATUS_WORD. -/
def pmbAlert (reply : Option (BitVec 16)) (d : Dev) : Dev :=
  let d := d.pmbus 0x79 none
  match reply with
  | none => d.pmbFail.releaseArms.settle
  | some s => { d.pmbOk with pwr := { d.pmbOk.pwr with status := s } }

/-- PMB_VOUT_POLL (R380, R381): READ_VOUT; below 0.71 V while a plan is armed PWR_PMBUS_FAULT with cause 1, once for each fall. -/
def pmbVoutPoll (reply : Option (BitVec 16)) (d : Dev) : Dev :=
  let d := d.pmbus 0x8B none
  match reply with
  | none => d.pmbFail.releaseArms.settle
  | some v =>
    let low : Bool := decide (v.toNat < 710) && d.planArmed
    let d' := { d.pmbOk with pwr := { d.pmbOk.pwr with measMv := v.toNat, lowVout := low } }
    if low ∧ ¬ d.pwr.lowVout then d'.event { code := 0xEB, d4 := 1, d5 := dwN d.pwr.status.toNat } else d'

/-! ## Power limit (R382) -/

/-- The top of the beat-rate cap at the present point: 1,000, or 1,250 at 0.82 V (R18). -/
def Dev.capTop (d : Dev) : Nat := if 820 ≤ d.pwr.setMv then 1250 else 1000

/-- The cap in force; 0 is the register before the governor has set one (DESIGN CHOICE, log 33). -/
def Dev.capNow (d : Dev) : Nat := if d.pwr.cap = 0 then d.capTop else Nat.min d.pwr.cap d.capTop

/-- The limit in mW: COMPUTE_W, and 40 W at most while HOT (R384). -/
def Dev.limitMw (d : Dev) : Nat :=
  let w := d.regF 0x1800C 7 0
  1000 * (if d.pwr.hot then Nat.min w 40 else w)

/-- The lowest cap: the floor rate while a plan is armed. -/
def Dev.capFloor (d : Dev) : Nat := if d.planArmed then 850 else 25

/-- Set the cap of all quires together; those that run follow it. -/
def Dev.setCap (d : Dev) (n : Nat) : Dev :=
  { d with pwr := { d.pwr with cap := n, rates := d.pwr.rates.map (fun r => if r = 0 then 0 else n) } }

/-- POWER_LIMIT_TICK (R382): each millisecond. -/
def powerLimitTick (c s i : DW) (d : Dev) : Dev :=
  let d := { d with pwr := { d.pwr with mw := #v[c, s, i] } }.setCap d.capNow
  let lim := d.limitMw
  if lim < c.toNat then
    let d := { d with pwr := { d.pwr with underMs := 0 } }
    if d.capFloor < d.pwr.cap then
      (d.setCap (Nat.max d.capFloor (d.pwr.cap - 25))).count cPwrThrottle
    else if d.pwr.limit then d
    else
      (({ d with pwr := { d.pwr with limit := true } }.count cPwrLimit).event { code := 0xEA, d4 := c, d5 := dwN lim })
  else
    let d := { d with pwr := { d.pwr with limit := false } }
    if c.toNat * 10 ≤ lim * 9 then
      let n := d.pwr.underMs + 1
      let d := { d with pwr := { d.pwr with underMs := n } }
      if 10 ≤ n then d.setCap (Nat.min d.capTop (d.pwr.cap + 25)) else d
    else { d with pwr := { d.pwr with underMs := 0 } }

/-! ## Current slew (R383) -/

/-- Ramps that have run for 1 µs end: the quire runs at its cap, or stands. -/
def Dev.rampsEnd (d : Dev) : Dev :=
  let fin := d.pwr.ramps.filter (fun r => decide (r.2.1 + 1000 ≤ d.now))
  let rates := fin.foldl (fun (v : Vector Nat 11) r => v.setIfInBounds r.1 (if r.2.2 then d.capNow else 0)) d.pwr.rates
  { d with pwr := { d.pwr with rates := rates, ramps := d.pwr.ramps.filter (fun r => !decide (r.2.1 + 1000 ≤ d.now)) } }

/-- Waiting ramps start while fewer than three run. -/
def Dev.rampsStart (d : Dev) : Dev :=
  let n := 3 - d.pwr.ramps.length
  { d with pwr := { d.pwr with ramps := d.pwr.ramps ++ (d.pwr.rampQ.take n).map (fun r => (r.1, d.now, r.2.2)), rampQ := d.pwr.rampQ.drop n } }

/-- What a tick does to the ramps. -/
def Dev.rampTick (d : Dev) : Dev := d.rampsEnd.rampsStart

/-- Requests in order of time, ties to the lower partition. -/
def rampLe (a b : Nat × Nat × Bool) : Bool := decide (a.2.1 < b.2.1 ∨ (a.2.1 = b.2.1 ∧ a.1 ≤ b.1))

/-- QUIRE_RAMP (R383): a quire wakes or idles: it takes one of three ramp slots, or waits for one in order of request, ties to the
lower partition, which is counted. An absent quire and a ramp asked for already have no effect. -/
def quireRamp (q : Nat) (up : Bool) (d : Dev) : Dev :=
  let d := d.rampTick
  if !partPresent d.board.variant q ∨ d.pwr.ramps.any (fun r => r.1 == q && r.2.2 == up) ∨ d.pwr.rampQ.any (fun r => r.1 == q && r.2.2 == up)
  then d
  else if d.pwr.ramps.length < 3 ∧ d.pwr.rampQ.isEmpty ∧ ¬ d.pwr.ramps.any (fun r => r.1 == q) then
    { d with pwr := { d.pwr with ramps := d.pwr.ramps ++ [(q, d.now, up)] } }
  else { d with pwr := { d.pwr with rampQ := insertBy rampLe (q, d.now, up) d.pwr.rampQ } }.count cPwrRampWait

/-! ## Temperature (R384, R385) -/

/-- Time, since a temperature was last above a bar, after which its state clears. -/
def coolSince (low : Option Nat) (now : Nat) (below : Bool) : Option Nat := if below then some (low.getD now) else none

/-- It has been below for 100 ms. -/
def coolDone (low : Option Nat) (now : Nat) : Bool := match low with
  | some t => decide (t + 100 * 10 ^ 6 ≤ now)
  | none => false

/-- Index of the hottest volume. -/
def hottest (t : Vector Int 3) (tj : Int) : Nat := ((List.range 3).find? (fun k => t.getD k 0 == tj)).getD 0

/-- The states WARN and HOT after a sample. -/
def Dev.tempStates (d : Dev) (tj : Int) : Dev :=
  let p := d.pwr
  let wc : Int := (16 : Nat) * (d.regF 0x18000 23 16 : Nat)
  let d5 := dwN (hottest p.temps tj)
  let wl := coolSince p.warnLow d.now (decide (tj ≤ wc - 48))
  let hl := coolSince p.hotLow d.now (decide (tj ≤ 115 * 16 - 48))
  let d := { d with pwr := { p with warnLow := wl, hotLow := hl } }
  let d := if wc ≤ tj ∧ ¬ p.warn then
      { d with pwr := { d.pwr with warn := true } }.event { code := 0xE8, d4 := dwN (tempBits tj), d5 := d5 }
    else if p.warn ∧ coolDone wl d.now then { d with pwr := { d.pwr with warn := false } } else d
  if 115 * 16 < tj ∧ ¬ p.hot then
    { d with pwr := { d.pwr with hot := true } }.event { code := 0xE9, d4 := dwN (tempBits tj + 2 ^ 16) }
  else if p.hot ∧ coolDone hl d.now then
    { d with pwr := { d.pwr with hot := false } }.event { code := 0xE9, d4 := dwN (tempBits tj) }
  else d

/-- TEMP_SAMPLE (R384, R385): at 125 °C or more every volume is reset, with THERMTRIP_N and FAULT_N. In reset the sensors are only
read: with PERST_N asserted below 110 °C THERMTRIP_N is released. -/
def tempSample (c s i : BitVec 16) (d : Dev) : Dev :=
  let t : Vector Int 3 := #v[c.toInt, s.toInt, i.toInt]
  let tj := max (max c.toInt s.toInt) i.toInt
  let alive := d.alive
  let d := { d with pwr := { d.pwr with temps := t, tjMax := max d.pwr.tjMax tj } }
  if !alive then (if d.pwr.perst then d.releasePins else d)
  else if 125 * 16 ≤ tj then
    (((d.wipe (fun p => { p with off := true })).pinsSafe).setFaultN true).setTherm true
  else if d.running then d.tempStates tj else d

/-! ## Trigger shorts (R387) -/

/-- PWR_TRIG_SHORT: reported once on entering the limit; LATCHED keeps a record. -/
def pwrTrigShort (n : Nat) (d : Dev) : Dev :=
  if d.pwr.short.contains n then d
  else
    let d := { d with pwr := { d.pwr with short := insertBy (fun a b => decide (a ≤ b)) n d.pwr.short } }
    (d.setOwn 0x18090 (d.own 0x18090 ||| dwN (2 ^ (16 + n)))).event { code := 0xEC, d4 := dwN n }

/-- TRIG_SHORT_CLEAR: the output leaves the limit. -/
def trigShortClear (n : Nat) (d : Dev) : Dev := { d with pwr := { d.pwr with short := d.pwr.short.filter (· != n) } }

end Sys2Proof.Machine
end

