-- ==== Sys2Proof/Machine/Channels.lean ====
section
/-! DEFINITION. The commands of the plough (chapter 06). -/

namespace Sys2Proof.Machine

/-- PLOUGH_SLOT (R154): A plough channel's 250 ns slot processes one sample through its stages and may write a record. -/
def execPloughSlot (k : Fin 32) (s : State) : Host.Outcome State Fault Refusal :=
  s.run (fun d => ploughSlot k.val d)

/-- PLG_SWAP (R159): PLG_SWAP checks and queues a coefficient and channel swap image. -/
def execPlgSwap (c : CtxId) (w : DescWords) (s : State) : Host.Outcome State Fault Refusal :=
  s.run (fun d => d.submit c.val (w.withOp 0x14))

/-- PLG_SWAP_LOAD (R159): After the previous swap completes the image is read into the inactive bank. -/
def execPlgSwapLoad (s : State) : Host.Outcome State Fault Refusal :=
  s.run (fun d => plgSwapLoad d)

/-- PLG_SWAP_IDLE_SWITCH (R160): Channels without input switch at SWAP_TIME + 10 ms. -/
def execPlgSwapIdleSwitch (s : State) : Host.Outcome State Fault Refusal :=
  s.run (fun d => plgSwapIdleSwitch d)

end Sys2Proof.Machine
end

