-- ==== Sys2Proof/Machine/Engines.lean ====
section
/-! DEFINITION. The commands of vision, tensor, fusion and press (chapters 07 to 10). -/

namespace Sys2Proof.Machine

/-- VIS_REMAP (R173): VIS_REMAP demosaics a frame and resamples it through a mesh into a rectified luma image. -/
def execVisRemap (c : CtxId) (w : DescWords) (s : State) : Host.Outcome State Fault Refusal :=
  s.run (fun d => d.submit c.val (w.withOp 0x20))

/-- VIS_SGM (R179): VIS_SGM computes a disparity image, and optionally confidence, for a stereo pair. -/
def execVisSgm (c : CtxId) (w : DescWords) (s : State) : Host.Outcome State Fault Refusal :=
  s.run (fun d => d.submit c.val (w.withOp 0x21))

/-- VIS_FEATURES (R190): VIS_FEATURES builds a pyramid, tracks previous features and detects new ones. -/
def execVisFeatures (c : CtxId) (w : DescWords) (s : State) : Host.Outcome State Fault Refusal :=
  s.run (fun d => d.submit c.val (w.withOp 0x22))

/-- TEN_LAYER (R205): TEN_LAYER executes one layer record on T-leaves at the applied shrink level. -/
def execTenLayer (c : CtxId) (w : DescWords) (s : State) : Host.Outcome State Fault Refusal :=
  s.run (fun d => d.submit c.val (w.withOp 0x30))

/-- TEN_STEP (R215): TEN_STEP applies an SGD or Adam update to master weights and writes a BF16 copy. -/
def execTenStep (c : CtxId) (w : DescWords) (s : State) : Host.Outcome State Fault Refusal :=
  s.run (fun d => d.submit c.val (w.withOp 0x31))

/-- FUS_PROPAGATE (R224): FUS_PROPAGATE integrates plough records into knots of the propagated trajectory. -/
def execFusPropagate (c : CtxId) (w : DescWords) (s : State) : Host.Outcome State Fault Refusal :=
  s.run (fun d => d.submit c.val (w.withOp 0x40))

/-- FUS_CLOUD (R228): FUS_CLOUD deskews a lidar window into a body-frame cloud, optionally voxel-downsampled. -/
def execFusCloud (c : CtxId) (w : DescWords) (s : State) : Host.Outcome State Fault Refusal :=
  s.run (fun d => d.submit c.val (w.withOp 0x41))

/-- FUS_PROJECT (R230): FUS_PROJECT projects a cloud into a camera, writing depth, SGM predictions and associations. -/
def execFusProject (c : CtxId) (w : DescWords) (s : State) : Host.Outcome State Fault Refusal :=
  s.run (fun d => d.submit c.val (w.withOp 0x42))

/-- FUS_FACTORS (R238): FUS_FACTORS turns observations into whitened factor records for the press. -/
def execFusFactors (c : CtxId) (w : DescWords) (s : State) : Host.Outcome State Fault Refusal :=
  s.run (fun d => d.submit c.val (w.withOp 0x43))

/-- FUS_GATE (R242): FUS_GATE tests sensor groups for consistency and admits the majority's factors. -/
def execFusGate (c : CtxId) (w : DescWords) (s : State) : Host.Outcome State Fault Refusal :=
  s.run (fun d => d.submit c.val (w.withOp 0x44))

/-- PRS_STRUCT (R248): PRS_STRUCT checks a structure description and builds a zeroed structure image. -/
def execPrsStruct (c : CtxId) (w : DescWords) (s : State) : Host.Outcome State Fault Refusal :=
  s.run (fun d => d.submit c.val (w.withOp 0x50))

/-- PRS_UPDATE (R251): PRS_UPDATE adds, subtracts or clears factor contributions in a structure image. -/
def execPrsUpdate (c : CtxId) (w : DescWords) (s : State) : Host.Outcome State Fault Refusal :=
  s.run (fun d => d.submit c.val (w.withOp 0x51))

/-- PRS_EXTRACT (R255): PRS_EXTRACT writes H and b blocks of listed variables as a block list. -/
def execPrsExtract (c : CtxId) (w : DescWords) (s : State) : Host.Outcome State Fault Refusal :=
  s.run (fun d => d.submit c.val (w.withOp 0x52))

/-- PRS_SOLVE (R259): PRS_SOLVE iterates GN, LM or PCG on an image and writes the updated variables and a report. -/
def execPrsSolve (c : CtxId) (w : DescWords) (s : State) : Host.Outcome State Fault Refusal :=
  s.run (fun d => d.submit c.val (w.withOp 0x53))

/-- PRS_DEADLINE_HIT (R259): The solve's DEADLINE is reached before a block step, cutting the solve with TIME_CUT. -/
def execPrsDeadlineHit (id : Nat) (iters : Nat) (within : Bool) (s : State) : Host.Outcome State Fault Refusal :=
  s.run (fun d => prsDeadlineHit id iters within d)

/-- PRS_KERNEL (R264): PRS_KERNEL runs a batch of dense CHOL, LDLT, QR, TRSM or SCHUR problems. -/
def execPrsKernel (c : CtxId) (w : DescWords) (s : State) : Host.Outcome State Fault Refusal :=
  s.run (fun d => d.submit c.val (w.withOp 0x54))

end Sys2Proof.Machine
end

