-- ==== Sys2Proof/Machine/Maps.lean ====
section
/-! DEFINITION. The commands of maps, ledger and search (chapter 11). -/

namespace Sys2Proof.Machine

/-- MAP_CREATE (R266): MAP_CREATE builds a map header and regions from a create block. -/
def execMapCreate (c : CtxId) (w : DescWords) (s : State) : Host.Outcome State Fault Refusal :=
  s.run (fun d => d.submit c.val (w.withOp 0x60))

/-- MAP_COMMIT (R270): MAP_COMMIT sets the committed epoch to the pending epoch. -/
def execMapCommit (c : CtxId) (w : DescWords) (s : State) : Host.Outcome State Fault Refusal :=
  s.run (fun d => d.submit c.val (w.withOp 0x61))

/-- MAP_COMPACT (R271): MAP_COMPACT raises the floor and reclaims ledger entries or index nodes deleted at or below it. -/
def execMapCompact (c : CtxId) (w : DescWords) (s : State) : Host.Outcome State Fault Refusal :=
  s.run (fun d => d.submit c.val (w.withOp 0x62))

/-- LDG_OPS (R277): LDG_OPS runs a batch of ledger lookups and mutations in record order. -/
def execLdgOps (c : CtxId) (w : DescWords) (s : State) : Host.Outcome State Fault Refusal :=
  s.run (fun d => d.submit c.val (w.withOp 0x63))

/-- LDG_SCAN (R282): LDG_SCAN writes every visible entry of a voxel box. -/
def execLdgScan (c : CtxId) (w : DescWords) (s : State) : Host.Outcome State Fault Refusal :=
  s.run (fun d => d.submit c.val (w.withOp 0x64))

/-- LDG_RULEBOOK (R283): LDG_RULEBOOK builds a sparse-convolution rulebook from map voxels. -/
def execLdgRulebook (c : CtxId) (w : DescWords) (s : State) : Host.Outcome State Fault Refusal :=
  s.run (fun d => d.submit c.val (w.withOp 0x65))

/-- LDG_FIELD_GATHER (R284): LDG_FIELD GATHER collects field vertex keys, indices, weights and features for a cloud. -/
def execLdgFieldGather (c : CtxId) (w : DescWords) (s : State) : Host.Outcome State Fault Refusal :=
  s.run (fun d => d.submit c.val ((w.withOp 0x66).withField 1 0))

/-- LDG_FIELD_SCATTER (R284): LDG_FIELD SCATTER upserts trained feature rows back into the map. -/
def execLdgFieldScatter (c : CtxId) (w : DescWords) (s : State) : Host.Outcome State Fault Refusal :=
  s.run (fun d => d.submit c.val ((w.withOp 0x66).withField 1 1))

/-- SRC_QUERY (R287): SRC_QUERY runs layered graph searches for a batch of query vectors. -/
def execSrcQuery (c : CtxId) (w : DescWords) (s : State) : Host.Outcome State Fault Refusal :=
  s.run (fun d => d.submit c.val (w.withOp 0x68))

/-- SRC_INSERT (R289): SRC_INSERT adds nodes to a search index in list order. -/
def execSrcInsert (c : CtxId) (w : DescWords) (s : State) : Host.Outcome State Fault Refusal :=
  s.run (fun d => d.submit c.val (w.withOp 0x69))

/-- SRC_DELETE (R290): SRC_DELETE marks listed nodes deleted at the pending epoch. -/
def execSrcDelete (c : CtxId) (w : DescWords) (s : State) : Host.Outcome State Fault Refusal :=
  s.run (fun d => d.submit c.val (w.withOp 0x6A))

/-- SRC_KNN (R291): SRC_KNN finds up to K neighbours of each query point in a voxel cloud. -/
def execSrcKnn (c : CtxId) (w : DescWords) (s : State) : Host.Outcome State Fault Refusal :=
  s.run (fun d => d.submit c.val (w.withOp 0x6B))

end Sys2Proof.Machine
end

