-- ==== Sys2Proof/Machine/Pair.lean ====
section
/-! DEFINITION. The commands of the mirrored pair (chapter 13). -/

namespace Sys2Proof.Machine

/-- MIR_TRACK (R315): MIR_TRACK adds or removes a tracked sheet of a plan slot. -/
def execMirTrack (c : CtxId) (w : DescWords) (s : State) : Host.Outcome State Fault Refusal :=
  s.run (fun d => d.submit c.val (w.withOp 0x78))

/-- MIR_RESYNC (R323): MIR_RESYNC starts a bulk resync of a mirrored slot by sending RESYNC. -/
def execMirResync (c : CtxId) (w : DescWords) (s : State) : Host.Outcome State Fault Refusal :=
  s.run (fun d => d.submit c.val (w.withOp 0x79))

/-- MIR_LINK (R324): A mirror port link goes up or down, starting ROLE exchange or moving its traffic. -/
def execMirLink (port : Fin 2) (up : Bool) (s : State) : Host.Outcome State Fault Refusal :=
  s.run (fun d => mirLink port.val up d)

/-- MIR_ROLE_RX (R309): A received ROLE message is checked and brings the pair up or holds the link with a down reason. -/
def execMirRoleRx (port : Fin 2) (msg : Bytes) (s : State) : Host.Outcome State Fault Refusal :=
  s.run (fun d => mirRoleRx port.val msg d)

/-- MIR_ROLE_RETRY (R309): A held link retries the ROLE exchange every 100 ms, reporting NO_ANSWER when none arrives. -/
def execMirRoleRetry (port : Fin 2) (s : State) : Host.Outcome State Fault Refusal :=
  s.run (fun d => mirRoleRetry port.val d)

/-- HEARTBEAT_TX (R324): Every 1 ms the device sends HEARTBEAT on every up mirror link. -/
def execHeartbeatTx (s : State) : Host.Outcome State Fault Refusal :=
  s.run (fun d => heartbeatTx d)

/-- HEARTBEAT_RX (R324): A received HEARTBEAT refreshes the partner's liveness. -/
def execHeartbeatRx (port : Fin 2) (msg : Bytes) (s : State) : Host.Outcome State Fault Refusal :=
  s.run (fun d => heartbeatRx port.val msg d)

/-- MIR_PEER_LOST (R324): No HEARTBEAT for LOSS_MS makes the device ALONE and raises MIR_PEER_LOST. -/
def execMirPeerLost (s : State) : Host.Outcome State Fault Refusal :=
  s.run (fun d => mirPeerLost d)

/-- MIR_PLAN_RX (R327): A received PLAN message records the partner's plan identity, pairing or unpairing the slot. -/
def execMirPlanRx (port : Fin 2) (msg : Bytes) (s : State) : Host.Outcome State Fault Refusal :=
  s.run (fun d => mirPlanRx port.val msg d)

/-- MIR_SCHED_RX (R304): A received SCHED supplies the partner's debt for the next firing, or is discarded if late or stale. -/
def execMirSchedRx (port : Fin 2) (msg : Bytes) (s : State) : Host.Outcome State Fault Refusal :=
  s.run (fun d => mirSchedRx port.val msg d)

/-- MIR_DIGEST_RX (R319): A received DIGEST is compared with the own digest; a mismatch raises MIR_DIVERGED and chooses an adopter. -/
def execMirDigestRx (port : Fin 2) (msg : Bytes) (s : State) : Host.Outcome State Fault Refusal :=
  s.run (fun d => mirDigestRx port.val msg d)

/-- MIR_DELTA_RX (R317): A received DELTA batch is stored for comparison and applied by an adopter. -/
def execMirDeltaRx (port : Fin 2) (msg : Bytes) (s : State) : Host.Outcome State Fault Refusal :=
  s.run (fun d => mirDeltaRx port.val msg d)

/-- MIR_FILL_RX (R320): FILL lines written into the staging window are applied by the adopter, completing repair or bulk progress. -/
def execMirFillRx (port : Fin 2) (imm : DW) (msg : Bytes) (s : State) : Host.Outcome State Fault Refusal :=
  s.run (fun d => mirFillRx port.val imm msg d)

/-- MIR_REPAIR_WAIT_EXPIRY (R320): A repair incomplete at its bound turns into a bulk resync and the next firing starts. -/
def execMirRepairWaitExpiry (slot : Fin 16) (s : State) : Host.Outcome State Fault Refusal :=
  s.run (fun d => mirRepairWaitExpiry slot.val d)

/-- MIR_BULK_BUDGET_END (R321): The source's per-period bulk read budget expires and the period's bulk lines are sent. -/
def execMirBulkBudgetEnd (slot : Fin 16) (lines : Nat) (s : State) : Host.Outcome State Fault Refusal :=
  s.run (fun d => mirBulkBudgetEnd slot.val lines d)

/-- MIR_RESYNC_RX (R323): A received RESYNC request starts the partner's part of a bulk resync without a descriptor. -/
def execMirResyncRx (port : Fin 2) (msg : Bytes) (s : State) : Host.Outcome State Fault Refusal :=
  s.run (fun d => mirResyncRx port.val msg d)

/-- MIR_SPLIT_RX (R326): A received SPLIT message makes the device enter or leave split mode. -/
def execMirSplitRx (port : Fin 2) (msg : Bytes) (s : State) : Host.Outcome State Fault Refusal :=
  s.run (fun d => mirSplitRx port.val msg d)

/-- MIR_UNIT_RX (R313): A forwarded unit fragment is checked and landed under the forwarded sensor ID after its last fragment. -/
def execMirUnitRx (port : Fin 2) (msg : Bytes) (s : State) : Host.Outcome State Fault Refusal :=
  s.run (fun d => mirUnitRx port.val msg d)

/-- MIR_PLOUGH_RX (R163): Forwarded plough records are written unchanged into the forwarded IMU log. -/
def execMirPloughRx (port : Fin 2) (msg : Bytes) (s : State) : Host.Outcome State Fault Refusal :=
  s.run (fun d => mirPloughRx port.val msg d)

/-- MIR_FOREIGN_PACKET (R312): A packet outside the configured partner and queue pairs, or malformed, is dropped and counted. -/
def execMirForeignPacket (port : Fin 2) (s : State) : Host.Outcome State Fault Refusal :=
  s.run (fun d => mirForeignPacket port.val d)

/-- MIR_QP_REESTABLISH (R310): A queue pair in error or with a SEQ gap is re-established on its link with SEQ from 0. -/
def execMirQpReestablish (port : Fin 2) (qp : Fin 4) (s : State) : Host.Outcome State Fault Refusal :=
  s.run (fun d => mirQpReestablish port.val qp.val d)

/-- MIR_CNP_RX (R310): A received CNP halves that queue pair's rate. -/
def execMirCnpRx (port : Fin 2) (qp : Fin 4) (s : State) : Host.Outcome State Fault Refusal :=
  s.run (fun d => mirCnpRx port.val qp.val d)

/-- MIR_RATE_RESTORE (R310): A 55 µs interval without CNP restores 5 % of line rate to a queue pair. -/
def execMirRateRestore (port : Fin 2) (qp : Fin 4) (s : State) : Host.Outcome State Fault Refusal :=
  s.run (fun d => mirRateRestore port.val qp.val d)

/-- MIR_SPLIT_ENTER (R326): A unit waiting for forwarding longer than SPLIT_MS enters split mode and sends SPLIT. -/
def execMirSplitEnter (s : State) : Host.Outcome State Fault Refusal :=
  s.run (fun d => mirSplitEnter d)

/-- MIR_SPLIT_LEAVE (R326): Queues below 1 ms of traffic for 1 s leave split mode and resume forwarding. -/
def execMirSplitLeave (s : State) : Host.Outcome State Fault Refusal :=
  s.run (fun d => mirSplitLeave d)

end Sys2Proof.Machine
end

