-- ==== Sys2Proof/Machine/Plans.lean ====
section
/-! DEFINITION. The commands of plans and periods (chapter 12). -/

namespace Sys2Proof.Machine

/-- SCH_ARM (R295): SCH_ARM checks a plan image and arms it in a plan slot. -/
def execSchArm (c : CtxId) (w : DescWords) (s : State) : Host.Outcome State Fault Refusal :=
  s.run (fun d => d.submit c.val (w.withOp 0x70))

/-- SCH_DISARM (R296): SCH_DISARM stops further firings of a plan and completes after its SCH_ARM completes. -/
def execSchDisarm (c : CtxId) (w : DescWords) (s : State) : Host.Outcome State Fault Refusal :=
  s.run (fun d => d.submit c.val (w.withOp 0x71))

/-- PERIOD_FIRING (R297): At S_k a plan computes the shrink level, checks every chosen slot and injects the firing's stages as one step. -/
def execPeriodFiring (slot : Fin 16) (s : State) : Host.Outcome State Fault Refusal :=
  s.run (fun d => periodFiring slot.val d)

/-- FIRING_COMPLETE (R302): The last stage of a firing completes; debt is updated, period records written and mirrored messages begun. -/
def execFiringComplete (slot : Fin 16) (s : State) : Host.Outcome State Fault Refusal :=
  s.run (fun d => firingComplete slot.val d)

/-- SCHED_WAIT_EXPIRY (R304): The partner's SCHED not arriving by the bound starts the firing on own debt with SYNC_MISSED and DIVERGED. -/
def execSchedWaitExpiry (slot : Fin 16) (s : State) : Host.Outcome State Fault Refusal :=
  s.run (fun d => schedWaitExpiry slot.val d)

/-- DIGEST_FINAL (R316): The canonical delta digest of a firing becomes final and DELTA, DIGEST and SCHED are sent. -/
def execDigestFinal (slot : Fin 16) (s : State) : Host.Outcome State Fault Refusal :=
  s.run (fun d => digestFinal slot.val d)

end Sys2Proof.Machine
end

