-- ==== Sys2Proof/Machine/Ports.lean ====
section
/-! DEFINITION. The commands of the sensor ports (chapter 04). -/

namespace Sys2Proof.Machine

/-- CSI_FRAME_START (R115): A CSI-2 Frame Start takes pool space for the frame or drops it whole. -/
def execCsiFrameStart (port : Fin 8) (vc : Fin 16) (frame : BitVec 16) (s : State) : Host.Outcome State Fault Refusal :=
  s.run (fun d => csiFrameStart port.val vc.val frame d)

/-- CSI_LINE_PACKET (R116): A CSI-2 long packet's data is written into the open frame or discarded with TRUNC or CRC_BAD. -/
def execCsiLinePacket (port : Fin 8) (vc : Fin 16) (dt : BitVec 6) (eccOk : Bool) (crcOk : Bool) (data : Bytes) (s : State) : Host.Outcome State Fault Refusal :=
  s.run (fun d => csiLinePacket port.val vc.val dt.toNat eccOk crcOk data d)

/-- CSI_FRAME_END (R112): A CSI-2 Frame End stamps and lands the frame with its arrival record and writer token. -/
def execCsiFrameEnd (port : Fin 8) (vc : Fin 16) (s : State) : Host.Outcome State Fault Refusal :=
  s.run (fun d => csiFrameEnd port.val vc.val d)

/-- ETH_FRAME_RX (R109): An Ethernet frame on a T1 port is filtered, parsed and landed, or dropped and counted. -/
def execEthFrameRx (port : Fin 6) (fcsOk : Bool) (bufferOk : Bool) (frame : Bytes) (s : State) : Host.Outcome State Fault Refusal :=
  s.run (fun d => ethFrameRx port.val fcsOk bufferOk frame d)

/-- CAN_FRAME_RX (R110): A CAN frame is acknowledged, filtered and landed, or discarded and counted. -/
def execCanFrameRx (n : Fin 4) (f : CanFrame) (s : State) : Host.Outcome State Fault Refusal :=
  s.run (fun d => canFrameRx n.val f d)

/-- SNS_CAN_BUS_OFF (R110): A CAN controller going bus-off recovers automatically and raises SNS_CAN_BUS_OFF. -/
def execSnsCanBusOff (n : Fin 4) (s : State) : Host.Outcome State Fault Refusal :=
  s.run (fun d => snsCanBusOff n.val d)

/-- SNS_LINK (R109): A CSI-2 or T1 sensor link goes up or down and raises SNS_LINK. -/
def execSnsLink (port : Fin 14) (up : Bool) (s : State) : Host.Outcome State Fault Refusal :=
  s.run (fun d => snsLink port.val up d)

/-- SPI_DRDY_EDGE (R111): An active SPIn_DRDY edge is stamped and starts an SPI transaction, or counts as an overrun. -/
def execSpiDrdyEdge (n : Fin 4) (rising : Bool) (s : State) : Host.Outcome State Fault Refusal :=
  s.run (fun d => spiDrdyEdge n.val rising d)

/-- SPI_TRANSACTION_DONE (R111): An SPI transaction ends; the sample is parsed, offered to the plough and a block lands when full. -/
def execSpiTransactionDone (n : Fin 4) (rx : Bytes) (s : State) : Host.Outcome State Fault Refusal :=
  s.run (fun d => spiTransactionDone n.val rx d)

/-- SELECTOR_CLOSE_TIME (R121): A selector reaching END + WAIT_US closes by time, fixing its match. -/
def execSelectorCloseTime (id : Nat) (job : Nat) (s : State) : Host.Outcome State Fault Refusal :=
  s.run (fun d => (selectorCloseTime id job d).settle)

/-- UNIT_RELEASE (R123): A landed unit past RETAIN_MS with all matching descriptors completed is released. -/
def execUnitRelease (u : Nat) (s : State) : Host.Outcome State Fault Refusal :=
  s.run (fun d => unitRelease u d)

/-- CAN_BUS_OFF_RECOVERY (R110): A bus-off CAN controller completes ISO 11898-1 recovery on the bus and returns to error active. -/
def execCanBusOffRecovery (n : Fin 4) (s : State) : Host.Outcome State Fault Refusal :=
  s.run (fun d => canBusOffRecovery n.val d)

end Sys2Proof.Machine
end

