-- ==== Sys2Proof/Machine/Recovery.lean ====
section
/-! DEFINITION. The commands of integrity, hangs and recovery (chapter 14). -/

namespace Sys2Proof.Machine

/-- CRC_CHECK (R338): CRC_CHECK computes or checks a CRC over a sheet range on a pool CRC unit. -/
def execCrcCheck (c : CtxId) (w : DescWords) (s : State) : Host.Outcome State Fault Refusal :=
  s.run (fun d => d.submit c.val (w.withOp 0x7C))

/-- DESCRIPTOR_TIMEOUT (R340): A descriptor's timeout expires; it fails, resets its mover, or starts an incident. -/
def execDescriptorTimeout (id : Nat) (s : State) : Host.Outcome State Fault Refusal :=
  s.run (fun d => descriptorTimeout id d)

/-- MOVER_RESET_HANG (R340): A mover reset unfinished after 100 µs takes the mover out of service and redistributes its work. -/
def execMoverResetHang (m : Fin 8) (s : State) : Host.Outcome State Fault Refusal :=
  s.run (fun d => moverResetHang m.val d)

/-- INCIDENT_DRAIN_END (R342): At the end of the 1 ms drain the unfinished descriptors become held and the partition is sampled. -/
def execIncidentDrainEnd (p : Fin 11) (s : State) : Host.Outcome State Fault Refusal :=
  s.run (fun d => incidentDrainEnd p.val d)

/-- PARTITION_RESET_DONE (R344): A partition and channel-group reset finishes, losing private sheets and counting toward out-of-service. -/
def execPartitionResetDone (p : Fin 11) (s : State) : Host.Outcome State Fault Refusal :=
  s.run (fun d => partitionResetDone p.val d)

/-- REPLAY_START (R345): After the reset the next held descriptor is replayed alone on the incident partitions. -/
def execReplayStart (s : State) : Host.Outcome State Fault Refusal :=
  s.run (fun d => replayStart d)

/-- REPLAY_TIMEOUT (R346): A replay's timeout expires, proving its context guilty and tearing it down after a further reset. -/
def execReplayTimeout (s : State) : Host.Outcome State Fault Refusal :=
  s.run (fun d => replayTimeout d)

/-- PARTITION_RESET_HANG (R349): A partition reset unfinished after 2 ms escalates to a compute-volume reset. -/
def execPartitionResetHang (p : Fin 11) (s : State) : Host.Outcome State Fault Refusal :=
  s.run (fun d => partitionResetHang p.val d)

/-- VOLUME_RESET_HANG (R349): A volume reset unfinished after 20 ms takes the device out of service. -/
def execVolumeResetHang (s : State) : Host.Outcome State Fault Refusal :=
  s.run (fun d => volumeResetHang d)

/-- SEQUENCER_WATCHDOG (R352): A quire sequencer silent for 1 ms starts an incident without drain, sampled by the binder. -/
def execSequencerWatchdog (p : Fin 11) (s : State) : Host.Outcome State Fault Refusal :=
  s.run (fun d => sequencerWatchdog p.val d)

/-- FLT_RESTORE (R351): FLT_RESTORE resets an out-of-service partition and returns it to service. -/
def execFltRestore (c : CtxId) (w : DescWords) (s : State) : Host.Outcome State Fault Refusal :=
  s.run (fun d => d.submit c.val (w.withOp 0x7D))

/-- SCRUB_PATROL (R336): The patrol scrubber reads the next word of a tier and rewrites corrected, poisoned or zeroed data. -/
def execScrubPatrol (tier : Fin 3) (s : State) : Host.Outcome State Fault Refusal :=
  s.run (fun d => scrubPatrol tier.val d)

/-- SCRUB_HINT (R336): A line queued after a consumer correction is scrubbed ahead of the patrol. -/
def execScrubHint (s : State) : Host.Outcome State Fault Refusal :=
  s.run (fun d => scrubHint d)

/-- VOLUME_RESET_DONE (R349): A compute-volume reset finishes within 20 ms and the quires and CG0–CG10 return to service. -/
def execVolumeResetDone (s : State) : Host.Outcome State Fault Refusal :=
  s.run (fun d => volumeResetDone d)

/-- MOVER_RESET_DONE (R340): A mover reset alone after a timeout finishes within 100 µs and the mover resumes its queued work. -/
def execMoverResetDone (m : Fin 8) (s : State) : Host.Outcome State Fault Refusal :=
  s.run (fun d => moverResetDone m.val d)

/-- PARTITION_SAMPLE_DONE (R343): The quire sequencers finish writing the sample and the partition goes from fenced into reset. -/
def execPartitionSampleDone (p : Fin 11) (s : State) : Host.Outcome State Fault Refusal :=
  s.run (fun d => partitionSampleDone p.val d)

end Sys2Proof.Machine
end

