-- ==== Sys2Proof/Machine/Rings.lean ====
section
/-! DEFINITION. The commands of rings, contexts, records and interrupts (chapter 03). -/

namespace Sys2Proof.Machine

/-- SQ_TAIL_WRITE (R82): Host writes a submission ring tail count in a doorbell page; the device accepts it or ignores and counts it. -/
def execSqTailWrite (func : Func) (c : CtxId) (ring : Fin 4) (value : DW) (s : State) : Host.Outcome State Fault Refusal :=
  s.run (fun d => sqTailWrite func.val c.val ring.val value d)

/-- CQ_HEAD_WRITE (R82): Host advances the completion ring head, freeing room for records and further fetches. -/
def execCqHeadWrite (func : Func) (c : CtxId) (value : DW) (s : State) : Host.Outcome State Fault Refusal :=
  s.run (fun d => cqHeadWrite func.val c.val value d)

/-- EQ_HEAD_WRITE (R82): Host advances the event ring head, freeing room for event records. -/
def execEqHeadWrite (func : Func) (c : CtxId) (value : DW) (s : State) : Host.Outcome State Fault Refusal :=
  s.run (fun d => eqHeadWrite func.val c.val value d)

/-- BAR_ACCESS_INVALID (R77): A misaligned or wrongly sized BAR access, or a VF write to an unassigned context page, reads zero, is ignored and counted. -/
def execBarAccessInvalid (func : Func) (page : Bool) (offset : BitVec 20) (size : Nat) (write : Bool) (s : State) : Host.Outcome State Fault Refusal :=
  s.run (fun d => barAccessInvalid func.val page offset.toNat size write d)

/-- DESCRIPTOR_FETCH (R83): The device fetches posted descriptors while the completion ring has room, checks them at fetch and accepts them in ring, chain and context order. -/
def execDescriptorFetch (s : State) : Host.Outcome State Fault Refusal :=
  s.run (fun d => descriptorFetch d)

/-- FENCE_BEFORE_RELEASE (R86): A descriptor with FENCE_BEFORE is accepted once every earlier descriptor of its context has completed. -/
def execFenceBeforeRelease (c : CtxId) (ring : Fin 4) (s : State) : Host.Outcome State Fault Refusal :=
  s.run (fun d => fenceBeforeRelease c.val ring.val d)

/-- TOKEN_GRANT (R54): A queued read or write request on a sheet is granted once its matched write or earlier readers allow it. -/
def execTokenGrant (sheet : BitVec 22) (s : State) : Host.Outcome State Fault Refusal :=
  s.run (fun d => tokenGrantAll (shIdx (sheet.zeroExtend 32)) d)

/-- RIBBON_ROW_GRANT (R58): A ribbon reader is granted a row, or a ribbon writer may write a slot, once the row token or releases allow it. -/
def execRibbonRowGrant (sheet : BitVec 22) (id : Nat) (s : State) : Host.Outcome State Fault Refusal :=
  s.run (fun d => ribbonRowGrant (shIdx (sheet.zeroExtend 32)) id d)

/-- PART_DISPATCH (R36): A gathering cuts an accepted descriptor over its in-service members and a leaf takes its next part by class and acceptance order. -/
def execPartDispatch (id : Nat) (s : State) : Host.Outcome State Fault Refusal :=
  s.run (fun d => partDispatch id d)

/-- PART_FINISH (R33): A leaf finishes a part, returns its result or partials and takes its next waiting part. -/
def execPartFinish (leaf : BitVec 12) (crcXor : DW) (s : State) : Host.Outcome State Fault Refusal :=
  s.run (fun d => partFinish leaf.toNat crcXor d)

/-- DESCRIPTOR_COMPLETE (R41): All parts of a descriptor have finished; results are merged, tokens set or voided, readers released and one completion record written. -/
def execDescriptorComplete (id : Nat) (s : State) : Host.Outcome State Fault Refusal :=
  s.run (fun d => descriptorComplete id d)

/-- IRQ_COALESCE_EXPIRY (R95): At the end of a coalescing window the device sends one MSI-X message for all records of that vector. -/
def execIrqCoalesceExpiry (func : Func) (vec : Fin 64) (s : State) : Host.Outcome State Fault Refusal :=
  s.run (fun d => irqCoalesceExpiry func.val vec.val d)

/-- RING_DMA_FAULT (R79): A ring or period-record access fails with a PCIe error; the context is torn down or the plan disarmed and HST_DMA_FAULT raised. -/
def execRingDmaFault (c : CtxId) (target : DmaTarget) (addr : QW) (s : State) : Host.Outcome State Fault Refusal :=
  s.run (fun d => (ringDmaFault c.val target addr d).settle)

/-- NOP (R89): NOP completes DONE with no effect from any context. -/
def execNop (c : CtxId) (w : DescWords) (s : State) : Host.Outcome State Fault Refusal :=
  s.run (fun d => d.submit c.val (w.withOp 0x00))

/-- CTX_OPEN (R81): CTX_OPEN opens a CLOSED context, resetting its ring counts and phases. -/
def execCtxOpen (c : CtxId) (w : DescWords) (s : State) : Host.Outcome State Fault Refusal :=
  s.run (fun d => d.submit c.val (w.withOp 0x03))

/-- CTX_TEARDOWN (R103): CTX_TEARDOWN makes a context TEARING, stops fetching and firings, and aborts its undispatched descriptors. -/
def execCtxTeardown (c : CtxId) (w : DescWords) (s : State) : Host.Outcome State Fault Refusal :=
  s.run (fun d => d.submit c.val (w.withOp 0x04))

/-- TEARDOWN_FINISH (R103): Once dispatched descriptors of a tearing context have ended, host accesses drain, its gatherings, sheets, copies and plans are released and it becomes CLOSED. -/
def execTeardownFinish (c : CtxId) (s : State) : Host.Outcome State Fault Refusal :=
  s.run (fun d => (d.tearFinish c.val).settle)

/-- HST_CTX_OPEN_REG (R80): Writing HST_CTX_CTL.OPEN before the lock opens a CLOSED context. -/
def execHstCtxOpenReg (c : CtxId) (s : State) : Host.Outcome State Fault Refusal :=
  s.run (fun d => (hstCtxOpenReg c.val d).settle)

/-- HST_CTX_TEARDOWN_REG (R104): Writing HST_CTX_CTL.TEARDOWN before the lock starts a teardown that writes no completion. -/
def execHstCtxTeardownReg (c : CtxId) (s : State) : Host.Outcome State Fault Refusal :=
  s.run (fun d => (hstCtxTeardownReg c.val d).settle)

/-- FUNCTION_LEVEL_RESET (R105): An FLR of a VF or PF0 tears down the contexts of that function without further requests to it. -/
def execFunctionLevelReset (func : Func) (s : State) : Host.Outcome State Fault Refusal :=
  s.run (fun d => (functionLevelReset func.val d).settle)

/-- AUTO_OPEN (R106): After a PF0 reset each AUTO_OPEN context reopens once its teardown has retired or the reset's PCIe part has completed. -/
def execAutoOpen (c : CtxId) (s : State) : Host.Outcome State Fault Refusal :=
  s.run (fun d => (autoOpen c.val d).settle)

/-- PCIE_CONFIG_WRITE (R80): A configuration write changes NumVFs, VF Enable or Bus Master Enable, which decides whether a function's contexts may open. -/
def execPcieConfigWrite (func : Func) (numVfs : Nat) (vfEnable : Bool) (busMaster : Bool) (s : State) : Host.Outcome State Fault Refusal :=
  s.runAlive (fun d => if d.sec.rrs then d else pcieConfigWrite func.val numVfs vfEnable busMaster d)

/-- MSIX_VECTOR_UNMASK (R95): Host unmasking of an MSI-X vector with its pending bit set sends the pending message. -/
def execMsixVectorUnmask (func : Func) (vec : Fin 64) (s : State) : Host.Outcome State Fault Refusal :=
  s.run (fun d => msixVectorUnmask func.val vec.val d)

end Sys2Proof.Machine
end

