-- ==== Sys2Proof/Machine/Spine.lean ====
section
/-! DEFINITION. The commands of sheets, copies and movers (chapter 02). -/

namespace Sys2Proof.Machine

/-- SHEET_ALLOC (R52): SHEET_ALLOC allocates the lowest free sheet index for a named context and charges its quota. -/
def execSheetAlloc (c : CtxId) (w : DescWords) (s : State) : Host.Outcome State Fault Refusal :=
  s.run (fun d => d.submit c.val (w.withOp 0x08))

/-- SHEET_FREE (R53): SHEET_FREE makes a sheet handle stale at acceptance. -/
def execSheetFree (c : CtxId) (w : DescWords) (s : State) : Host.Outcome State Fault Refusal :=
  s.run (fun d => d.submit c.val (w.withOp 0x09))

/-- SHEET_FREE_COMPLETE (R53): The free completes and space and charge return once every earlier descriptor naming the sheet has completed. -/
def execSheetFreeComplete (id : Nat) (s : State) : Host.Outcome State Fault Refusal :=
  s.run (fun d => (sheetFreeComplete id d).settle)

/-- SHEET_PIN (R69): SHEET_PIN sets or clears a context's pin on an existing copy. -/
def execSheetPin (c : CtxId) (w : DescWords) (s : State) : Host.Outcome State Fault Refusal :=
  s.run (fun d => d.submit c.val (w.withOp 0x0A))

/-- EVICT (R67): EVICT drops a context's ownership or reference of a copy, moving its charge or making it DRAINING. -/
def execEvict (c : CtxId) (w : DescWords) (s : State) : Host.Outcome State Fault Refusal :=
  s.run (fun d => d.submit c.val (w.withOp 0x0C))

/-- MOVE (R61): MOVE copies between sheets or promotes a home sheet to a copy on a mover. -/
def execMove (c : CtxId) (w : DescWords) (s : State) : Host.Outcome State Fault Refusal :=
  s.run (fun d => d.submit c.val (w.withOp 0x0B))

/-- MOVER_SEGMENT_DONE (R61): A mover finishes a 64 KiB segment and takes the next segment by class and acceptance order. -/
def execMoverSegmentDone (m : Fin 8) (s : State) : Host.Outcome State Fault Refusal :=
  s.run (fun d => (moverSegmentDone m.val d).settle)

/-- COPY_PRESENT (R68): A promotion finishes, the copy becomes PRESENT, waiting reads are granted and pending evictions of it proceed. -/
def execCopyPresent (copy : Nat) (s : State) : Host.Outcome State Fault Refusal :=
  s.run (fun d => (copyPresent copy d).settle)

/-- PROMOTION_SPACE_RETURNED (R66): A promotion waiting for DRAINING space proceeds once enough space has returned. -/
def execPromotionSpaceReturned (copy : Nat) (s : State) : Host.Outcome State Fault Refusal :=
  s.run (fun d => (promotionSpaceReturned copy d).settle)

end Sys2Proof.Machine
end

