-- ==== Sys2Proof/Machine/Supply.lean ====
section
/-! DEFINITION. The commands of reset, power and temperature (chapter 16). -/

namespace Sys2Proof.Machine

/-- PERST_ASSERT (R378): PERST_N assertion holds every volume in reset with outputs at their safe levels. -/
def execPerstAssert (s : State) : Host.Outcome State Fault Refusal :=
  s.runRaw (fun d => perstAssert d)

/-- PERST_DEASSERT (R356): PERST_N deassertion samples MIRROR_ROLE and runs the boot sequence to firmware or recovery. -/
def execPerstDeassert (mirrorRole : Bool) (s : State) : Host.Outcome State Fault Refusal :=
  s.runRaw (fun d => perstDeassert mirrorRole d)

/-- RECOVERY_RRS_END (R357): In recovery, Request Retry Status ends at t0 + 1 s exposing only COLOPHON and SEC. -/
def execRecoveryRrsEnd (s : State) : Host.Outcome State Fault Refusal :=
  s.runAlive (fun d => recoveryRrsEnd d)

/-- RAIL_OUT_OF_RANGE (R376): A rail leaving its guarded range resets the whole device and asserts FAULT_N. -/
def execRailOutOfRange (rail : Fin 9) (mv : Nat) (s : State) : Host.Outcome State Fault Refusal :=
  if railMax rail.val < mv then .fault .overstress else s.runRaw (fun d => railOutOfRange rail.val mv d)

/-- RAIL_RECOVERED (R376): FAULT_N is released once every rail has been in range for 1 ms. -/
def execRailRecovered (s : State) : Host.Outcome State Fault Refusal :=
  s.runRaw (fun d => railRecovered d)

/-- PMB_ALERT (R380): PMB_ALERT_N assertion makes the device read the regulator's STATUS_WORD. -/
def execPmbAlert (reply : Option (BitVec 16)) (s : State) : Host.Outcome State Fault Refusal :=
  s.run (fun d => pmbAlert reply d)

/-- PMB_VOUT_POLL (R380): Every 1 ms the device reads READ_VOUT, retrying failures and raising PWR_PMBUS_FAULT. -/
def execPmbVoutPoll (reply : Option (BitVec 16)) (s : State) : Host.Outcome State Fault Refusal :=
  s.run (fun d => pmbVoutPoll reply d)

/-- GOVERNOR_STEP (R381): The governor writes the next VDD_C step once the previous settles or 50 µs pass, releasing a waiting SCH_ARM at 0.72 V. -/
def execGovernorStep (reply : Bool) (s : State) : Host.Outcome State Fault Refusal :=
  s.run (fun d => governorStep reply d)

/-- POWER_LIMIT_TICK (R382): Each millisecond the mean compute power lowers or raises the quire beat-rate caps. -/
def execPowerLimitTick (computeMw : DW) (spineMw : DW) (ioMw : DW) (s : State) : Host.Outcome State Fault Refusal :=
  s.run (fun d => powerLimitTick computeMw spineMw ioMw d)

/-- QUIRE_RAMP (R383): A quire waking or idling takes a ramp slot and ramps its beat rate over 1 µs. -/
def execQuireRamp (p : Fin 11) (up : Bool) (s : State) : Host.Outcome State Fault Refusal :=
  s.run (fun d => quireRamp p.val up d)

/-- TEMP_SAMPLE (R384): Every 100 µs the hottest sensor of each volume is reported and warning or hot states change. -/
def execTempSample (compute : BitVec 16) (spine : BitVec 16) (io : BitVec 16) (s : State) : Host.Outcome State Fault Refusal :=
  s.runRaw (fun d => tempSample compute spine io d)

/-- PWR_TRIG_SHORT (R387): A trigger output held in current limit over 100 µs sets its SHORT bit and raises PWR_TRIG_SHORT. -/
def execPwrTrigShort (out : Fin 9) (s : State) : Host.Outcome State Fault Refusal :=
  s.run (fun d => pwrTrigShort out.val d)

/-- TRIG_SHORT_CLEAR (R387): A trigger output leaving current limit clears its SHORT bit. -/
def execTrigShortClear (out : Fin 9) (s : State) : Host.Outcome State Fault Refusal :=
  s.run (fun d => trigShortClear out.val d)

end Sys2Proof.Machine
end

