-- ==== Sys2Proof/Machine/Timebase.lean ====
section
/-! DEFINITION. The commands of the timebase (chapter 05). -/

namespace Sys2Proof.Machine

/-- TB_TRIGGER (R141): TB_TRIGGER checks and queues a new schedule for a trigger output. -/
def execTbTrigger (c : CtxId) (w : DescWords) (s : State) : Host.Outcome State Fault Refusal :=
  s.run (fun d => d.submit c.val (w.withOp 0x10))

/-- TRIG_INSTALL (R143): A queued trigger schedule is installed at least 2 µs after acceptance, after any running pulse ends. -/
def execTrigInstall (out : Fin 9) (s : State) : Host.Outcome State Fault Refusal :=
  s.run (fun d => trigInstall out.val d)

/-- TRIG_EDGE (R142): A scheduled leading or trailing edge of a trigger output falls due and is driven. -/
def execTrigEdge (out : Fin 9) (s : State) : Host.Outcome State Fault Refusal :=
  s.run (fun d => trigEdge out.val d)

/-- TB_STEP (R133): TB_STEP steps device time forward before lock, at once or at the next PPS edge. -/
def execTbStep (c : CtxId) (w : DescWords) (s : State) : Host.Outcome State Fault Refusal :=
  s.run (fun d => d.submit c.val (w.withOp 0x11))

/-- TB_STEP_PPS_TIMEOUT (R133): An AT_PPS step with no PPS edge within 2 s completes with FAILED_TIMEOUT. -/
def execTbStepPpsTimeout (s : State) : Host.Outcome State Fault Refusal :=
  s.run (fun d => tbStepPpsTimeout d)

/-- PTP_MESSAGE_RX (R135): A PTP frame received on a T1 or mirror port is processed by the port state machine and servo. -/
def execPtpMessageRx (port : Fin 8) (m : PtpMsg) (s : State) : Host.Outcome State Fault Refusal :=
  s.run (fun d => ptpMessageRx port.val m d)

/-- HOLDOVER_ENTRY (R132): Missing Sync or PPS for the set interval enters holdover with RATE = FREQ. -/
def execHoldoverEntry (s : State) : Host.Outcome State Fault Refusal :=
  s.run (fun d => holdoverEntry d)

/-- PTP_MESSAGE_TX (R138): A PTP event message falls due on a port and is sent, its stamp entering the transmit queue. -/
def execPtpMessageTx (port : Fin 8) (k : PtpTxKind) (s : State) : Host.Outcome State Fault Refusal :=
  s.run (fun d => ptpMessageTx port.val k d)

/-- CAP_EDGE (R139): An edge on CAP0–CAP7 or PPS_IN is stamped, counted and may raise TB_CAPTURE or feed the PPS servo. -/
def execCapEdge (pin : Fin 9) (rising : Bool) (s : State) : Host.Outcome State Fault Refusal :=
  s.run (fun d => capEdge pin.val rising d)

/-- PTP_ANNOUNCE_TIMEOUT (R136): An Announce receipt timeout on a BMCA-governed PTP port changes its port state and raises TB_PTP_PORT. -/
def execPtpAnnounceTimeout (port : Fin 8) (s : State) : Host.Outcome State Fault Refusal :=
  s.run (fun d => ptpAnnounceTimeout port.val d)

end Sys2Proof.Machine
end

