-- ==== Sys2Proof/Machine/Trust.lean ====
section
/-! DEFINITION. The commands of security, service port and debug (chapter 15). -/

namespace Sys2Proof.Machine

/-- SEC_INSTALL_STAGE_FW (R362): SEC_INSTALL STAGE_FW checks a firmware image and writes it to the non-running slot. -/
def execSecInstallStageFw (c : CtxId) (w : DescWords) (s : State) : Host.Outcome State Fault Refusal :=
  s.run (fun d => d.submit c.val ((w.withOp 0x7F).withField 3 0))

/-- FIRMWARE_STAGE_DONE (R362): A staged slot is written and read back with the same measurement, raising SEC_STAGED. -/
def execFirmwareStageDone (s : State) : Host.Outcome State Fault Refusal :=
  s.runAlive (fun d => firmwareStageDone d)

/-- SEC_INSTALL_ACTIVATE (R363): ACTIVATE makes a slot holding a valid image the preferred slot. -/
def execSecInstallActivate (c : CtxId) (w : DescWords) (s : State) : Host.Outcome State Fault Refusal :=
  s.run (fun d => d.submit c.val ((w.withOp 0x7F).withField 3 1))

/-- SEC_INSTALL_COMMIT_SVN (R363): COMMIT_SVN raises the rollback counter to the running image's SVN. -/
def execSecInstallCommitSvn (c : CtxId) (w : DescWords) (s : State) : Host.Outcome State Fault Refusal :=
  s.run (fun d => d.submit c.val ((w.withOp 0x7F).withField 3 2))

/-- SEC_INSTALL_OWNER_RECORD (R360): OWNER_RECORD checks and installs an owner configuration record, possibly transferring ownership. -/
def execSecInstallOwnerRecord (c : CtxId) (w : DescWords) (s : State) : Host.Outcome State Fault Refusal :=
  s.run (fun d => d.submit c.val ((w.withOp 0x7F).withField 3 3))

/-- SEC_QUOTE (R367): SEC_QUOTE writes a signed attestation quote of the measured log chain. -/
def execSecQuote (c : CtxId) (w : DescWords) (s : State) : Host.Outcome State Fault Refusal :=
  s.run (fun d => d.submit c.val (w.withOp 0x7A))

/-- SEC_MAP_LOAD (R369): SEC_MAP_LOAD verifies a map archive and loads it as a live map. -/
def execSecMapLoad (c : CtxId) (w : DescWords) (s : State) : Host.Outcome State Fault Refusal :=
  s.run (fun d => d.submit c.val (w.withOp 0x7E))

/-- SEC_MAP_EXPORT (R370): SEC_MAP_EXPORT writes a committed map as an unsigned archive, optionally rebased. -/
def execSecMapExport (c : CtxId) (w : DescWords) (s : State) : Host.Outcome State Fault Refusal :=
  s.run (fun d => d.submit c.val (w.withOp 0x7B))

/-- SVC_INFO (R98): Service INFO returns COLOPHON and the firmware measurement. -/
def execSvcInfo (k : SvcCmd) (s : State) : Host.Outcome State Fault Refusal :=
  s.runAlive (fun d => svcInfo k d)

/-- SVC_READ_REG (R98): Service READ_REG returns BAR0 register contents without side effects. -/
def execSvcReadReg (k : SvcCmd) (s : State) : Host.Outcome State Fault Refusal :=
  s.runAlive (fun d => svcReadReg k d)

/-- SVC_DUMP_SHEET (R99): Service DUMP_SHEET streams a permitted sheet's content without a reader token. -/
def execSvcDumpSheet (k : SvcCmd) (s : State) : Host.Outcome State Fault Refusal :=
  s.runAlive (fun d => svcDumpSheet k d)

/-- SVC_STAGE_FIRMWARE (R362): Service STAGE_FIRMWARE stages a signed firmware image into the non-running slot. -/
def execSvcStageFirmware (k : SvcCmd) (s : State) : Host.Outcome State Fault Refusal :=
  s.runAlive (fun d => svcStageFirmware k d)

/-- SVC_STAGE_MAP (R371): Service STAGE_MAP writes and checks a map archive in the staging sheet. -/
def execSvcStageMap (k : SvcCmd) (s : State) : Host.Outcome State Fault Refusal :=
  s.runAlive (fun d => svcStageMap k d)

/-- SVC_UNLOCK_CHALLENGE (R372): Service UNLOCK_CHALLENGE returns a fresh debug challenge. -/
def execSvcUnlockChallenge (k : SvcCmd) (s : State) : Host.Outcome State Fault Refusal :=
  s.runAlive (fun d => svcUnlockChallenge k d)

/-- SVC_UNLOCK_RESPONSE (R373): Service UNLOCK_RESPONSE verifies a signed response and sets DEBUG_UNLOCKED on success. -/
def execSvcUnlockResponse (k : SvcCmd) (s : State) : Host.Outcome State Fault Refusal :=
  s.runAlive (fun d => svcUnlockResponse k d)

/-- SVC_UNDEFINED_OP (R98): A service command with an undefined SVC_OP or bad field is refused with REFUSED_MALFORMED. -/
def execSvcUndefinedOp (op : Byte) (k : SvcCmd) (s : State) : Host.Outcome State Fault Refusal :=
  s.runAlive (fun d => svcUndefinedOp op k d)

/-- UNLOCK_CHALLENGE_LAPSE (R372): An unanswered debug challenge lapses after 60 s. -/
def execUnlockChallengeLapse (s : State) : Host.Outcome State Fault Refusal :=
  s.runAlive (fun d => unlockChallengeLapse d)

/-- UNLOCK_LOCKOUT_END (R372): One second after a failed unlock, UNLOCK_CHALLENGE is accepted again. -/
def execUnlockLockoutEnd (s : State) : Host.Outcome State Fault Refusal :=
  s.runAlive (fun d => unlockLockoutEnd d)

/-- TEST_DEBUG_ACCESS (R373): An internal-debug access on the TEST port is performed when unlocked, setting TAMPERED on a write, or refused and counted. -/
def execTestDebugAccess (write : Bool) (_addr : QW) (_value : QW) (s : State) : Host.Outcome State Fault Refusal :=
  s.runAlive (fun d => testDebugAccess write d)

/-- SVC_LINK_CHANGE (R98): A USB host configures or deconfigures the service port, setting or clearing HST_STATUS.SVC_LINK. -/
def execSvcLinkChange (up : Bool) (s : State) : Host.Outcome State Fault Refusal :=
  s.runAlive (fun d => svcLinkChange up d)

end Sys2Proof.Machine
end

