-- ==== Sys2Proof/Machine/Units.lean ====
section
/-! DEFINITION. The commands of gatherings and units (chapters 01 and 03). -/

namespace Sys2Proof.Machine

/-- BIND (R31): BIND checks and binds a gathering slot, advancing its generation at acceptance and returning the new handle. -/
def execBind (c : CtxId) (w : DescWords) (s : State) : Host.Outcome State Fault Refusal :=
  s.run (fun d => d.submit c.val (w.withOp 0x01))

/-- UNBIND (R34): UNBIND frees a gathering slot, advancing its generation at acceptance. -/
def execUnbind (c : CtxId) (w : DescWords) (s : State) : Host.Outcome State Fault Refusal :=
  s.run (fun d => d.submit c.val (w.withOp 0x02))

/-- GATHERING_REBIND_COMPLETE (R34): The completion of a BIND or UNBIND is written once every descriptor accepted under the old generation has completed. -/
def execGatheringRebindComplete (id : Nat) (s : State) : Host.Outcome State Fault Refusal :=
  s.run (fun d => gatheringRebindComplete id d)

/-- UNIT_DISABLE (R101): UNIT_DISABLE takes a unit out of service and lets the affected descriptors drain for up to 1 ms. -/
def execUnitDisable (c : CtxId) (w : DescWords) (s : State) : Host.Outcome State Fault Refusal :=
  s.run (fun d => d.submit c.val (w.withOp 0x05))

/-- UNIT_DISABLE_DRAIN_EXPIRY (R101): At the end of the 1 ms drain the unfinished descriptors complete with ABORTED_FENCE and the disable completes. -/
def execUnitDisableDrainExpiry (id : Nat) (s : State) : Host.Outcome State Fault Refusal :=
  s.run (fun d => unitDisableDrainExpiry id d)

/-- UNIT_ENABLE (R102): UNIT_ENABLE returns a target to service unless its partition is out of service. -/
def execUnitEnable (c : CtxId) (w : DescWords) (s : State) : Host.Outcome State Fault Refusal :=
  s.run (fun d => d.submit c.val (w.withOp 0x06))

end Sys2Proof.Machine
end

