-- ==== Sys2Proof/Machine/Writes.lean ====
section
/-! DEFINITION. The commands of registers that act when accessed (chapters 02 to 07 and 17). -/

namespace Sys2Proof.Machine

/-- HST_LOCK_WRITE (R100): Writing HST_LOCK.LOCK freezes every RWL field, sets LOCKED and raises HST_LOCKED. -/
def execHstLockWrite (value : DW) (s : State) : Host.Outcome State Fault Refusal :=
  s.runSetup (fun d => hstLockWrite value d)

/-- REGISTER_WRITE (R396): A write to a setup register without a row of its own is applied field by field under its access code and range rules. -/
def execRegisterWrite (offset : BitVec 20) (wide : Bool) (value : QW) (s : State) : Host.Outcome State Fault Refusal :=
  s.runSetup (fun d => registerWrite offset.toNat wide value d)

/-- TB_TIME_LO_READ (R398): Reading TB_TIME_LO latches TB_TIME_HI and TB_TIME_FRAC. -/
def execTbTimeLoRead (wide : Bool) (s : State) : Host.Outcome State Fault Refusal :=
  s.run (fun d => tbTimeLoRead wide d)

/-- TB_TRIG_MODE_WRITE (R142): Writing TB_TRIG.MODE before the lock installs the programmed trigger schedule. -/
def execTbTrigModeWrite (out : Fin 9) (value : DW) (s : State) : Host.Outcome State Fault Refusal :=
  s.run (fun d => tbTrigModeWrite out.val value d)

/-- PLG_CTL_ARM_WRITE (R161): Writing PLG_CTL.ARM before the lock arms a coefficient swap at PLG_SWAP_TIME. -/
def execPlgCtlArmWrite (value : DW) (s : State) : Host.Outcome State Fault Refusal :=
  s.run (fun d => plgCtlArmWrite value d)

/-- VIS_DESC_SEED_WRITE (R187): Writing VIS_DESC_SEED regenerates the descriptor pair table. -/
def execVisDescSeedWrite (value : DW) (s : State) : Host.Outcome State Fault Refusal :=
  s.runSetup (fun d => visDescSeedWrite value d)

/-- SPN_SNS_POOL_WRITE (R73): Writing POOL_MIB resizes the sensor pool only when free T1 or unoccupied pool space allows it. -/
def execSpnSnsPoolWrite (value : DW) (s : State) : Host.Outcome State Fault Refusal :=
  s.runSetup (fun d => spnSnsPoolWrite value d)

end Sys2Proof.Machine
end

