-- ==== Sys2Proof/Machine/Dispatch.lean ====
section
/-! DEFINITION. One arm for each command: a direct call of its meaning. -/

namespace Sys2Proof.Machine

/-- The effect of a command on everything but the queue. -/
def exec (i : Instr) (s : State) : Host.Outcome State Fault Refusal :=
  match i with
  | .sqTailWrite func c ring value => Sys2Proof.Machine.execSqTailWrite func c ring value s
  | .cqHeadWrite func c value => Sys2Proof.Machine.execCqHeadWrite func c value s
  | .eqHeadWrite func c value => Sys2Proof.Machine.execEqHeadWrite func c value s
  | .barAccessInvalid func page offset size write => Sys2Proof.Machine.execBarAccessInvalid func page offset size write s
  | .descriptorFetch => Sys2Proof.Machine.execDescriptorFetch s
  | .fenceBeforeRelease c ring => Sys2Proof.Machine.execFenceBeforeRelease c ring s
  | .tokenGrant sheet => Sys2Proof.Machine.execTokenGrant sheet s
  | .ribbonRowGrant sheet d => Sys2Proof.Machine.execRibbonRowGrant sheet d s
  | .partDispatch d => Sys2Proof.Machine.execPartDispatch d s
  | .partFinish leaf crcXor => Sys2Proof.Machine.execPartFinish leaf crcXor s
  | .descriptorComplete d => Sys2Proof.Machine.execDescriptorComplete d s
  | .irqCoalesceExpiry func vec => Sys2Proof.Machine.execIrqCoalesceExpiry func vec s
  | .ringDmaFault c target addr => Sys2Proof.Machine.execRingDmaFault c target addr s
  | .nop c w => Sys2Proof.Machine.execNop c w s
  | .bind c w => Sys2Proof.Machine.execBind c w s
  | .unbind c w => Sys2Proof.Machine.execUnbind c w s
  | .gatheringRebindComplete d => Sys2Proof.Machine.execGatheringRebindComplete d s
  | .ctxOpen c w => Sys2Proof.Machine.execCtxOpen c w s
  | .ctxTeardown c w => Sys2Proof.Machine.execCtxTeardown c w s
  | .teardownFinish c => Sys2Proof.Machine.execTeardownFinish c s
  | .hstCtxOpenReg c => Sys2Proof.Machine.execHstCtxOpenReg c s
  | .hstCtxTeardownReg c => Sys2Proof.Machine.execHstCtxTeardownReg c s
  | .functionLevelReset func => Sys2Proof.Machine.execFunctionLevelReset func s
  | .autoOpen c => Sys2Proof.Machine.execAutoOpen c s
  | .unitDisable c w => Sys2Proof.Machine.execUnitDisable c w s
  | .unitDisableDrainExpiry d => Sys2Proof.Machine.execUnitDisableDrainExpiry d s
  | .unitEnable c w => Sys2Proof.Machine.execUnitEnable c w s
  | .hstLockWrite value => Sys2Proof.Machine.execHstLockWrite value s
  | .registerWrite offset wide value => Sys2Proof.Machine.execRegisterWrite offset wide value s
  | .tbTimeLoRead wide => Sys2Proof.Machine.execTbTimeLoRead wide s
  | .tbTrigModeWrite out value => Sys2Proof.Machine.execTbTrigModeWrite out value s
  | .plgCtlArmWrite value => Sys2Proof.Machine.execPlgCtlArmWrite value s
  | .visDescSeedWrite value => Sys2Proof.Machine.execVisDescSeedWrite value s
  | .spnSnsPoolWrite value => Sys2Proof.Machine.execSpnSnsPoolWrite value s
  | .sheetAlloc c w => Sys2Proof.Machine.execSheetAlloc c w s
  | .sheetFree c w => Sys2Proof.Machine.execSheetFree c w s
  | .sheetFreeComplete d => Sys2Proof.Machine.execSheetFreeComplete d s
  | .sheetPin c w => Sys2Proof.Machine.execSheetPin c w s
  | .evict c w => Sys2Proof.Machine.execEvict c w s
  | .move c w => Sys2Proof.Machine.execMove c w s
  | .moverSegmentDone m => Sys2Proof.Machine.execMoverSegmentDone m s
  | .copyPresent copy => Sys2Proof.Machine.execCopyPresent copy s
  | .promotionSpaceReturned copy => Sys2Proof.Machine.execPromotionSpaceReturned copy s
  | .tbTrigger c w => Sys2Proof.Machine.execTbTrigger c w s
  | .trigInstall out => Sys2Proof.Machine.execTrigInstall out s
  | .trigEdge out => Sys2Proof.Machine.execTrigEdge out s
  | .tbStep c w => Sys2Proof.Machine.execTbStep c w s
  | .tbStepPpsTimeout => Sys2Proof.Machine.execTbStepPpsTimeout s
  | .ptpMessageRx port m => Sys2Proof.Machine.execPtpMessageRx port m s
  | .holdoverEntry => Sys2Proof.Machine.execHoldoverEntry s
  | .ptpMessageTx port k => Sys2Proof.Machine.execPtpMessageTx port k s
  | .capEdge pin rising => Sys2Proof.Machine.execCapEdge pin rising s
  | .csiFrameStart port vc frame => Sys2Proof.Machine.execCsiFrameStart port vc frame s
  | .csiLinePacket port vc dt eccOk crcOk data => Sys2Proof.Machine.execCsiLinePacket port vc dt eccOk crcOk data s
  | .csiFrameEnd port vc => Sys2Proof.Machine.execCsiFrameEnd port vc s
  | .ethFrameRx port fcsOk bufferOk frame => Sys2Proof.Machine.execEthFrameRx port fcsOk bufferOk frame s
  | .canFrameRx n f => Sys2Proof.Machine.execCanFrameRx n f s
  | .snsCanBusOff n => Sys2Proof.Machine.execSnsCanBusOff n s
  | .snsLink port up => Sys2Proof.Machine.execSnsLink port up s
  | .spiDrdyEdge n rising => Sys2Proof.Machine.execSpiDrdyEdge n rising s
  | .spiTransactionDone n rx => Sys2Proof.Machine.execSpiTransactionDone n rx s
  | .selectorCloseTime d job => Sys2Proof.Machine.execSelectorCloseTime d job s
  | .unitRelease u => Sys2Proof.Machine.execUnitRelease u s
  | .ploughSlot k => Sys2Proof.Machine.execPloughSlot k s
  | .plgSwap c w => Sys2Proof.Machine.execPlgSwap c w s
  | .plgSwapLoad => Sys2Proof.Machine.execPlgSwapLoad s
  | .plgSwapIdleSwitch => Sys2Proof.Machine.execPlgSwapIdleSwitch s
  | .visRemap c w => Sys2Proof.Machine.execVisRemap c w s
  | .visSgm c w => Sys2Proof.Machine.execVisSgm c w s
  | .visFeatures c w => Sys2Proof.Machine.execVisFeatures c w s
  | .tenLayer c w => Sys2Proof.Machine.execTenLayer c w s
  | .tenStep c w => Sys2Proof.Machine.execTenStep c w s
  | .fusPropagate c w => Sys2Proof.Machine.execFusPropagate c w s
  | .fusCloud c w => Sys2Proof.Machine.execFusCloud c w s
  | .fusProject c w => Sys2Proof.Machine.execFusProject c w s
  | .fusFactors c w => Sys2Proof.Machine.execFusFactors c w s
  | .fusGate c w => Sys2Proof.Machine.execFusGate c w s
  | .prsStruct c w => Sys2Proof.Machine.execPrsStruct c w s
  | .prsUpdate c w => Sys2Proof.Machine.execPrsUpdate c w s
  | .prsExtract c w => Sys2Proof.Machine.execPrsExtract c w s
  | .prsSolve c w => Sys2Proof.Machine.execPrsSolve c w s
  | .prsDeadlineHit d iters within => Sys2Proof.Machine.execPrsDeadlineHit d iters within s
  | .prsKernel c w => Sys2Proof.Machine.execPrsKernel c w s
  | .mapCreate c w => Sys2Proof.Machine.execMapCreate c w s
  | .mapCommit c w => Sys2Proof.Machine.execMapCommit c w s
  | .mapCompact c w => Sys2Proof.Machine.execMapCompact c w s
  | .ldgOps c w => Sys2Proof.Machine.execLdgOps c w s
  | .ldgScan c w => Sys2Proof.Machine.execLdgScan c w s
  | .ldgRulebook c w => Sys2Proof.Machine.execLdgRulebook c w s
  | .ldgFieldGather c w => Sys2Proof.Machine.execLdgFieldGather c w s
  | .ldgFieldScatter c w => Sys2Proof.Machine.execLdgFieldScatter c w s
  | .srcQuery c w => Sys2Proof.Machine.execSrcQuery c w s
  | .srcInsert c w => Sys2Proof.Machine.execSrcInsert c w s
  | .srcDelete c w => Sys2Proof.Machine.execSrcDelete c w s
  | .srcKnn c w => Sys2Proof.Machine.execSrcKnn c w s
  | .schArm c w => Sys2Proof.Machine.execSchArm c w s
  | .schDisarm c w => Sys2Proof.Machine.execSchDisarm c w s
  | .periodFiring slot => Sys2Proof.Machine.execPeriodFiring slot s
  | .firingComplete slot => Sys2Proof.Machine.execFiringComplete slot s
  | .schedWaitExpiry slot => Sys2Proof.Machine.execSchedWaitExpiry slot s
  | .digestFinal slot => Sys2Proof.Machine.execDigestFinal slot s
  | .mirTrack c w => Sys2Proof.Machine.execMirTrack c w s
  | .mirResync c w => Sys2Proof.Machine.execMirResync c w s
  | .mirLink port up => Sys2Proof.Machine.execMirLink port up s
  | .mirRoleRx port msg => Sys2Proof.Machine.execMirRoleRx port msg s
  | .mirRoleRetry port => Sys2Proof.Machine.execMirRoleRetry port s
  | .heartbeatTx => Sys2Proof.Machine.execHeartbeatTx s
  | .heartbeatRx port msg => Sys2Proof.Machine.execHeartbeatRx port msg s
  | .mirPeerLost => Sys2Proof.Machine.execMirPeerLost s
  | .mirPlanRx port msg => Sys2Proof.Machine.execMirPlanRx port msg s
  | .mirSchedRx port msg => Sys2Proof.Machine.execMirSchedRx port msg s
  | .mirDigestRx port msg => Sys2Proof.Machine.execMirDigestRx port msg s
  | .mirDeltaRx port msg => Sys2Proof.Machine.execMirDeltaRx port msg s
  | .mirFillRx port imm msg => Sys2Proof.Machine.execMirFillRx port imm msg s
  | .mirRepairWaitExpiry slot => Sys2Proof.Machine.execMirRepairWaitExpiry slot s
  | .mirBulkBudgetEnd slot lines => Sys2Proof.Machine.execMirBulkBudgetEnd slot lines s
  | .mirResyncRx port msg => Sys2Proof.Machine.execMirResyncRx port msg s
  | .mirSplitRx port msg => Sys2Proof.Machine.execMirSplitRx port msg s
  | .mirUnitRx port msg => Sys2Proof.Machine.execMirUnitRx port msg s
  | .mirPloughRx port msg => Sys2Proof.Machine.execMirPloughRx port msg s
  | .mirForeignPacket port => Sys2Proof.Machine.execMirForeignPacket port s
  | .mirQpReestablish port qp => Sys2Proof.Machine.execMirQpReestablish port qp s
  | .mirCnpRx port qp => Sys2Proof.Machine.execMirCnpRx port qp s
  | .mirRateRestore port qp => Sys2Proof.Machine.execMirRateRestore port qp s
  | .mirSplitEnter => Sys2Proof.Machine.execMirSplitEnter s
  | .mirSplitLeave => Sys2Proof.Machine.execMirSplitLeave s
  | .crcCheck c w => Sys2Proof.Machine.execCrcCheck c w s
  | .descriptorTimeout d => Sys2Proof.Machine.execDescriptorTimeout d s
  | .moverResetHang m => Sys2Proof.Machine.execMoverResetHang m s
  | .incidentDrainEnd p => Sys2Proof.Machine.execIncidentDrainEnd p s
  | .partitionResetDone p => Sys2Proof.Machine.execPartitionResetDone p s
  | .replayStart => Sys2Proof.Machine.execReplayStart s
  | .replayTimeout => Sys2Proof.Machine.execReplayTimeout s
  | .partitionResetHang p => Sys2Proof.Machine.execPartitionResetHang p s
  | .volumeResetHang => Sys2Proof.Machine.execVolumeResetHang s
  | .sequencerWatchdog p => Sys2Proof.Machine.execSequencerWatchdog p s
  | .fltRestore c w => Sys2Proof.Machine.execFltRestore c w s
  | .scrubPatrol tier => Sys2Proof.Machine.execScrubPatrol tier s
  | .scrubHint => Sys2Proof.Machine.execScrubHint s
  | .secInstallStageFw c w => Sys2Proof.Machine.execSecInstallStageFw c w s
  | .firmwareStageDone => Sys2Proof.Machine.execFirmwareStageDone s
  | .secInstallActivate c w => Sys2Proof.Machine.execSecInstallActivate c w s
  | .secInstallCommitSvn c w => Sys2Proof.Machine.execSecInstallCommitSvn c w s
  | .secInstallOwnerRecord c w => Sys2Proof.Machine.execSecInstallOwnerRecord c w s
  | .secQuote c w => Sys2Proof.Machine.execSecQuote c w s
  | .secMapLoad c w => Sys2Proof.Machine.execSecMapLoad c w s
  | .secMapExport c w => Sys2Proof.Machine.execSecMapExport c w s
  | .svcInfo k => Sys2Proof.Machine.execSvcInfo k s
  | .svcReadReg k => Sys2Proof.Machine.execSvcReadReg k s
  | .svcDumpSheet k => Sys2Proof.Machine.execSvcDumpSheet k s
  | .svcStageFirmware k => Sys2Proof.Machine.execSvcStageFirmware k s
  | .svcStageMap k => Sys2Proof.Machine.execSvcStageMap k s
  | .svcUnlockChallenge k => Sys2Proof.Machine.execSvcUnlockChallenge k s
  | .svcUnlockResponse k => Sys2Proof.Machine.execSvcUnlockResponse k s
  | .svcUndefinedOp op k => Sys2Proof.Machine.execSvcUndefinedOp op k s
  | .unlockChallengeLapse => Sys2Proof.Machine.execUnlockChallengeLapse s
  | .unlockLockoutEnd => Sys2Proof.Machine.execUnlockLockoutEnd s
  | .testDebugAccess write addr value => Sys2Proof.Machine.execTestDebugAccess write addr value s
  | .perstAssert => Sys2Proof.Machine.execPerstAssert s
  | .perstDeassert mirrorRole => Sys2Proof.Machine.execPerstDeassert mirrorRole s
  | .recoveryRrsEnd => Sys2Proof.Machine.execRecoveryRrsEnd s
  | .railOutOfRange rail mv => Sys2Proof.Machine.execRailOutOfRange rail mv s
  | .railRecovered => Sys2Proof.Machine.execRailRecovered s
  | .pmbAlert reply => Sys2Proof.Machine.execPmbAlert reply s
  | .pmbVoutPoll reply => Sys2Proof.Machine.execPmbVoutPoll reply s
  | .governorStep reply => Sys2Proof.Machine.execGovernorStep reply s
  | .powerLimitTick computeMw spineMw ioMw => Sys2Proof.Machine.execPowerLimitTick computeMw spineMw ioMw s
  | .quireRamp p up => Sys2Proof.Machine.execQuireRamp p up s
  | .tempSample compute spine io => Sys2Proof.Machine.execTempSample compute spine io s
  | .pwrTrigShort out => Sys2Proof.Machine.execPwrTrigShort out s
  | .trigShortClear out => Sys2Proof.Machine.execTrigShortClear out s
  | .volumeResetDone => Sys2Proof.Machine.execVolumeResetDone s
  | .moverResetDone m => Sys2Proof.Machine.execMoverResetDone m s
  | .partitionSampleDone p => Sys2Proof.Machine.execPartitionSampleDone p s
  | .canBusOffRecovery n => Sys2Proof.Machine.execCanBusOffRecovery n s
  | .pcieConfigWrite func numVfs vfEnable busMaster => Sys2Proof.Machine.execPcieConfigWrite func numVfs vfEnable busMaster s
  | .msixVectorUnmask func vec => Sys2Proof.Machine.execMsixVectorUnmask func vec s
  | .svcLinkChange up => Sys2Proof.Machine.execSvcLinkChange up s
  | .ptpAnnounceTimeout port => Sys2Proof.Machine.execPtpAnnounceTimeout port s

end Sys2Proof.Machine
end

