-- ==== Sys2Proof/Machine/Tick.lean ====
section
/-! DEFINITION. What passes while no command waits: 4 ns of device time (log 21). -/

namespace Sys2Proof.Machine

/-- One count of the timebase (R128): time passes, current ramps run (R383), one transmitted time stamp is read out (log 22), and forwarded
units leave on the mirror (R126), and the control state is looked at (R335). Nothing passes while the device is held in reset. -/
def State.tick (s : State) : State :=
  if !s.dev.alive then s
  else
    let d := s.dev.idle
    let d := if d.running then (d.rampTick).drainForward.ctlCheck else d
    { s with dev := s.dev.framed d }

end Sys2Proof.Machine
end

