-- ==== Sys2Proof/Machine/Package.lean ====
section
/-! DEFINITION. The package: which signal or rail every ball carries (R389, R390) and the energy the package stores (R379). -/

namespace Sys2Proof.Machine

/-- A ball's net: a signal, a rail, or VSS. -/
inductive Net where
  | sig (name : String)
  | rail (name : String)
  | vss
  deriving DecidableEq, Repr

/-- The letters of row names. -/
def rowLetters : List String := ["A", "B", "C", "D", "E", "F", "G", "H", "J", "K", "L", "M", "N", "P", "T", "U", "V", "W", "Y"]

/-- The name of row `g`, 0–56. -/
def rowName (g : Nat) : String := (["", "A", "B"].getD (g / 19) "") ++ rowLetters.getD (g % 19) ""

/-- The local row and column of position `k` in a block of even width (R389). -/
def blockBall (k w : Nat) : Nat × Nat :=
  let i := k / (w / 2)
  (i, 2 * (k % (w / 2)) + (i + 1) % 2)

/-- An interface block: origin, width, height, and its signals in order. -/
structure BallBlock where
  g0   : Nat
  c0   : Nat
  w    : Nat
  h    : Nat
  sigs : List String
  deriving DecidableEq, Repr

/-- Names with a running number. -/
def numbered (pre post : String) (n : Nat) : List String := (List.range n).map (fun k => pre ++ toString k ++ post)

/-- The 37 signals of one LPDDR5X sub-channel. -/
def lpSub (pre : String) : List String :=
  (numbered "DQ" "" 16 ++ ["DMI0", "DMI1", "WCK0_T", "WCK0_C", "WCK1_T", "WCK1_C", "RDQS0_T", "RDQS0_C", "RDQS1_T", "RDQS1_C",
    "CK_T", "CK_C"] ++ numbered "CA" "" 7 ++ ["CS0", "CS1"]).map (pre ++ ·)

/-- LPDDR5X channel `c`. -/
def lpBlock (c : Nat) : BallBlock :=
  let p := "LP" ++ toString c ++ "_"
  { g0 := if c < 2 then 0 else 47
    c0 := if c < 2 then 4 + 20 * c else 5 + 20 * (c - 2)
    w := 16
    h := 10
    sigs := lpSub (p ++ "A_") ++ lpSub (p ++ "B_") ++ [p ++ "RESET_N"] }

/-- The two balls of a pair. -/
def pairPN (s : String) : List String := [s ++ "_P", s ++ "_N"]

/-- The interface blocks. -/
def ballBlocks : List BallBlock :=
  (List.range 4).map lpBlock ++
  [{ g0 := 0, c0 := 44, w := 8, h := 10,
     sigs := (List.range 8).flatMap (fun n => pairPN ("PCIE_TX" ++ toString n) ++ pairPN ("PCIE_RX" ++ toString n)) ++ pairPN "PCIE_REFCLK" },
   { g0 := 12, c0 := 2, w := 4, h := 16,
     sigs := (List.range 2).flatMap (fun m => (List.range 4).flatMap (fun k =>
       pairPN ("MIR" ++ toString m ++ "_TX" ++ toString k) ++ pairPN ("MIR" ++ toString m ++ "_RX" ++ toString k))) },
   { g0 := 12, c0 := 52, w := 6, h := 32,
     sigs := (List.range 8).flatMap (fun p => let s := "CSI" ++ toString p ++ "_"
       pairPN (s ++ "CLK") ++ (List.range 4).flatMap (fun l => pairPN (s ++ "D" ++ toString l))) },
   { g0 := 30, c0 := 2, w := 6, h := 15,
     sigs := (List.range 6).flatMap (fun e => pairPN ("T1E" ++ toString e)) ++
       (List.range 4).flatMap (fun n => let s := "CAN" ++ toString n; [s ++ "_TX", s ++ "_RX"]) ++
       (List.range 4).flatMap (fun n => let s := "SPI" ++ toString n
         [s ++ "_SCLK", s ++ "_MOSI", s ++ "_MISO", s ++ "_CS_N", s ++ "_DRDY"]) ++ ["T1_RBIAS"] },
   { g0 := 47, c0 := 43, w := 4, h := 10,
     sigs := pairPN "USB_TX0" ++ pairPN "USB_RX0" ++ pairPN "USB_TX1" ++ pairPN "USB_RX1" ++ ["USB_DP", "USB_DN", "USB_VBUS"] },
   { g0 := 45, c0 := 49, w := 8, h := 12,
     sigs := ["PERST_N", "FAULT_N", "MIRROR_ROLE", "THERMTRIP_N", "REFCLK_TB", "PPS_IN", "PPS_OUT"] ++ numbered "CAP" "" 8 ++
       numbered "TRIG" "" 8 ++ ["PMB_SCL", "PMB_SDA", "PMB_ALERT_N", "XSPI_CLK", "XSPI_CS_N", "XSPI_DQS", "XSPI_RESET_N"] ++
       numbered "XSPI_DQ" "" 8 ++ ["TCK", "TMS", "TDI", "TDO", "TRST_N", "VSENSE_C_P", "VSENSE_C_N"] }]

/-- A ball lies in a block. -/
def BallBlock.has (b : BallBlock) (g c : Nat) : Bool := decide (b.g0 ≤ g ∧ g < b.g0 + b.h ∧ b.c0 ≤ c ∧ c < b.c0 + b.w)

/-- What a ball of a block carries (R389). -/
def BallBlock.net (b : BallBlock) (g c : Nat) : Net :=
  let i := g - b.g0
  let j := c - b.c0
  if (i + j) % 2 = 0 then .vss
  else match b.sigs[i * (b.w / 2) + j / 2]? with
    | some s => .sig s
    | none => .vss

/-- Power and ground fill outside the blocks: the first rule that applies (R390). -/
def ballFill (g c : Nat) : Net :=
  let core : Bool := decide (12 ≤ g ∧ g ≤ 44)
  let edge : Bool := decide (g = 10 ∨ g = 11 ∨ g = 45 ∨ g = 46)
  if (g + c) % 2 = 0 then .vss
  else if edge ∧ 1 ≤ c ∧ c ≤ 40 then .rail "VDDQ_LP"
  else if edge ∧ 41 ≤ c ∧ c ≤ 57 then .rail "VDDIO_A"
  else if core ∧ 5 ≤ c ∧ c ≤ 9 then .rail (if g ≤ 29 then "VDDIO_A" else "VDDIO_B")
  else if core ∧ 10 ≤ c ∧ c ≤ 12 then .rail (if g ≤ 27 then "VDD_DQ" else "VDD_DA")
  else if core ∧ 13 ≤ c ∧ c ≤ 15 then .rail "VDD_S"
  else if core ∧ 16 ≤ c ∧ c ≤ 44 then .rail "VDD_C"
  else if core ∧ 45 ≤ c ∧ c ≤ 46 then .rail (if g ≤ 27 then "VDDIO_C" else "VDDIO_D")
  else if core ∧ 47 ≤ c ∧ c ≤ 51 then .rail "VDDIO_B"
  else .vss

/-- What the ball in row `g` (0–56) and column `c` (1–57) carries. -/
def ballNet (g c : Nat) : Net :=
  match ballBlocks.find? (fun b => b.has g c) with
  | some b => b.net g c
  | none => ballFill g c

/-- On-package capacitance of a rail in hundreds of nF and the top of its operating range in tenths of a mV (R379). -/
def railStore : List (Nat × Nat) :=
  [(4000, 8600), (1500, 7725), (200, 11330), (300, 6180), (600, 7725), (400, 12360), (100, 18540), (47, 33990), (200, 5150)]

/-- Stored energy ½CV² of a rail in nJ, rounded down. -/
def railEnergy (r : Nat) : Nat := let x := railStore.getD r (0, 0); x.1 * x.2 * x.2 / 2 / 1000000

end Sys2Proof.Machine
end

