-- ==== Sys2Proof/Safety.lean ====
section
/-! DEFINITION. What a safe state and a safe run are: the terms the statements use. -/

namespace Sys2Proof

open Machine

/-- The outcome is a next state that satisfies a property. -/
def NextWith (P : State → Prop) : Host.Outcome State Fault Refusal → Prop
  | .next t => P t
  | _ => False

/-- A property of the next state, if there is one. -/
def IfNext (P : State → Prop) : Host.Outcome State Fault Refusal → Prop
  | .next t => P t
  | _ => True

/-! ## Commands that present a descriptor (the opcode rows) -/

/-- What an opcode row's command presents on ring 0: its context, and its descriptor with the row's opcode (and, for the rows that
share an opcode, the row's field) in place. The other commands are events and accesses, and present none. -/
def Instr.presented : Instr → Option (Nat × DescWords)
  | .sqTailWrite _ _ _ _ => none
  | .cqHeadWrite _ _ _ => none
  | .eqHeadWrite _ _ _ => none
  | .barAccessInvalid _ _ _ _ _ => none
  | .descriptorFetch => none
  | .fenceBeforeRelease _ _ => none
  | .tokenGrant _ => none
  | .ribbonRowGrant _ _ => none
  | .partDispatch _ => none
  | .partFinish _ _ => none
  | .descriptorComplete _ => none
  | .irqCoalesceExpiry _ _ => none
  | .ringDmaFault _ _ _ => none
  | .nop c w => some (c.val, (w.withOp 0x00))
  | .bind c w => some (c.val, (w.withOp 0x01))
  | .unbind c w => some (c.val, (w.withOp 0x02))
  | .gatheringRebindComplete _ => none
  | .ctxOpen c w => some (c.val, (w.withOp 0x03))
  | .ctxTeardown c w => some (c.val, (w.withOp 0x04))
  | .teardownFinish _ => none
  | .hstCtxOpenReg _ => none
  | .hstCtxTeardownReg _ => none
  | .functionLevelReset _ => none
  | .autoOpen _ => none
  | .unitDisable c w => some (c.val, (w.withOp 0x05))
  | .unitDisableDrainExpiry _ => none
  | .unitEnable c w => some (c.val, (w.withOp 0x06))
  | .hstLockWrite _ => none
  | .registerWrite _ _ _ => none
  | .tbTimeLoRead _ => none
  | .tbTrigModeWrite _ _ => none
  | .plgCtlArmWrite _ => none
  | .visDescSeedWrite _ => none
  | .spnSnsPoolWrite _ => none
  | .sheetAlloc c w => some (c.val, (w.withOp 0x08))
  | .sheetFree c w => some (c.val, (w.withOp 0x09))
  | .sheetFreeComplete _ => none
  | .sheetPin c w => some (c.val, (w.withOp 0x0A))
  | .evict c w => some (c.val, (w.withOp 0x0C))
  | .move c w => some (c.val, (w.withOp 0x0B))
  | .moverSegmentDone _ => none
  | .copyPresent _ => none
  | .promotionSpaceReturned _ => none
  | .tbTrigger c w => some (c.val, (w.withOp 0x10))
  | .trigInstall _ => none
  | .trigEdge _ => none
  | .tbStep c w => some (c.val, (w.withOp 0x11))
  | .tbStepPpsTimeout => none
  | .ptpMessageRx _ _ => none
  | .holdoverEntry => none
  | .ptpMessageTx _ _ => none
  | .capEdge _ _ => none
  | .csiFrameStart _ _ _ => none
  | .csiLinePacket _ _ _ _ _ _ => none
  | .csiFrameEnd _ _ => none
  | .ethFrameRx _ _ _ _ => none
  | .canFrameRx _ _ => none
  | .snsCanBusOff _ => none
  | .snsLink _ _ => none
  | .spiDrdyEdge _ _ => none
  | .spiTransactionDone _ _ => none
  | .selectorCloseTime _ _ => none
  | .unitRelease _ => none
  | .ploughSlot _ => none
  | .plgSwap c w => some (c.val, (w.withOp 0x14))
  | .plgSwapLoad => none
  | .plgSwapIdleSwitch => none
  | .visRemap c w => some (c.val, (w.withOp 0x20))
  | .visSgm c w => some (c.val, (w.withOp 0x21))
  | .visFeatures c w => some (c.val, (w.withOp 0x22))
  | .tenLayer c w => some (c.val, (w.withOp 0x30))
  | .tenStep c w => some (c.val, (w.withOp 0x31))
  | .fusPropagate c w => some (c.val, (w.withOp 0x40))
  | .fusCloud c w => some (c.val, (w.withOp 0x41))
  | .fusProject c w => some (c.val, (w.withOp 0x42))
  | .fusFactors c w => some (c.val, (w.withOp 0x43))
  | .fusGate c w => some (c.val, (w.withOp 0x44))
  | .prsStruct c w => some (c.val, (w.withOp 0x50))
  | .prsUpdate c w => some (c.val, (w.withOp 0x51))
  | .prsExtract c w => some (c.val, (w.withOp 0x52))
  | .prsSolve c w => some (c.val, (w.withOp 0x53))
  | .prsDeadlineHit _ _ _ => none
  | .prsKernel c w => some (c.val, (w.withOp 0x54))
  | .mapCreate c w => some (c.val, (w.withOp 0x60))
  | .mapCommit c w => some (c.val, (w.withOp 0x61))
  | .mapCompact c w => some (c.val, (w.withOp 0x62))
  | .ldgOps c w => some (c.val, (w.withOp 0x63))
  | .ldgScan c w => some (c.val, (w.withOp 0x64))
  | .ldgRulebook c w => some (c.val, (w.withOp 0x65))
  | .ldgFieldGather c w => some (c.val, ((w.withOp 0x66).withField 1 0))
  | .ldgFieldScatter c w => some (c.val, ((w.withOp 0x66).withField 1 1))
  | .srcQuery c w => some (c.val, (w.withOp 0x68))
  | .srcInsert c w => some (c.val, (w.withOp 0x69))
  | .srcDelete c w => some (c.val, (w.withOp 0x6A))
  | .srcKnn c w => some (c.val, (w.withOp 0x6B))
  | .schArm c w => some (c.val, (w.withOp 0x70))
  | .schDisarm c w => some (c.val, (w.withOp 0x71))
  | .periodFiring _ => none
  | .firingComplete _ => none
  | .schedWaitExpiry _ => none
  | .digestFinal _ => none
  | .mirTrack c w => some (c.val, (w.withOp 0x78))
  | .mirResync c w => some (c.val, (w.withOp 0x79))
  | .mirLink _ _ => none
  | .mirRoleRx _ _ => none
  | .mirRoleRetry _ => none
  | .heartbeatTx => none
  | .heartbeatRx _ _ => none
  | .mirPeerLost => none
  | .mirPlanRx _ _ => none
  | .mirSchedRx _ _ => none
  | .mirDigestRx _ _ => none
  | .mirDeltaRx _ _ => none
  | .mirFillRx _ _ _ => none
  | .mirRepairWaitExpiry _ => none
  | .mirBulkBudgetEnd _ _ => none
  | .mirResyncRx _ _ => none
  | .mirSplitRx _ _ => none
  | .mirUnitRx _ _ => none
  | .mirPloughRx _ _ => none
  | .mirForeignPacket _ => none
  | .mirQpReestablish _ _ => none
  | .mirCnpRx _ _ => none
  | .mirRateRestore _ _ => none
  | .mirSplitEnter => none
  | .mirSplitLeave => none
  | .crcCheck c w => some (c.val, (w.withOp 0x7C))
  | .descriptorTimeout _ => none
  | .moverResetHang _ => none
  | .incidentDrainEnd _ => none
  | .partitionResetDone _ => none
  | .replayStart => none
  | .replayTimeout => none
  | .partitionResetHang _ => none
  | .volumeResetHang => none
  | .sequencerWatchdog _ => none
  | .fltRestore c w => some (c.val, (w.withOp 0x7D))
  | .scrubPatrol _ => none
  | .scrubHint => none
  | .secInstallStageFw c w => some (c.val, ((w.withOp 0x7F).withField 3 0))
  | .firmwareStageDone => none
  | .secInstallActivate c w => some (c.val, ((w.withOp 0x7F).withField 3 1))
  | .secInstallCommitSvn c w => some (c.val, ((w.withOp 0x7F).withField 3 2))
  | .secInstallOwnerRecord c w => some (c.val, ((w.withOp 0x7F).withField 3 3))
  | .secQuote c w => some (c.val, (w.withOp 0x7A))
  | .secMapLoad c w => some (c.val, (w.withOp 0x7E))
  | .secMapExport c w => some (c.val, (w.withOp 0x7B))
  | .svcInfo _ => none
  | .svcReadReg _ => none
  | .svcDumpSheet _ => none
  | .svcStageFirmware _ => none
  | .svcStageMap _ => none
  | .svcUnlockChallenge _ => none
  | .svcUnlockResponse _ => none
  | .svcUndefinedOp _ _ => none
  | .unlockChallengeLapse => none
  | .unlockLockoutEnd => none
  | .testDebugAccess _ _ _ => none
  | .perstAssert => none
  | .perstDeassert _ => none
  | .recoveryRrsEnd => none
  | .railOutOfRange _ _ => none
  | .railRecovered => none
  | .pmbAlert _ => none
  | .pmbVoutPoll _ => none
  | .governorStep _ => none
  | .powerLimitTick _ _ _ => none
  | .quireRamp _ _ => none
  | .tempSample _ _ _ => none
  | .pwrTrigShort _ => none
  | .trigShortClear _ => none
  | .volumeResetDone => none
  | .moverResetDone _ => none
  | .partitionSampleDone _ => none
  | .canBusOffRecovery _ => none
  | .pcieConfigWrite _ _ _ _ => none
  | .msixVectorUnmask _ _ => none
  | .svcLinkChange _ => none
  | .ptpAnnounceTimeout _ => none

/-- The device with a descriptor fetched into ring 0 of a context and a completion record owed for it (R83). -/
def Machine.Dev.queued (d : Dev) (c : Nat) (w : DescWords) : Dev :=
  d.modCtx c (fun x => { x with held := x.held ++ [{ ring := 0, w := w }], owed := x.owed + 1 })

/-- The device with a completion record owed to a context (R83). -/
def Machine.Dev.owing (d : Dev) (c : Nat) : Dev := d.modCtx c (fun x => { x with owed := x.owed + 1 })

/-- A context takes a descriptor on ring 0 now: it is OPEN, its completion ring has room (R83), and nothing stands before it on
that ring. -/
def Machine.Dev.takes (d : Dev) (c : Nat) : Prop := (d.ctx c).st = .opened ∧ d.cqRoom c = true ∧ d.heldOf c 0 = []

/-- A descriptor accepted on ring 0 of a context (R85): the device with it in place, and its id. -/
def Machine.Dev.taken (d : Dev) (c : Nat) (w : DescWords) : Dev × Nat :=
  (d.owing c).accept c (.ring 0) w 0 ((d.owing c).clsOf c 0) 0

/-- A descriptor presented on ring 0 of a context is accepted, and `x` is its record: the context takes it, the checks of R86, R87 and R90
accept it. -/
def Machine.Dev.starts (d : Dev) (c : Nat) (w : DescWords) (x : Desc) : Prop :=
  d.takes c ∧ (d.queued c w).judge c 0 = .accepted 1 ∧ (d.taken c w).1.desc? (d.taken c w).2 = some x ∧ x.w = w

/-- An accepted descriptor of a mover or the binder holds its tokens once what can be granted is: the device then, its record
still waiting, nothing dooming it and no sheet of it in a channel under reset. -/
def Machine.Dev.holds (d : Dev) (c : Nat) (w : DescWords) (x : Desc) : Prop :=
  d.starts c w x ∧ ((d.taken c w).1.grantFor x.id).desc? x.id = some x ∧ ((d.taken c w).1.grantFor x.id).doomOf x = none ∧
    (((d.taken c w).1.grantFor x.id).tokensOf x).2 = true ∧ x.phase = .waiting ∧
    (w.opc = 0x0B ∨ x.uses.any (fun u => ((d.taken c w).1.grantFor x.id).stalled (shIdx u.h)) = false)

/-! ## Outcomes -/

/-- A command's outcome is the next state in which the device is `d`, but for the setup words, their lock and the board, which
are those of `s`. -/
def Goes (i : Instr) (s : State) (d : Dev) : Prop := exec i s = .next { s with dev := s.dev.framed d }

/-! ## Mirror messages -/

/-- A message reaches a link on a queue pair as R311 and R312 accept it: the port on, the link up and paired (or the message one that
starts a pairing), header, type, sequence number and sizes right. -/
def Machine.Dev.delivers (d : Dev) (port q type : Nat) (b : Bytes) (m : Msg) (lenOk : Bool) : Prop :=
  d.mirOn port = true ∧ (d.link port).up = true ∧ Msg.parse b = some m ∧ m.type = type ∧
    ((d.link port).paired = true ∨ type = 0x01 ∨ type = 0x02) ∧ ((d.link port).qps.getD q QPair.reset).err = false ∧
    m.seq = ((d.link port).qps.getD q QPair.reset).rx ∧ m.pay.length = 64 * m.len ∧ lenOk = true

/-- The device with the next sequence number expected on a queue pair. -/
def Machine.Dev.received (d : Dev) (port q : Nat) : Dev :=
  let p := (d.link port).qps.getD q QPair.reset
  d.modLink port (fun l => { l with qps := l.qps.setIfInBounds q { p with rx := p.rx + 1 } })

/-- A control message of one payload unit arrives, and no copy of it has come on the other link: one link is paired, and no
message awaits its second copy. -/
def Machine.Dev.hears (d : Dev) (port type : Nat) (b : Bytes) (m : Msg) : Prop :=
  d.delivers port 0 type b m (m.len == 1) ∧ (d.received port 0).pairedLinks.length = 1 ∧ d.mir.seen = []

/-! ## Resets -/

/-- The commands that may reset the whole device: PERST_N, the rails and the over-temperature trip. -/
def Instr.resets : Instr → Bool
  | .perstAssert | .perstDeassert _ | .railOutOfRange _ _ | .railRecovered | .tempSample _ _ _ => true
  | _ => false

/-- The one command that may stop the machine: a rail beyond its absolute maximum (R375). -/
def Overstress : Instr → Prop
  | .railOutOfRange rail mv => railMax rail.val < mv
  | _ => False

/-- Every setup word that is listed differs from its reset value, and the words are listed in rising order. -/
def SetupCanonical (d : Dev) : Prop :=
  Tab.wf d.setup = true ∧ ∀ p ∈ d.setup, p.2 ≠ resetWord d.board.variant p.1

/-- Host memory has its canonical form. -/
def HostCanonical (d : Dev) : Prop := Mem.wf d.host = true

/-- The state a block is in before any command: State.reset's. -/
def AtReset (s : State) : Prop := s = State.reset

end Sys2Proof
end

