-- ==== Sys2Proof/Certificates/Slice0/Obligations.lean ====
section
/-! DEFINITION. The statements for the provers, family by family. -/

open Sys2Proof Sys2Proof.Machine

/-- For every command c at the front of the queue, step is exec of c on the state with the rest of the queue. -/
def Obligations.StepRunsFrontCommand : Prop :=
  ∀ (c : Instr) (rest : List Instr) (s : State), s.pending = c :: rest → step s = exec c { s with pending := rest }

/-- With no command waiting step answers next: held in reset the state stays as it is; else the timebase advances by the
servo rate of R128, one transmit stamp is read out, and setup words, lock and queue stay. -/
def Obligations.EmptyQueueTicks : Prop :=
  ∀ s : State, s.pending = [] →
    (s.dev.alive = false → step s = .next s) ∧
    (s.dev.alive = true → ∃ t, step s = .next t ∧ t.pending = [] ∧ t.dev.setup = s.dev.setup ∧ t.dev.locked = s.dev.locked ∧
      t.dev.tb.time = (tbTick s.dev.tb).time ∧ t.dev.tb.sub = (tbTick s.dev.tb).sub ∧
      (s.dev.running = false → t.dev.tb.txq = s.dev.tb.txq.drop 1 ∧ t.dev.host = s.dev.host ∧ t.dev.ctxs = s.dev.ctxs))

/-- At reset no command waits, every context is CLOSED with generation 1, the setup is not locked and no setup word
differs from its reset value, no sheet, copy or plan exists, host memory lists nothing and no stop is set. (R78, R9) -/
def Obligations.ResetState : Prop :=
  State.reset.pending = [] ∧ (∀ c : Fin 64, (State.reset.dev.ctx c.val).st = .closed ∧ (State.reset.dev.ctx c.val).gen = 1) ∧
    State.reset.dev.locked = false ∧ State.reset.dev.setup = [] ∧ State.reset.dev.sheets = [] ∧ State.reset.dev.copies = [] ∧
    State.reset.dev.plans = [] ∧ State.reset.dev.descs = [] ∧ State.reset.dev.host = [] ∧ State.reset.dev.tb.time = 0 ∧
    State.reset.dev.running = true

/-- State.reset satisfies SetupCanonical and HostCanonical. -/
def Obligations.ResetIsCanonical : Prop :=
  SetupCanonical State.reset.dev ∧ HostCanonical State.reset.dev

/-- If the listed setup words of a state rise in offset and each differs from its reset value, the same holds after any
step that answers next, whatever command is in front. (R9, R396) -/
def Obligations.StepKeepsSetupCanonical : Prop :=
  ∀ s : State, SetupCanonical s.dev → IfNext (fun t => SetupCanonical t.dev) (step s)

/-- HST_LOCK.LOCK written with 1 sets LOCKED, measures the setup and raises HST_LOCKED, as long as the measured log has
room; with a full log (the model’s reading of R366, log 107), or written with bit 0 clear, it has no effect; while LOCKED is set no command but those that reset the device changes a setup word or the lock, a write of a
register without a write-one-to-clear field has no effect of its own, nor have the writes of TB_TRIG, PLG_CTL,
VIS_DESC_SEED, SPN_SNS_POOL and HST_CTX_CTL; a function level reset keeps the lock. (R100, R366) -/
def Obligations.LockFreezesSetup : Prop :=
  (∀ (v : DW) (s : State), s.dev.running = true →
    (s.dev.locked = false → bitOf v 0 = true → s.dev.measFull = false →
      let d := { s.dev with locked := true }
      ∃ t, exec (.hstLockWrite v) s = .next t ∧ t.dev.locked = true ∧ t.dev.setup = s.dev.setup ∧ t.pending = s.pending ∧
        t.dev = d.framed ((d.addLog 4 d.setupDigest).event { code := 0x08 })) ∧
    (bitOf v 0 = false ∨ s.dev.measFull = true → Goes (.hstLockWrite v) s s.dev)) ∧
  (∀ (i : Instr) (s : State), s.dev.locked = true → i.resets = false →
    IfNext (fun t => t.dev.setup = s.dev.setup ∧ t.dev.locked = true) (exec i s)) ∧
  (∀ s : State, s.dev.running = true → s.dev.locked = true →
    (∀ (off : BitVec 20) (v : QW), off.toNat % 4 = 0 → off.toNat ≠ 0x1010 → off.toNat ≠ 0x1014 → off.toNat ≠ 0x8004 →
      off.toNat ≠ 0x18090 → Goes (.registerWrite off false v) s s.dev.settle) ∧
    (∀ (out : Fin 9) (v : DW), Goes (.tbTrigModeWrite out v) s s.dev) ∧ (∀ v : DW, Goes (.plgCtlArmWrite v) s s.dev) ∧
    (∀ v : DW, Goes (.visDescSeedWrite v) s s.dev) ∧ (∀ v : DW, Goes (.spnSnsPoolWrite v) s s.dev) ∧
    (∀ c : CtxId, Goes (.hstCtxOpenReg c) s s.dev.settle ∧ Goes (.hstCtxTeardownReg c) s s.dev.settle) ∧
    (∀ f : Func, ∃ t, exec (.functionLevelReset f) s = .next t ∧ t.dev.locked = true))

/-- A deassertion of PERST_N on a device whose rails are in range and which no lost rail and no thermal trip holds takes the sampled level
as the role, which MIR_STATUS reports in bit 0; every other command leaves the role as it is. (R308) -/
def Obligations.RoleHoldsUntilPerst : Prop :=
  (∀ (v : Bool) (s : State), s.dev.pwr.perst = true → s.dev.railsIn = true → s.dev.pwr.brown = false → s.dev.pwr.therm = false →
    NextWith (fun t => t.dev.mir.verso = v) (exec (.perstDeassert v) s)) ∧
  (∀ (i : Instr) (s : State), (∀ v, i ≠ .perstDeassert v) → IfNext (fun t => t.dev.mir.verso = s.dev.mir.verso) (exec i s)) ∧
  (∀ d : Dev, bitOf (d.roRest 0x1400C) 0 = d.mir.verso)

/-- Every step that answers next leaves the ROM digest, the vendor root key digest, the vendor debug key digest and the
board as they are, device resets included. (R354, R393) -/
def Obligations.RomAndBoardNeverChange : Prop :=
  ∀ s : State, IfNext (fun t => t.dev.vault.romDigest = s.dev.vault.romDigest ∧ t.dev.vault.rootKey = s.dev.vault.rootKey ∧
    t.dev.vault.debugKey = s.dev.vault.debugKey ∧ t.dev.board = s.dev.board ∧ t.dev.colophon = s.dev.colophon) (step s)

/-- For every command and state exec answers a next state, except RAIL_OUT_OF_RANGE with a level beyond the absolute
maximum of its rail, which stops with the fault overstress; no command is refused. (R375, R376) -/
def Obligations.OnlyOverstressStops : Prop :=
  ∀ (i : Instr) (s : State), (Overstress i → exec i s = .fault .overstress) ∧ (¬ Overstress i → NextWith (fun _ => True) (exec i s))

/-- Whatever command runs in whatever state, the commands that wait are those that waited. -/
def Obligations.QueueUntouched : Prop :=
  ∀ (i : Instr) (s : State), IfNext (fun t => t.pending = s.pending) (exec i s)

/-- While PERST_N or a lost rail holds the device in reset, every command that is not one of the device resets leaves the
whole state as it is. (R376, R378) -/
def Obligations.HeldInResetNothingRuns : Prop :=
  ∀ (i : Instr) (s : State), s.dev.alive = false → i.resets = false → exec i s = .next s

/-- Each of the 55 commands that present a descriptor (nop, bind, unbind, ctxOpen, ctxTeardown, unitDisable, unitEnable,
sheetAlloc, sheetFree, sheetPin, evict, move, tbTrigger, tbStep, plgSwap, visRemap, visSgm, visFeatures, tenLayer,
tenStep, fusPropagate, fusCloud, fusProject, fusFactors, fusGate, prsStruct, prsUpdate, prsExtract, prsSolve,
prsKernel, mapCreate, mapCommit, mapCompact, ldgOps, ldgScan, ldgRulebook, ldgFieldGather, ldgFieldScatter, srcQuery,
srcInsert, srcDelete, srcKnn, schArm, schDisarm, mirTrack, mirResync, crcCheck, fltRestore, secInstallStageFw,
secInstallActivate, secInstallCommitSvn, secInstallOwnerRecord, secQuote, secMapLoad, secMapExport), from an OPEN
context with room in its completion ring and nothing before it on ring 0: when the checks of R86, R87 and R90 accept
the descriptor, the next state is that of its acceptance with one completion record owed, followed by its operation as
far as nothing stands in its way. (R83, R85, R87, R90) -/
def Obligations.OpcodeRowsRun : Prop :=
  ∀ (i : Instr) (s : State) (c : Nat) (w : DescWords), i.presented = some (c, w) → s.dev.running = true → s.dev.takes c →
    (s.dev.queued c w).judge c 0 = .accepted 1 → Goes i s ((s.dev.taken c w).1.launch (s.dev.taken c w).2 true).settle

/-- When the checks refuse the descriptor with a status, the next state is the state with one completion record owed and
that record written; nothing is accepted and nothing runs. A refusal for a word that cannot be used counts and reports
that word. (R87, R90, R295) -/
def Obligations.OpcodeRowsRefusedByCheck : Prop :=
  ∀ (i : Instr) (s : State) (c : Nat) (w : DescWords) (st : Status) (r4 : DW), i.presented = some (c, w) → s.dev.running = true →
    s.dev.takes c → (s.dev.queued c w).judge c 0 = .refused 1 st r4 →
    Goes i s (((s.dev.owing c).noteRefused c w st).complete c w { st := st, r4 := r4 }).settle

/-- A command that presents a descriptor from a context that is not OPEN, or whose completion ring has no room for the
record, leaves the whole state as it is. (R83, R103) -/
def Obligations.OpcodeRowsNeedAnOpenContext : Prop :=
  ∀ (i : Instr) (s : State) (c : Nat) (w : DescWords), i.presented = some (c, w) →
    ((s.dev.ctx c).st ≠ .opened ∨ s.dev.cqRoom c = false) → exec i s = .next s

/-- For the rows a leaf runs (visRemap, visSgm, visFeatures, tenLayer, tenStep, fusPropagate, fusCloud, fusProject,
fusFactors, fusGate, prsStruct, prsUpdate, prsExtract, prsSolve, prsKernel, mapCreate, mapCommit, mapCompact, ldgOps,
ldgScan, ldgRulebook, ldgFieldGather, ldgFieldScatter, srcQuery, srcInsert, srcDelete, srcKnn, secMapLoad,
secMapExport): when, after acceptance and the granting of what can be granted, nothing dooms the descriptor, it is
ready, its copies are long enough and its parts find idle leaves, and the members of a REPLICATE target agree, the
next state is the one in which the operation’s result is decoded, written, its effects applied and its one record
written. (R36, R41, R54, R333) -/
def Obligations.LeafOperationsConclude : Prop :=
  ∀ (i : Instr) (s : State) (c : Nat) (w : DescWords) (x y z : Desc) (o : OpDef), i.presented = some (c, w) →
    s.dev.running = true → s.dev.takes c → (s.dev.queued c w).judge c 0 = .accepted 1 →
    let id := (s.dev.taken c w).2
    let d := (s.dev.taken c w).1.resolve id
    let e := ((d.dispatchParts y).modDesc id (fun v => { v with parts := endParts d.now v.parts })).crcTake
    (s.dev.taken c w).1.desc? id = some x → (opDefOf x.w).isSome = true →
    d.desc? id = some y → d.doomOf y = none → d.readyToRun y = true → y.phase = .waiting → d.copyShort y = false →
    d.runsNow y = true → e.desc? id = some z → opDefOf z.w = some o → e.copyShort z = false → z.dissents = [] →
    Goes i s (e.conclude z (o.run e z)).settle

/-- On a page the function reaches: a tail write of T is accepted exactly when the context is OPEN, the ring exists and (T
- H) and (T - T_old) mod 2^32 are at most SIZE, and then only the tail changes; a head write exactly when the context
is OPEN and the head passes neither the tail nor moves backward, and then only the head changes; any other is counted
in HST_DB_ERR_CNT, reported as HST_DOORBELL_BAD and changes nothing else. (R82) -/
def Obligations.DoorbellWrites : Prop :=
  ∀ (f : Func) (c : CtxId) (v : DW) (s : State), s.dev.running = true → s.dev.pageLive f.val c.val = true →
    let d := s.dev
    let x := d.ctx c.val
    let bad (off : Nat) : Dev := (d.count cDbErr).event { code := 0x03, ctx := some c.val, d4 := dwN off, d5 := v }
    (∀ ring : Fin 4,
      let r := x.sq.getD ring.val Ring.reset
      let ok := x.st = .opened ∧ ring.val < x.rings ∧ (v - r.head).toNat ≤ r.size ∧ (v - r.tail).toNat ≤ r.size
      (ok → Goes (.sqTailWrite f c ring v) s (d.setCtx c.val { x with sq := x.sq.setIfInBounds ring.val { r with tail := v } })) ∧
      (¬ ok → Goes (.sqTailWrite f c ring v) s (bad (8 * ring.val)))) ∧
    (let ok := x.st = .opened ∧ (v - x.cqHead).toNat ≤ (x.cqTail - x.cqHead).toNat
     (ok → Goes (.cqHeadWrite f c v) s (d.setCtx c.val { x with cqHead := v })) ∧
     (¬ ok → Goes (.cqHeadWrite f c v) s (bad 0x100))) ∧
    (let ok := x.st = .opened ∧ (v - x.eqHead).toNat ≤ (x.eqTail - x.eqHead).toNat
     (ok → Goes (.eqHeadWrite f c v) s (d.setCtx c.val { x with eqHead := v })) ∧
     (¬ ok → Goes (.eqHeadWrite f c v) s (bad 0x108)))

/-- On the page of a context that is not assigned to its VF every doorbell write is ignored and counted in HST_DB_ERR_CNT,
and every read returns zero. (R76) -/
def Obligations.ForeignPagesIgnoreWrites : Prop :=
  ∀ (f : Func) (c : CtxId) (v : DW) (s : State), s.dev.running = true → f.val ≠ 0 → s.dev.func c.val ≠ f.val →
    (∀ ring : Fin 4, Goes (.sqTailWrite f c ring v) s (s.dev.count cDbErr)) ∧
    Goes (.cqHeadWrite f c v) s (s.dev.count cDbErr) ∧ Goes (.eqHeadWrite f c v) s (s.dev.count cDbErr) ∧
    (∀ (off : BitVec 20) (size : Nat), off.toNat / 4096 = c.val →
      Goes (.barAccessInvalid f true off size true) s (s.dev.count cDbErr) ∧
      Goes (.barAccessInvalid f true off size false) s (s.dev.emitOut (.readData 0)))

/-- An access of any other size, or not aligned to its size, reads as zero; such a write is ignored and counted in
HST_DB_ERR_CNT; a register write of 32 or 64 bits that is not aligned is ignored and counted and no register changes.
An aligned access of 4 or 8 bytes inside the BAR is none of these, and the command has no effect. (R77) -/
def Obligations.OtherAccessesReadZero : Prop :=
  ∀ (f : Func) (page : Bool) (off : BitVec 20) (size : Nat) (s : State), s.dev.running = true →
    (((size ≠ 4 ∧ size ≠ 8) ∨ off.toNat % size ≠ 0) →
      Goes (.barAccessInvalid f page off size true) s (s.dev.count cDbErr) ∧
      Goes (.barAccessInvalid f page off size false) s (s.dev.emitOut (.readData 0))) ∧
    (∀ write, (size = 4 ∨ size = 8) → off.toNat % size = 0 →
      (page = true → off.toNat < 0x40000 ∧ s.dev.pageLive f.val (off.toNat / 4096) = true) → Goes (.barAccessInvalid f page off size write) s s.dev) ∧
    (∀ (wide : Bool) (v : QW), off.toNat % (if wide then 8 else 4) ≠ 0 → Goes (.registerWrite off wide v) s (s.dev.count cDbErr))

/-- At or after the end of a vector’s window one MSI-X message is sent, or while the vector is masked its pending bit set,
and the window closes; before it nothing happens. Unmasking a vector clears its mask and pending bits and sends a
message exactly when one was pending. Nothing else changes. (R95) -/
def Obligations.InterruptsComplete : Prop :=
  ∀ (f : Func) (v : Fin 64) (s : State), s.dev.running = true →
    let d := s.dev
    let k := 64 * f.val + v.val
    let x := Tab.getD d.vecs k Vec.reset
    (∀ t, x.window = some t →
      (t ≤ d.now → x.masked = false →
        Goes (.irqCoalesceExpiry f v) s
          { d with vecs := Tab.put Vec.reset d.vecs k { x with window := none }, out := d.out ++ [.msix f.val v.val] }) ∧
      (t ≤ d.now → x.masked = true →
        Goes (.irqCoalesceExpiry f v) s { d with vecs := Tab.put Vec.reset d.vecs k { x with pending := true, window := none } }) ∧
      (d.now < t → Goes (.irqCoalesceExpiry f v) s d)) ∧
    Goes (.msixVectorUnmask f v) s
      { d with
        vecs := Tab.put Vec.reset d.vecs k { x with masked := false, pending := false }
        out := if x.pending then d.out ++ [.msix f.val v.val] else d.out }

/-- For an OPEN context under no function level reset: the 32 bytes at CQ base + 32 (n mod SIZE) read as the record of
count n, whose word 7 holds PHASE and SEQ; every host byte outside them reads as before; the completion tail advances
by one, one record fewer is owed, and no other context changes. (R91, R92) -/
def Obligations.RecordsAreWhereTheySay : Prop :=
  ∀ (d : Dev) (c : Nat) (w : DescWords) (r : Fin_), c < 64 → (d.ctx c).st = .opened → (d.ctx c).tear = none →
    let x := d.ctx c
    let e := d.complete c w r
    let a := x.cqBase + 32 * (x.cqTail.toNat % x.cqSize)
    let n := x.cqTail.toNat
    Mem.read e.host a 32 = leWords (compHead w r (r.finish.getD d.now) ++ [dwN ((1 - n / x.cqSize % 2) + 2 * (n % 2 ^ 31))]) ∧
    (∀ b, b < a ∨ a + 32 ≤ b → Mem.get e.host b = Mem.get d.host b) ∧
    e.ctx c = { x with cqTail := x.cqTail + 1, owed := x.owed - 1 } ∧ (∀ k, k < 64 → k ≠ c → e.ctx k = d.ctx k) ∧
    e.descs = d.descs ∧ e.sheets = d.sheets ∧ e.plans = d.plans ∧ e.setup = d.setup ∧ e.locked = d.locked

/-- An event whose ring belongs to an OPEN context with room: the 32 bytes at EQ base + 32 (n mod SIZE) read as its
record, every other host byte reads as before and the event tail advances by one. Without room it is dropped, counted
in the drop counter and its context’s lost bit is set; with no OPEN context it is only counted. Host memory and
contexts are then unchanged. (R94) -/
def Obligations.EventsLandInTheirRing : Prop :=
  ∀ (d : Dev) (e : Ev),
    let c := d.evDest e
    let x := d.ctx c
    let t := d.event e
    let a := x.eqBase + 32 * (x.eqTail.toNat % x.eqSize)
    c < 64 →
    (x.st = .opened → (x.eqTail - x.eqHead).toNat < x.eqSize →
      Mem.read t.host a 32 = e.bytes d.now (recWord7 x.eqTail x.eqSize) ∧
      (∀ b, b < a ∨ a + 32 ≤ b → Mem.get t.host b = Mem.get d.host b) ∧ t.ctx c = { x with eqTail := x.eqTail + 1 } ∧
      t.regs = d.regs) ∧
    (x.st = .opened → x.eqSize ≤ (x.eqTail - x.eqHead).toNat →
      t = (d.count cEvtDrop).setOwn (cEvtLostLo + 4 * (c / 32)) ((d.count cEvtDrop).own (cEvtLostLo + 4 * (c / 32)) ||| dwN (2 ^ (c % 32)))) ∧
    (x.st ≠ .opened → t = d.count cEvtDrop)

/-- The seventh word of every completion record is, read as s32, the ceiling of (FINISH - DEADLINE) / 1,000 saturated to
the s32 range, so negative or zero when the descriptor finished by its deadline, and zero when DEADLINE is 0. (R93) -/
def Obligations.LatenessField : Prop :=
  ∀ (w : DescWords) (r : Fin_) (finish : Nat),
    let l : DW := (compHead w r finish).getD 6 0
    (w.deadline = 0 → l = 0) ∧
    (w.deadline ≠ 0 → ∀ z : Int, 1000 * (z - 1) < (finish : Int) - w.deadline → (finish : Int) - w.deadline ≤ 1000 * z →
      l.toInt = max (-(2 ^ 31)) (min (2 ^ 31 - 1) z))

/-- DESCRIPTOR_FETCH with an entry to fetch and no held group ready before it, of the primary context or with none there of
the next context in turn, reads 64 bytes at its place in the ring, advances the head and enters the entry;
FENCE_BEFORE_RELEASE takes one held group of the ring whose turn it is, and on another ring does nothing;
RIBBON_ROW_GRANT lets a reader pass its next written row and a writer form its next row as far as its inputs and its
readers allow; PART_DISPATCH cuts a ready descriptor; PART_FINISH ends the running part of a leaf, which takes its next;
DESCRIPTOR_COMPLETE ends a descriptor all of whose parts have finished. (R58, R83, R85, R86, R33, R36, R41) -/
def Obligations.FetchAndTokensComplete : Prop :=
  ∀ s : State, s.dev.running = true →
    let d := s.dev
    (∀ c n, d.primary.bind (fun c => (d.nextRing c).map (fun n => (c, n))) = some (c, n) → d.groupReady c n = false →
      let r := (d.ctx c).sq.getD n Ring.reset
      let b := Mem.read d.host (r.base + 64 * (r.head.toNat % r.size)) 64
      Goes .descriptorFetch s
        ((d.modCtx c (fun x => { x with sq := x.sq.setIfInBounds n { r with head := r.head + 1 } })).enterRing c n
          (Vector.ofFn (fun i => bw b i.val))).settle) ∧
    (∀ c n, d.primary.bind (fun c => (d.nextRing c).map (fun n => (c, n))) = none →
      ((List.range 64).map (fun k => (d.rr + 1 + k) % 64)).findSome? (fun c => (d.nextRing c).map (fun n => (c, n))) = some (c, n) →
      ({ d with rr := c } : Dev).groupReady c n = false →
      let r := (d.ctx c).sq.getD n Ring.reset
      let b := Mem.read d.host (r.base + 64 * (r.head.toNat % r.size)) 64
      Goes .descriptorFetch s
        (({ d with rr := c }.modCtx c (fun x => { x with sq := x.sq.setIfInBounds n { r with head := r.head + 1 } })).enterRing c n
          (Vector.ofFn (fun i => bw b i.val))).settle) ∧
    (∀ (c : CtxId) (n : Fin 4),
      (d.nextHeld = some (c.val, n.val) →
        Goes (.fenceBeforeRelease c n) s ((if d.primary = some c.val then d else { d with rr := c.val }).takeGroup c.val n.val).settle) ∧
      (d.nextHeld ≠ some (c.val, n.val) → Goes (.fenceBeforeRelease c n) s d)) ∧
    (∀ (h : BitVec 22) (id : Nat) (r : Req) (x : Desc),
      let i := shIdx (h.zeroExtend 32)
      let z := d.sheet i
      z.ribbon = true → z.q.find? (fun r => r.desc == id && r.st == .granted) = some r → d.desc? id = some x →
      (r.write = false → Tab.getD z.rowRel id 0 < z.rowsDone →
        Goes (.ribbonRowGrant h id) s (d.setSheet i { z with rowRel := Tab.set z.rowRel id (Tab.getD z.rowRel id 0 + 1) })) ∧
      (r.write = true → z.rowsDone < d.frameRows x i → d.rowFormed x i z.rowsDone = true → d.mayWriteRow i id z.rowsDone = true →
        Goes (.ribbonRowGrant h id) s (d.setSheet i { z with rowsDone := z.rowsDone + 1 }))) ∧
    (∀ (id : Nat) (x y : Desc), d.desc? id = some x → (opDefOf x.w).isSome = true → x.phase = .waiting →
      (d.resolve id).desc? id = some y → (d.resolve id).doomOf y = none → (d.resolve id).readyToRun y = true →
      (d.resolve id).copyShort y = false → Goes (.partDispatch id) s ((d.resolve id).dispatchParts y).settle) ∧
    (∀ (l : BitVec 12) (crc : DW) (x : Desc),
      d.descs.find? (fun x => x.live && x.parts.any (fun p => p.leaf == l.toNat && p.st == .running)) = some x →
      x.uses.any (fun u => d.stalled (shIdx u.h)) = false →
      Goes (.partFinish l crc) s
        ((d.modDesc x.id (fun y => { y with parts := setPart l.toNat .running .finished crc d.now y.parts })).takeNext l.toNat).crcTake) ∧
    (∀ (id : Nat) (x : Desc), d.desc? id = some x → x.phase = .dispatched → x.allFinished = true → d.ribbonsOk x = true →
      d.heldBack id = false → (x.compares && (d.crcUnit id).isNone) = false → Goes (.descriptorComplete id) s (d.finishRun id).settle)

/-- For a sheet none of whose requests is doomed: the first request that may be granted is granted, and where it is that
of a descriptor a leaf runs, which nothing dooms, its copies are resolved; with no request that may be granted nothing
changes. (R54, R55) -/
def Obligations.TokenGrantGrants : Prop :=
  ∀ (h : BitVec 22) (s : State), s.dev.running = true → s.dev.sec.mapWait = none →
    let d := s.dev
    let i := shIdx (h.zeroExtend 32)
    (∀ r ∈ (d.sheet i).q, ∀ st, r.st ≠ .doomed st) →
    ((d.sheet i).nextGrant = none → Goes (.tokenGrant h) s d) ∧
    (∀ (r : Req) (x : Desc), (d.sheet i).nextGrant = some r →
      let e := d.grantReq i r
      e.desc? r.desc = some x → (opDefOf x.w).isSome = true → ((e.resolve x.id).desc? x.id).bind (fun y => y.doom) = none →
      (e.resolve x.id).sec.mapWait = none → Goes (.tokenGrant h) s (e.resolve x.id))

/-- HST_CTX_CTL.OPEN before the lock opens a context that may open; TEARDOWN before the lock starts the teardown of an
OPEN one; a failed ring access reports HST_DMA_FAULT and, of an OPEN context, starts the teardown with cause 3; TEARDOWN_FINISH retires a
teardown whose descriptors have ended, AUTO_OPEN opens a CLOSED context marked for it, a configuration write sets
NumVFs, VF Enable and the function’s Bus Master Enable. (R79, R80, R81, R103, R104, R105, R106) -/
def Obligations.ContextEventsComplete : Prop :=
  ∀ (c : CtxId) (s : State), s.dev.running = true →
    let d := s.dev
    let x := d.ctx c.val
    (d.locked = false → x.st = .closed → d.funcOn (d.func c.val) = true → Goes (.hstCtxOpenReg c) s (d.openCtx c.val).settle) ∧
    (d.locked = false → x.st = .opened →
      Goes (.hstCtxTeardownReg c) s (d.tearStart c.val { cause := 1, owner := none, silent := false }).settle) ∧
    (x.st = .opened → ∀ (n : Fin 4) (a : QW),
      Goes (.ringDmaFault c (.sq n) a) s
        ((d.event { code := 0x04, ctx := some c.val, d4 := dwN a.toNat, d5 := dwN (a.toNat / 2 ^ 32), d6 := dwN n.val }).tearStart c.val
          { cause := 3, owner := none, silent := false }).settle) ∧
    (x.st = .tearing → d.silent c.val = false → ∀ (n : Fin 4) (a : QW),
      Goes (.ringDmaFault c (.sq n) a) s
        (d.event { code := 0x04, ctx := some c.val, d4 := dwN a.toNat, d5 := dwN (a.toNat / 2 ^ 32), d6 := dwN n.val }).settle) ∧
    (x.st = .tearing → x.tear.isSome = true → d.tearDone c.val = true → Goes (.teardownFinish c) s (d.tearFinish c.val).settle) ∧
    (x.reopen = true → x.st = .closed → d.funcOn (d.func c.val) = true →
      let e := d.setCtx c.val { x with reopen := false }
      Goes (.autoOpen c) s (e.openCtx c.val).settle) ∧
    (∀ (f : Func) (n : Nat) (vf bm : Bool), d.sec.rrs = false →
      let l := d.pcie.bme.filter (· != f.val)
      let b := if bm then insertBy (fun a b => decide (a ≤ b)) f.val l else l
      Goes (.pcieConfigWrite f n vf bm) s
        { d with pcie := if f.val = 0 then { numVfs := Nat.min n 31, vfEn := vf, bme := b } else { d.pcie with bme := b } }) ∧
    (∀ f : Func, f.val ≠ 0 → (List.range 64).filter (fun k => f.val == 0 || d.func k == f.val) = [c.val] → x.st = .opened →
      let e := d.tearStart c.val { cause := 2, owner := none, silent := true }
      Goes (.functionLevelReset f) s { e with vecs := e.vecs.filter (fun p => !([f.val] : List Nat).contains (p.1 / 64)) }.settle)

/-- Before the lock a 32-bit write of a plain setup word sets its writable fields, keeps every other bit of it and leaves
every other setup word; VIS_DESC_SEED takes a non-zero seed; SPN_SNS_POOL takes a pool that free T1 can hold;
TB_TRIG.MODE queues the programmed schedule; PLG_CTL.ARM arms a swap; none touches the lock. (R9, R396, R73, R142,
R161, R187) -/
def Obligations.RegisterWritesComplete : Prop :=
  ∀ s : State, s.dev.running = true → s.dev.locked = false →
    let d := s.dev
    (∀ (off : BitVec 20) (v : QW) (t : State),
      let o := off.toNat
      let l := rwlAt d.board.variant o
      o % 4 = 0 → o ≠ 0x1004 → o ≠ 0x1010 → o ≠ 0x1014 → o ≠ 0x8004 → o ≠ 0x18090 → o ≠ 0x300C → ownWord o = false → l ≠ [] →
      exec (.registerWrite off false v) s = .next t →
        t.dev.reg o = fldWrite l (d.reg o) (dwN v.toNat) ∧
        (∀ k, k < 32 → (∀ f ∈ l, k < f.lo ∨ f.lo + f.w ≤ k) → (t.dev.reg o).getLsbD k = (d.reg o).getLsbD k) ∧
        (∀ p, p ≠ o → t.dev.reg p = d.reg p) ∧ t.dev.locked = false) ∧
    (∀ (off : BitVec 20) (v : QW), ∃ t, exec (.registerWrite off false v) s = .next t) ∧
    (∀ v : DW, v ≠ 0 → ∃ t, exec (.visDescSeedWrite v) s = .next t ∧ t.dev.reg 0xA000 = v ∧ (∀ p, p ≠ 0xA000 → t.dev.reg p = d.reg p) ∧
      t.dev.locked = false ∧ t.dev.sheets = d.sheets ∧ t.dev.host = d.host) ∧
    (∀ v : DW, bits v 7 0 ≤ t1Mib d.board.variant / 2 → d.regF 0x300C 7 0 < bits v 7 0 →
      (bits v 7 0 - d.regF 0x300C 7 0) * 256 ≤ d.tierFree 0 →
      ∃ t, exec (.spnSnsPoolWrite v) s = .next t ∧ t.dev.reg 0x300C = dwN (bits v 7 0) ∧ (∀ p, p ≠ 0x300C → t.dev.reg p = d.reg p) ∧
        t.dev.locked = false ∧ t.dev.sheets = d.sheets ∧ t.dev.host = d.host) ∧
    (∀ (n : Fin 9) (v : DW),
      let b := 0x8200 + 32 * n.val
      let z : Sched :=
        { mode := bits v 1 0, low := bitOf v 2, start := (d.own (b + 8)).toNat + 2 ^ 32 * (d.own (b + 12)).toNat,
          period := (d.own (b + 16)).toNat, width := (d.own (b + 20)).toNat }
      (schedBad d.now z = false → Goes (.tbTrigModeWrite n v) s ((d.setOwn b 0).queueTrig n.val none z)) ∧
      (schedBad d.now z = true → Goes (.tbTrigModeWrite n v) s (d.setOwn b 1))) ∧
    (∀ v : DW, bitOf v 0 = true → d.plg.swap = none →
      Goes (.plgCtlArmWrite v) s
        ((d.setOwn 0x9010 (v &&& 2)).armSwap
          { owner := none, at_ := (d.reg 0x9008).toNat + 2 ^ 32 * (d.reg 0x900C).toNat, applyCh := bitOf v 1,
            chans := d.plg.chans.toList.map (fun c => c.staged.getD c.cfg), switchedOn := 0 }))

/-- A read of TB_TIME_LO latches TIME_HI and TIME_FRAC of that instant and changes nothing else but what the bus returns:
the low word, or one consistent time for a 64-bit read. READ_REG returns the bytes of the register file as they stand
and leaves the timebase, every kept word and every setup word as they are, so it neither latches nor clears anything,
a write-one-to-clear field included. (R398) -/
def Obligations.TimeLowLatches : Prop :=
  (∀ (wide : Bool) (s : State), s.dev.running = true →
    let b := s.dev.tb
    Goes (.tbTimeLoRead wide) s
      { s.dev with
        tb := { b with hiLatch := b.time.extractLsb' 32 32, frLatch := b.sub.extractLsb' 16 16 }
        out := s.dev.out ++ [.readData (if wide then b.time else BitVec.ofNat 64 (b.time.toNat % 2 ^ 32))] }) ∧
  (∀ (k : SvcCmd) (s : State), s.dev.alive = true → s.dev.svcBusy = false → s.dev.sec.dead = false → k.reserved = 0 →
    4 ≤ k.arg.toNat / 2 ^ 32 % 2 ^ 16 → k.arg.toNat / 2 ^ 32 % 2 ^ 16 ≤ 4096 → k.arg.toNat / 2 ^ 48 = 0 →
    k.arg.toNat % 2 ^ 32 + k.arg.toNat / 2 ^ 32 % 2 ^ 16 ≤ 0x100000 →
    ∃ t, exec (.svcReadReg k) s = .next t ∧ t.dev.tb = s.dev.tb ∧ t.dev.regs = s.dev.regs ∧ t.dev.setup = s.dev.setup ∧
      t.dev.pwr = s.dev.pwr ∧ t.dev.ctxs = s.dev.ctxs ∧ t.dev.host = s.dev.host ∧
      t.dev.out = s.dev.out ++
        [.service .done k.tag 0 (s.dev.barBytes (k.arg.toNat % 2 ^ 32) (k.arg.toNat / 2 ^ 32 % 2 ^ 16))])

/-- A BIND or UNBIND with nothing left to wait for completes; a drain that has lasted 1 ms ends what is not held with
ABORTED_FENCE; a freed sheet nothing holds returns its space and the SHEET_FREE completes; a mover passes a segment,
after which the request of lowest class and acceptance runs, or with its last one moves or takes its CRC; a promotion
all of whose segments have moved decodes its home and becomes PRESENT with its plain content, or ends
FAILED_UNCORRECTABLE on a lost word, FAILED_CHECK on a stream that does not decode, REFUSED_MALFORMED on a tile past
64 KiB; one whose space has returned starts. (R34, R53, R61, R66, R68, R101) -/
def Obligations.UnitAndSheetEventsComplete : Prop :=
  ∀ s : State, s.dev.running = true →
    let d := s.dev
    (∀ (id : Nat) (x : Desc), d.desc? id = some x → x.await_ = .rebind [] →
      Goes (.gatheringRebindComplete id) s (d.endDesc id { st := .done, r4 := x.r4, r5 := x.r5 })) ∧
    (∀ (id : Nat) (r : Drain), d.drains.find? (fun r => r.owner == id) = some r → r.until_ ≤ d.now → 
      (r.waits = [] → Goes (.unitDisableDrainExpiry id) s d.settle) ∧
      (∀ (k : Nat) (y : Desc), r.waits = [k] → d.desc? k = some y → y.phase = .dispatched → y.await_ = .run →
        let e := { d with drains := mapIf (fun z => z.owner == id) (fun z => { z with aborted := z.aborted + 1 }) d.drains }
        Goes (.unitDisableDrainExpiry id) s (e.endDesc k { st := .abortedFence }).settle)) ∧
    (∀ (id i : Nat) (x : Desc), d.desc? id = some x → x.await_ = .free i [] → d.freeable i = true →
      Goes (.sheetFreeComplete id) s ((d.returnSheet i).endDesc id { st := .done }).settle) ∧
    (∀ (m : Fin 8) (j : MoveJob) (rest : List MoveJob), (d.mover m.val).jobs = j :: rest → (d.mover m.val).resetAt = none →
      (d.mover m.val).oos = false → d.jobStalled j = false →
      (1 < j.segs →
        Goes (.moverSegmentDone m) s
          (d.modMover m.val (fun x =>
            { x with jobs := insertBy jobLe { j with segs := j.segs - 1, running := true } rest }.begin_)).settle) ∧
      (j.segs ≤ 1 →
        let e := d.modMover m.val (fun x => { x with jobs := rest }.begin_)
        (∀ k, j.own = .copy k → Goes (.moverSegmentDone m) s e.settle) ∧
        (∀ id x, j.own = .desc id → e.desc? id = some x →
          (x.w.opc = 0x7C → Goes (.moverSegmentDone m) s (e.runCrc x ((e.crcUnit id).getD 6)).settle) ∧
          (x.w.opc ≠ 0x7C → Goes (.moverSegmentDone m) s (e.runMove x).settle)))) ∧
    (∀ (k : Nat) (c : Copy), d.copy? k = some c → c.st = .promoting →
      d.movers.toList.any (fun m => m.jobs.any (fun j => j.own == .copy k)) = false →
      let x := d.desc? c.order
      let r := d.decodeHome c.home ((x.map (fun y => y.w.tag)).getD 0) (x.map (fun y => y.ctx))
      let f := r.1.flagCopy k c.users r.2.1
      (r.2.2 = true → Goes (.copyPresent k) s (f.endCopy k .failedUncorrectable).settle) ∧
      (r.2.2 = false → f.homePlain c.home = none → Goes (.copyPresent k) s ((f.count cZpFail).endCopy k .failedCheck).settle) ∧
      (∀ b, r.2.2 = false → f.homePlain c.home = some b →
        (f.pastTile (f.sheet c.home).tier c.tier b.length = true → Goes (.copyPresent k) s (f.endCopy k .refusedMalformed).settle) ∧
        (f.pastTile (f.sheet c.home).tier c.tier b.length = false → c.users = [] → c.evicts = [] → x = none →
          let e := ((f.modCopy k (fun c => { c with
            st := .present
            cells := Mem.write [] 0 b
            synd := if (f.sheet c.home).zp then [] else (f.sheet c.home).synd
            stamp := f.now
            presentAt := f.now
            size := b.length
            evicts := [] })).count cPromote).modSheet c.home (fun z => z.release c.order .done)
          e.descs.any (fun x => x.await_ == .copy k false) = false → (e.sheet c.home).freeing = false →
          Goes (.copyPresent k) s e.settle))) ∧
    (∀ k : Nat, d.canStart k = true → Goes (.promotionSpaceReturned k) s (d.startCopy k).settle)

/-- A waiting schedule is installed once 2 µs have passed and no pulse runs; a leading edge falls at its time and its
trailing edge WIDTH later; a waiting TB_STEP ends FAILED_TIMEOUT after 2 s; an edge that its pin stamps, not within
100 ns of the last, sets LAST and counts; a source silent for its bound starts holdover with RATE = FREQ. (R132, R133,
R139, R142, R143) -/
def Obligations.TimebaseEventsComplete : Prop :=
  ∀ s : State, s.dev.running = true →
    let d := s.dev
    (∀ (o : Fin 9) (q : TrigWait) (rest : List TrigWait),
      let t := d.trig o.val
      t.queue = q :: rest → q.at_ ≤ d.now → t.pulse = none → q.owner = none → q.sched.mode = 2 →
      Goes (.trigInstall o) s
        (((d.setTrig o.val { t with cur := q.sched, next := some (edgeFrom q.sched d.now), queue := rest }).setOwn
          (0x8200 + 32 * o.val) 0).drive o.val q.sched.low)) ∧
    (∀ (o : Fin 9) (e : Nat),
      let t := d.trig o.val
      (t.pulse = some e → e ≤ d.now → d.now < e + 4 →
        Goes (.trigEdge o) s ((d.setTrig o.val { t with pulse := none }).drive o.val t.cur.low)) ∧
      (t.pulse = none → t.next = some e → e ≤ d.now → d.now < e + 4 → d.now < e + t.cur.width →
        Goes (.trigEdge o) s
          ((d.setTrig o.val
            { t with next := if t.cur.mode = 2 then some (e + t.cur.period) else none, pulse := some (e + t.cur.width) }).drive
            o.val (!t.cur.low)))) ∧
    (∀ x : Desc, d.descs.filter d.ppsLate = [x] →
      Goes .tbStepPpsTimeout s (d.endDesc x.id { st := .failedTimeout })) ∧
    (∀ (n : Fin 9) (rising : Bool),
      let c := d.tb.caps.getD n.val Cap.reset
      let m := d.regF (0x8080 + 16 * n.val) 1 0
      n.val ≠ 8 → (m = 3 ∨ (rising = true ∧ m = 1) ∨ (rising = false ∧ m = 2)) → (c.any = false ∨ c.last.toNat + 100 ≤ d.now) →
      ownSensor (d.regF (0x8080 + 16 * n.val) 15 8) = false → bitOf (d.reg (0x8080 + 16 * n.val)) 2 = false →
      Goes (.capEdge n rising) s
        { d with tb := { d.tb with
            caps := d.tb.caps.setIfInBounds n.val { c with count := c.count + 1, last := d.tb.time, any := true } } }) ∧
    (d.tbSource = 2 → d.tb.ppsLast + 1500000000 ≤ d.now → d.tb.holdover = false →
      Goes .holdoverEntry s
        ((d.modTb (fun t => { t with holdover := true, rate := t.freq, slewOnly := true })).event { code := 0x32, d4 := 1 }))

/-- A one-step Sync on the SLAVE port is an offset measured at its receive stamp, a Follow_Up completes the Sync before
it; a peer-delay request is kept with its receive stamp and the answers of the exchange are matched to the request; the
first Announce is stored and the port states follow; a MASTER whose interval has passed sends Sync, stamped, and its
Follow_Up, and its Announce; Signaling carries the programmed intervals; a stored Announce is forgotten after 3 s. A message on a port without PTP is dropped and counted. (R135, R136, R137, R138) -/
def Obligations.PtpEventsComplete : Prop :=
  ∀ (p : Fin 8) (s : State), s.dev.running = true →
    let d := s.dev
    let x := d.ptp p.val
    let rx := d.now - d.regF (0x8044 + 8 * p.val) 15 0
    (∀ m : PtpMsg, d.ptpOn p.val = false → Goes (.ptpMessageRx p m) s (d.count cEthDrop)) ∧
    (∀ m : PtpMsg, d.ptpOn p.val = true → m.domain.toNat = d.regF 0x8034 7 0 →
      (∀ o c, m.body = .sync false o c → x.st = .slave →
        Goes (.ptpMessageRx p m) s ((d.setPtp p.val { x with lastSync := some d.now, sync := none }).ptpOffset p.val rx o c)) ∧
      (∀ o c r c0, m.body = .followUp o c → x.sync = some (m.seq, r, c0) → x.st = .slave →
        Goes (.ptpMessageRx p m) s ((d.setPtp p.val { x with sync := none }).ptpOffset p.val r o (c + c0))) ∧
      (∀ t2, m.body = .pdelayResp t2 (d.portId p.val) → m.seq = x.reqSeq → x.t1.isSome = true →
        Goes (.ptpMessageRx p m) s (d.setPtp p.val { x with t4 := some rx, t2 := some t2.toNat })) ∧
      (m.body = .pdelayReq → Goes (.ptpMessageRx p m) s (d.setPtp p.val { x with reqRx := some (m.seq, m.source, rx) })) ∧
      (∀ v, m.body = .announce v → x.best = none →
        Goes (.ptpMessageRx p m) s (d.setPtp p.val { x with best := some (v, m.source, d.now) }).ptpStates)) ∧
    (d.ptpOn p.val = true → x.st = .master → d.tb.txq.length < 64 → d.due x.syncAt (d.syncNs p.val) = true →
      let msg (b : PtpBody) : Out :=
        .ptp p.val { domain := BitVec.ofNat 8 (d.regF 0x8034 7 0), seq := x.seqSync, source := d.portId p.val, body := b }
      let stamp := d.now + d.regF (0x8044 + 8 * p.val) 31 16
      Goes (.ptpMessageTx p .sync) s
        { d with
          tb := { d.tb with
            ports := d.tb.ports.setIfInBounds p.val { x with seqSync := x.seqSync + 1, syncAt := some d.now }
            txq := d.tb.txq ++ [(BitVec.ofNat 16 (x.seqSync.toNat % 2 ^ 14), p.val, stamp)] }
          out := d.out ++ [msg (.sync true 0 0)] ++ [msg (.followUp (BitVec.ofNat 64 stamp) 0)] }) ∧
    (d.ptpOn p.val = true →
      let say (y : PtpPort) (seq : BitVec 16) (b : PtpBody) : Dev :=
        (d.setPtp p.val y).emitOut (.ptp p.val
          { domain := BitVec.ofNat 8 (d.regF 0x8034 7 0), seq := seq, source := d.portId p.val, body := b })
      (x.st = .master → d.due x.annAt (10 ^ 9) = true →
        Goes (.ptpMessageTx p .announce) s
          (say { x with seqAnn := x.seqAnn + 1, annAt := some d.now } x.seqAnn (.announce d.annPrio))) ∧
      Goes (.ptpMessageTx p .signaling) s
        (say { x with seqSig := x.seqSig + 1 } x.seqSig
          (.signaling (sext 8 (d.regF (0x8040 + 8 * p.val) 23 16)) (sext 8 (d.regF (0x8040 + 8 * p.val) 15 8))))) ∧
    (∀ v w t, x.best = some (v, w, t) → t + 3000000000 ≤ d.now →
      Goes (.ptpAnnounceTimeout p) s (d.setPtp p.val { x with best := none }).ptpStates)

/-- A stamp enters the queue while it holds fewer than 64; otherwise it is dropped, TX_DROP counts it and TX_OVF is set. A
queue of at most 64 stays one. (R138) -/
def Obligations.TxStampQueueHolds64 : Prop :=
  ∀ (d : Dev) (p sid stamp : Nat),
    let r := d.pushStamp p sid stamp
    (d.tb.txq.length < 64 → r.2 = true ∧ r.1.tb.txq = d.tb.txq ++ [(BitVec.ofNat 16 sid, p, stamp)] ∧ r.1.tb.txDrop = d.tb.txDrop) ∧
    (64 ≤ d.tb.txq.length → r.2 = false ∧ r.1.tb.txq = d.tb.txq ∧ r.1.tb.txDrop = d.tb.txDrop + 1 ∧ r.1.tb.txOvf = true) ∧
    (d.tb.txq.length ≤ 64 → r.1.tb.txq.length ≤ 64)

/-- For every offset, interval and timebase the updated FREQ and RATE lie within the slew limit, FREQ moves against the
offset, and SAT says whether RATE was cut. (R129) -/
def Obligations.ServoBounds : Prop :=
  ∀ (ppm tau : Nat) (o dt : Int) (b : Tb), 0 < dt →
    let l := slewLim ppm
    let e := servo l tau o dt b
    (-l ≤ e.freq ∧ e.freq ≤ l) ∧ (-l ≤ e.rate ∧ e.rate ≤ l) ∧
    (-l ≤ b.freq → b.freq ≤ l → 0 ≤ o → e.freq ≤ b.freq) ∧ (-l ≤ b.freq → b.freq ≤ l → o ≤ 0 → b.freq ≤ e.freq) ∧
    (e.sat = false → tau ≠ 0 → e.rate = e.freq - ((clampI o (-(2 ^ 30)) (2 ^ 30) * 2 ^ 32).tdiv (tau * 1000000)))

/-- On a port and channel of one enabled camera: a Frame Start with no frame open takes pool space, or without it opens a
dropped frame that is counted; a pixel line of the camera’s data type below its height is written at its place, cut to
the line, a length that differs and a payload error noted, and one past the width ends the frame; a Frame End ends the open frame. Without a camera each is counted as
dropped. (R112, R115, R116, R127) -/
def Obligations.CameraEventsComplete : Prop :=
  ∀ (p : Fin 8) (vc : Fin 16) (s : State), s.dev.running = true →
    let d := s.dev
    (d.camsOf p.val vc.val = [] → ∀ n, Goes (.csiFrameStart p vc n) s (d.count cCsiDrop) ∧ Goes (.csiFrameEnd p vc) s (d.count cCsiDrop)) ∧
    (∀ c, d.camsOf p.val vc.val = [c] →
      let mk (dropped : Bool) (i : Nat) (n : BitVec 16) : Frame :=
        { cam := c, dropped := dropped, sheet := i, number := n, lines := 0, trunc := false, crcBad := false, emb := [] }
      (∀ n i e, d.frame? c = none → d.slotHeld c = false → d.takeLanding (d.camLine c * d.camH c) = some (i, e) →
        Goes (.csiFrameStart p vc n) s (e.setFrame c (some (mk false i n)))) ∧
      (∀ n, d.frame? c = none → d.slotHeld c = true ∨ d.takeLanding (d.camLine c * d.camH c) = none →
        Goes (.csiFrameStart p vc n) s ((d.dropUnit c (d.snsSeq c)).setFrame c (some (mk true 0 n)))) ∧
      (∀ (dt : BitVec 6) (crcOk : Bool) (data : Bytes) (f : Frame), d.frame? c = some f → dt.toNat ≠ 0x12 → d.camDt c = dt.toNat →
        f.dropped = false → f.lines < d.camH c →
        let g := (d.rawWrite f.sheet (d.camLine c * f.lines) (data.take (d.camLine c))).setFrame c
          (some { f with
            crcBad := f.crcBad || !crcOk
            lines := f.lines + 1
            trunc := f.trunc || decide (data.length ≠ d.camLine c) })
        (data.length ≤ d.camLine c → Goes (.csiLinePacket p vc dt true crcOk data) s g) ∧
        (d.camLine c < data.length → Goes (.csiLinePacket p vc dt true crcOk data) s (g.endFrame c))) ∧
      (∀ f, d.frame? c = some f → Goes (.csiFrameEnd p vc) s (d.endFrame c)))

/-- A frame on a disabled port, with a bad FCS, a fragment, too long, for another address, matching no filter or for a
disabled sensor is discarded and counted; a PTP frame passes on, or where PTP is off is counted; a matched one without a
buffer counts as lost; one with a buffer is checked, parsed where it is good, and lands with its arrival time, its
flags and what its parser gave. An accepted CAN frame is acknowledged in NORMAL mode and lands, another is counted, an
erroneous one is answered with an error frame and counted; what bus-off loses sets OVERRUN; bus-off and its recovery are
kept. An active SPI edge starts a transaction, or while one runs is an overrun; a transaction of a disabled sensor ends
with its sample in the block. A link’s level is kept and reported. (R109, R110, R111, R127) -/
def Obligations.PacketPortsComplete : Prop :=
  ∀ s : State, s.dev.running = true →
    let d := s.dev
    (∀ (p : Fin 6) (ok buf : Bool) (f : Bytes),
      let e := ethParse f
      (bitOf (d.reg (0x4200 + 16 * p.val)) 0 = false → Goes (.ethFrameRx p ok buf f) s (d.count cEthDrop)) ∧
      (bitOf (d.reg (0x4200 + 16 * p.val)) 0 = true →
        (ok = false → Goes (.ethFrameRx p ok buf f) s (d.count cFcs)) ∧
        (ok = true → e.etype = 0x88F7 → Goes (.ethFrameRx p ok buf f) s (if d.ptpOn p.val then d else d.count cEthDrop)) ∧
        (ok = true → e.etype ≠ 0x88F7 → (e.frag = true ∨ 9216 < f.length ∨ d.macFor p.val f = false) →
          Goes (.ethFrameRx p ok buf f) s (d.count cEthDrop)) ∧
        (ok = true → e.etype ≠ 0x88F7 → e.frag = false → f.length ≤ 9216 → d.macFor p.val f = true →
          let hit := (List.range 16).findSome? (fun k => (d.filterHit k p.val e).map (fun b => (k, b)))
          (hit = none → Goes (.ethFrameRx p ok buf f) s (d.count cEthDrop)) ∧
          (∀ k b, hit = some (k, b) →
            let z := d.regF (0x430C + 16 * k) 7 0
            let at_ := d.now - d.regF (0x8044 + 8 * p.val) 15 0
            (d.snsOn z = false ∨ z < 0x20 → Goes (.ethFrameRx p ok buf f) s (d.count cEthDrop)) ∧
            (d.snsOn z = true → 0x20 ≤ z → buf = false → Goes (.ethFrameRx p ok buf f) s ((d.dropUnit z (d.snsSeq z)).noteMapped z at_)) ∧
            (d.snsOn z = true → 0x20 ≤ z → buf = true →
              let io := d.ioDecode (8 + p.val)
              let q := io.1.parserOf z
              let chk := io.1.parserCheck q b
              let g := io.1.noteParser q chk b
              let lidar := decide (z < 0x28)
              let kind := if lidar then 1 else if z = 0x50 then 4 else 5
              let open_ := if chk.isNone && !e.summed then aUnchecked else 0
              (e.bad = true ∨ chk = some false ∨ io.2 = true →
                Goes (.ethFrameRx p ok buf f) s
                  (g.landPacked z kind (aCrcBad + open_) at_ 0 b [] 0 (dwN (if lidar then k else 0)) (dwN (if lidar then 0 else k))
                    (g.parserBad q))) ∧
              (e.bad = false → chk ≠ some false → io.2 = false →
                let r := g.parse q lidar (fun i => (Sys2Proof.Config.freeValue (g.free + i)).toNat) b
                let h := { g with free := g.free + r.points.length }
                let out := if lidar then r.points.flatten else (r.meas.toList.map (fun x => toLe (BitVec.ofInt 64 x).toNat 8)).flatten
                (r.dead = false →
                  Goes (.ethFrameRx p ok buf f) s
                    (h.landPacked z kind open_ at_ r.stamp b out (if lidar then r.points.length else 1)
                      (if lidar then dwN k else r.msg) (if lidar then 0 else dwN k) r.err)) ∧
                (r.dead = true →
                  Goes (.ethFrameRx p ok buf f) s
                    (h.landPacked z kind open_ at_ r.stamp b [] 0 (if lidar then dwN k else r.msg) (if lidar then 0 else dwN k) r.err)))))))) ∧
    (∀ (n : Fin 4) (f : CanFrame),
      let o := 0x6000 + 0x200 * n.val
      let normal := !bitOf (d.reg o) 1
      let e := if normal then (d.emitOut (.canAck n.val)).canCount n.val false else d
      let hit := (List.range 32).any (fun k =>
        let w := d.reg (o + 0x100 + 8 * k)
        let m := d.regF (o + 0x104 + 8 * k) 28 0
        bitOf w 30 && bitOf w 29 == f.ext && (bits w 28 0 &&& m) == (f.id.toNat &&& m))
      bitOf (d.reg o) 0 = true → 
        (Tab.get? d.sns.canStart n.val = none →
          (f.error = false → f.remote = false → hit = true → d.snsOn (0x40 + n.val) = true →
            let io := e.ioDecode (14 + n.val)
            Goes (.canFrameRx n f) s
              (io.1.landPacked (0x40 + n.val) 3 (if io.2 then aCrcBad else 0) d.now 0 f.data [] 0
                (dwN (f.id.toNat + b2n f.ext * 2 ^ 29 + b2n f.fd * 2 ^ 30 + b2n f.brs * 2 ^ 31)) (dwN (f.data.length % 128)) none)) ∧
          (f.error = false → (f.remote = true ∨ hit = false ∨ d.snsOn (0x40 + n.val) = false) → Goes (.canFrameRx n f) s (e.count cCanFilt)) ∧
          (f.error = true →
            (normal = true → Goes (.canFrameRx n f) s ((d.emitOut (.canError n.val (d.canPassive n.val))).canCount n.val true)) ∧
            (normal = false → Goes (.canFrameRx n f) s d)) ∧
          Goes (.snsCanBusOff n) s
            ({ d with sns := { d.sns with canStart := Tab.set d.sns.canStart n.val d.now } }.event { code := 0x25, d4 := dwN n.val })) ∧
        (Tab.get? d.sns.canStart n.val ≠ none →
          (f.error = false → f.remote = false → hit = true → d.snsOn (0x40 + n.val) = true →
            Goes (.canFrameRx n f) s (d.setLanding (0x40 + n.val) { d.landing (0x40 + n.val) with ovr := true })) ∧
          (f.error = true ∨ f.remote = true ∨ hit = false → Goes (.canFrameRx n f) s d))) ∧
    (∀ n : Fin 4, Tab.get? d.sns.canStart n.val ≠ none →
      Goes (.canBusOffRecovery n) s
        { d with sns := { d.sns with canStart := Tab.del d.sns.canStart n.val, canRec := Tab.put 0 d.sns.canRec n.val 0 } }) ∧
    (∀ (p : Fin 14) (up : Bool), (p.val < 8 ∨ up = true) →
      let l := d.sns.csiUp.filter (· != p.val)
      Goes (.snsLink p up) s
        ({ d with sns := { d.sns with csiUp := if up then insertBy (fun a b => decide (a ≤ b)) p.val l else l } }.event
          { code := 0x21, d4 := dwN (p.val + b2n up * 16) })) ∧
    (∀ (n : Fin 4) (rising : Bool), rising ≠ bitOf (d.reg (0x6800 + 0x40 * n.val)) 2 →
      (∀ t, (d.spi n.val).running = some t →
        Goes (.spiDrdyEdge n rising) s
          ((((d.count cSpiOvr).setSpi n.val { d.spi n.val with missed := (d.spi n.val).missed + 1 }).setLanding (0x30 + n.val)
            { d.landing (0x30 + n.val) with ovr := true }).event { code := 0x24, d4 := dwN n.val })) ∧
      ((d.spi n.val).running = none →
        Goes (.spiDrdyEdge n rising) s
          ((d.setSpi n.val { d.spi n.val with running := some d.now }).emitOut
            (.spiStart n.val (((List.range 8).flatMap (fun k => le32 (d.reg (0x6800 + 0x40 * n.val + 0x20 + 4 * k)))).take (d.spiLen n.val)))))) ∧
    (∀ (n : Fin 4) (rx : Bytes) (t : Nat), (d.spi n.val).running = some t → d.snsOn (0x30 + n.val) = false →
      d.parserCheck (d.parserOf (0x30 + n.val)) (bslice rx 0 (d.spiLen n.val)) = none →
      let x := d.spi n.val
      let b := bslice rx 0 (d.spiLen n.val)
      let r := d.parse (d.parserOf (0x30 + n.val)) false (fun _ => 0) b
      Goes (.spiTransactionDone n rx) s
        ((d.setSpi n.val
          { running := none, stamps := x.stamps ++ [t], raw := x.raw ++ [b],
            parsed := x.parsed ++ [(r.meas.map (satS 32)).toList.map dwI], crcBad := x.crcBad, unchecked := true,
            perr := (match x.perr with | some k => some k | none => r.err),
            sstamp := if x.raw.isEmpty then r.stamp else x.sstamp, missed := 0 }).spiBlock n.val))

/-- A selector closes by time once device time has reached END + WAIT_US, not before; a landed unit past its retention
that no descriptor holds and that no open selector may match, or that is bad, is released, and its landing sheet with its last unit. (R114,
R121, R123) -/
def Obligations.SelectorsAndUnitsComplete : Prop :=
  ∀ s : State, s.dev.running = true →
    let d := s.dev
    (∀ (id job : Nat) (x : Desc) (m : SelMatch), d.desc? id = some x → x.sels[job]? = some m →
      (m.stop + m.waitUs * 1000 ≤ d.now → Goes (.selectorCloseTime id job) s (d.closeSel id job true).settle) ∧
      (d.now < m.stop + m.waitUs * 1000 → Goes (.selectorCloseTime id job) s d.settle)) ∧
    (∀ (u : Nat) (x : LUnit), Tab.get? d.sns.units u = some x →
      (d.now ≤ x.mapped + d.retainNs x.sensor → Goes (.unitRelease u) s d) ∧
      (x.mapped + d.retainNs x.sensor < d.now → x.held = [] → x.bad = true ∨ d.mayMatch x.sensor false x.mapped = false →
        let e := { d with
          sns := { d.sns with units := Tab.del d.sns.units u }
          mir := { d.mir with fwd := d.mir.fwd.filter (fun w => w.unit != u) } }
        let used := e.sns.units.any (fun p => p.2.sheet == x.sheet) || e.mir.rx.any (fun p => !p.2.dropped && p.2.sheet == x.sheet)
        (used = true → Goes (.unitRelease u) s e) ∧
        (used = false → (d.landing x.sensor).sheet ≠ some x.sheet → Goes (.unitRelease u) s (e.freeSheet x.sheet).sweepFree) ∧
        (used = false → (d.landing x.sensor).sheet = some x.sheet →
          Goes (.unitRelease u) s
            (((e.setLanding x.sensor { d.landing x.sensor with sheet := none, fill := 0 }).freeSheet x.sheet).sweepFree))))

/-- While the engine runs and no swap is pending an enabled channel takes its oldest sample at its stamp; 10 ms after
SWAP_TIME every channel without input in those 10 ms switches; the first waiting PLG_SWAP that may read its image, well
formed and free of unusable words, loads it into the inactive bank and arms the swap. (R149, R159, R160) -/
def Obligations.PloughEventsComplete : Prop :=
  ∀ s : State, s.dev.running = true →
    let d := s.dev
    (∀ (k : Fin 32) (p : PSample) (rest : List PSample) (v : Int),
      let c := d.pch k.val
      c.pend = p :: rest → d.plg.en = true → d.plg.swap = none → p.value = some v →
      (chEn c.cfg = true → Goes (.ploughSlot k) s (((d.setPch k.val { c with pend := rest }).plgSample k.val p p.stamp).swapDone)) ∧
      (chEn c.cfg = false → Goes (.ploughSlot k) s (d.setPch k.val { c with pend := rest }))) ∧
    (∀ z : PlgSwap, d.plg.swap = some z → z.at_ + 10000000 ≤ d.now →
      let sw (k : Nat) (c : PlgCh) : PlgCh :=
        let got := z.feeds k c &&
          (z.passed c || c.pend.any (fun p => decide (z.at_ ≤ p.stamp ∧ p.stamp ≤ z.at_ + 10000000)))
        if c.switched ∨ got then c else { (c.install (z.cfgOf k c) (!d.plg.active)) with switched := true }
      Goes .plgSwapIdleSwitch s { d with plg := { d.plg with chans := d.plg.chans.mapIdx sw } }.swapDone) ∧
    (∀ (id : Nat) (rest : List Nat) (x : Desc), d.plg.swap = none → d.plg.waiting = id :: rest →
      let e := d.grantFor id
      let ap := bitOf (x.w.dw 8) 0
      let off := (x.w.dw 7).toNat
      let n := if ap then 448 else 320
      let b := e.rd x (x.w.dw 6) off n
      e.desc? id = some x → e.tokens id = (none, true) → (e.eccDecodeReads x [(x.w.dw 6, off, n)]) = (e, 0, false) → imageOk b ap = true →
      let p := (List.range 80).foldl (fun (p : Plg) i =>
        if i % 16 < 14 then p.setCoef (!p.active) (i / 16) (i % 16) (bw b i) else p) e.plg
      Goes .plgSwapLoad s
        (({ e with plg := { p with waiting := rest } }.modDesc id (fun y => { y with phase := .dispatched, flags := y.flags ||| 0 })).armSwap
          { owner := some id, at_ := x.w.q 10, applyCh := ap, chans := if ap then (List.range 32).map (fun k => bw b (80 + k)) else [],
            switchedOn := 0 }))

/-- A record whose STAMP is not later than that of the last record written for its channel is suppressed: no sheet, no log
count and no kept word changes, so nothing is counted as a drop. A record that is written becomes the channel’s last.
(R157) -/
def Obligations.PloughStampsRise : Prop :=
  ∀ (d : Dev) (k stamp : Nat) (value : Int) (settling sat gap scs : Bool), k < 32 →
    let e := d.plgRecord k stamp value settling sat gap scs
    (∀ t, (d.pch k).lastRec = some t → stamp ≤ t →
      e.sheets = d.sheets ∧ e.regs = d.regs ∧ e.plg.logs = d.plg.logs ∧ e.host = d.host ∧ e.mir = d.mir ∧ (e.pch k).lastRec = some t) ∧
    ((e.plog (k / 8)).count ≠ (d.plog (k / 8)).count →
      (e.pch k).lastRec = some stamp ∧ ∀ t, (d.pch k).lastRec = some t → t < stamp)

/-- Accepted from an OPEN context: NOP completes DONE; CTX_OPEN opens the context its word names and completes with its
generation in DW4; CTX_TEARDOWN starts the teardown; BIND binds its slot at the next generation, UNBIND unbinds it and
ends its disabling; each completes at once when nothing was accepted under the old generation, and otherwise
waits for those descriptors. (R29, R34, R80, R81, R103, R361) -/
def Obligations.ContextAndGatheringRowsComplete : Prop :=
  ∀ (c : CtxId) (w : DescWords) (x : Desc) (s : State), s.dev.running = true →
    let at_ (op : Nat) : Dev := (s.dev.taken c.val (w.withOp op)).1
    let go (op : Nat) : Prop := s.dev.starts c.val (w.withOp op) x
    (go 0x00 → Goes (.nop c w) s ((at_ 0x00).endDesc x.id { st := .done }).settle) ∧
    (go 0x03 →
      let e := (at_ 0x03).openCtx (w.f 6 5 0)
      Goes (.ctxOpen c w) s (e.endDesc x.id { st := .done, r4 := dwN (e.ctx (w.f 6 5 0)).gen.toNat }).settle) ∧
    (go 0x04 →
      Goes (.ctxTeardown c w) s
        (((at_ 0x04).modDesc x.id (fun y => { y with await_ := .teardown (w.f 6 5 0), phase := .dispatched })).tearStart (w.f 6 5 0)
          { cause := 0, owner := some x.id, silent := false }).settle) ∧
    (go 0x01 →
      let i := uIdx w.target
      let e := (at_ 0x01).bindSlot (w.withOp 0x01)
      let r := e.bindResult (w.withOp 0x01)
      Goes (.bind c w) s
        ((e.modDesc x.id (fun y => { y with await_ := .rebind ((at_ 0x01).acceptedUnder i x.id), phase := .dispatched, r4 := r.1, r5 := r.2 })).rebindDone
          x.id).settle) ∧
    (go 0x02 →
      let i := uIdx w.target
      let e := (at_ 0x02).unbindSlot i
      Goes (.unbind c w) s
        ((e.modDesc x.id (fun y => { y with await_ := .rebind ((at_ 0x02).acceptedUnder i x.id), phase := .dispatched })).rebindDone x.id).settle)

/-- An accepted UNIT_ENABLE of a disabled unit ends its disabling at acceptance, and the descriptor completes once no
incident holds the unit; of a unit never disabled it completes DONE with no effect; of one in a partition out of
service, whose class, form, target and kind are right, it completes REFUSED_DISABLED, and only its record is written.
(R102) -/
def Obligations.UnitEnableRow : Prop :=
  ∀ (c : CtxId) (w : DescWords) (s : State), s.dev.running = true →
    let v := w.withOp 0x06
    let d := (s.dev.taken c.val v).1
    let i := uIdx w.target
    (∀ x, s.dev.starts c.val v x → i ∈ d.disabled →
      Goes (.unitEnable c w) s
        (({ d with disabled := d.disabled.filter (· != i) }).modDesc x.id
          (fun y => { y with await_ := .enable i, phase := .dispatched })).settle.settle) ∧
    (∀ x, s.dev.starts c.val v x → ¬ i ∈ d.disabled → Goes (.unitEnable c w) s (d.endDesc x.id { st := .done }).settle) ∧
    (∀ p, s.dev.takes c.val → unitPart i = some p → s.dev.partState p = 4 → mayDisable w.target = true → s.dev.owner c.val = true →
      s.dev.flt.devOos = false → v.chain = false → headForm v .ring = true → v.zero 6 15 = true → s.dev.checkTarget w.target = none →
      Goes (.unitEnable c w) s ((s.dev.owing c.val).complete c.val v { st := .refusedDisabled }).settle)

/-- UNIT_DISABLE of a unit in service disables it at acceptance and drains what the unit has, for 1 ms at most; of one
disabled it waits for the drains of that unit, and with none left completes DONE. FLT_RESTORE of a partition out of service starts its restoring reset,
of one in service it completes DONE with no effect. (R101, R348, R351) -/
def Obligations.UnitDisableAndRestoreRows : Prop :=
  ∀ (c : CtxId) (w : DescWords) (x : Desc) (s : State), s.dev.running = true →
    let at_ (op : Nat) : Dev := (s.dev.taken c.val (w.withOp op)).1
    let go (op : Nat) : Prop := s.dev.starts c.val (w.withOp op) x
    let i := uIdx w.target
    (go 0x05 → ¬ i ∈ (at_ 0x05).disabled →
      let r : Drain :=
        { owner := x.id, index := i, until_ := (at_ 0x05).now + 1000000, waits := (at_ 0x05).drainSet w.target x.id, aborted := 0 }
      Goes (.unitDisable c w) s
        (({ at_ 0x05 with disabled := (at_ 0x05).disabled ++ [i], drains := (at_ 0x05).drains ++ [r] } : Dev).modDesc x.id
          (fun y => { y with await_ := .drain, phase := .dispatched })).settle.settle) ∧
    (go 0x05 → i ∈ (at_ 0x05).disabled →
      let l := (at_ 0x05).drains.filter (fun r => r.index == i)
      (l = [] → Goes (.unitDisable c w) s ((at_ 0x05).endDesc x.id { st := .done }).settle) ∧
      (l ≠ [] →
        let r : Drain := { owner := x.id, index := i, until_ := (at_ 0x05).now + 1000000, waits := l.map (fun r => r.owner), aborted := 0 }
        Goes (.unitDisable c w) s
          (({ at_ 0x05 with drains := (at_ 0x05).drains ++ [r] } : Dev).modDesc x.id
            (fun y => { y with await_ := .drain, phase := .dispatched })).settle)) ∧
    (go 0x7D → ¬ (i - 0x170) ∈ (at_ 0x7D).flt.partOos → Goes (.fltRestore c w) s ((at_ 0x7D).endDesc x.id { st := .done }).settle) ∧
    (go 0x7D → (i - 0x170) ∈ (at_ 0x7D).flt.partOos →
      Goes (.fltRestore c w) s
        (({ at_ 0x7D with flt := { (at_ 0x7D).flt with restores := (at_ 0x7D).flt.restores ++ [(i - 0x170, (at_ 0x7D).now, x.id)] } } : Dev).modDesc x.id
          (fun y => { y with await_ := .restore (i - 0x170), phase := .dispatched })).settle)

/-- SHEET_ALLOC takes the lowest free index, completes with the new handle and its charge; SHEET_FREE marks the sheet and
completes when nothing holds it; SHEET_PIN and EVICT without a copy at that tier complete DONE with DW4 0, and a pin
of one’s own copy is set or cleared with DW4 1; a MOVE that holds its tokens on an idle mover is moved; CRC_CHECK
with a CRC unit free and its mover idle completes with the CRC of its range in DW4, FAILED_CHECK where it was to equal
another value, and with no CRC unit free waits for one. (R48, R49, R50, R51,
R52, R53, R61, R63, R338) -/
def Obligations.SheetRowsComplete : Prop :=
  ∀ (c : CtxId) (w : DescWords) (x : Desc) (s : State), s.dev.running = true →
    let at_ (op : Nat) : Dev := (s.dev.taken c.val (w.withOp op)).1
    let held (op : Nat) : Dev := (at_ op).grantFor x.id
    let go (op : Nat) : Prop := s.dev.starts c.val (w.withOp op) x
    let holds (op : Nat) : Prop := s.dev.holds c.val (w.withOp op) x
    (go 0x08 →
      let r := (at_ 0x08).allocSheet (w.withOp 0x08)
      Goes (.sheetAlloc c w) s (r.1.endDesc x.id { st := .done, r4 := r.2.1, r5 := r.2.2 }).settle) ∧
    (go 0x09 →
      let i := shIdx (w.dw 6)
      let e := (((at_ 0x09).modDesc x.id (fun y => { y with await_ := .free i ((at_ 0x09).naming i x.id) })).freeSheet i).disarmAll
      Goes (.sheetFree c w) s (sheetFreeComplete x.id e).settle) ∧
    (go 0x0A → (at_ 0x0A).copyOf (shIdx (w.dw 6)) (w.f 7 2 1) = none →
      Goes (.sheetPin c w) s ((at_ 0x0A).endDesc x.id { st := .done, r4 := dwN 0, r5 := 0 }).settle) ∧
    (∀ k y, go 0x0A → (at_ 0x0A).copyOf (shIdx (w.dw 6)) (w.f 7 2 1) = some k → (at_ 0x0A).copy? k = some y →
      (y.owner = some (w.f 7 13 8) ∨ y.hasRef (w.f 7 13 8) = true) →
      (bitOf (w.dw 7) 0 = true → ¬ w.f 7 13 8 ∈ y.pins →
        Goes (.sheetPin c w) s
          (((at_ 0x0A).modCopy k (fun z => { z with pins := z.pins ++ [w.f 7 13 8] })).endDesc x.id { st := .done, r4 := dwN 1, r5 := 0 }).settle) ∧
      (bitOf (w.dw 7) 0 = false → w.f 7 13 8 ∈ y.pins →
        Goes (.sheetPin c w) s
          (((at_ 0x0A).modCopy k (fun z => { z with pins := z.pins.filter (· != w.f 7 13 8) })).endDesc x.id { st := .done, r4 := dwN 1, r5 := 0 }).settle)) ∧
    (go 0x0C → (at_ 0x0C).copyOf (shIdx (w.dw 6)) (w.f 7 2 1) = none →
      Goes (.evict c w) s ((at_ 0x0C).endDesc x.id { st := .done, r4 := dwN 0 }).settle) ∧
    (∀ k y, go 0x0C → (at_ 0x0C).copyOf (shIdx (w.dw 6)) (w.f 7 2 1) = some k → (at_ 0x0C).copy? k = some y → y.st = .present →
      (y.owner = some (w.f 7 13 8) ∨ y.hasRef (w.f 7 13 8) = true) →
      let r := (at_ 0x0C).evictBy k (w.f 7 13 8)
      Goes (.evict c w) s (r.2.endDesc x.id { st := .done, r4 := dwN (b2n r.1) }).settle) ∧
    (holds 0x0B → w.dw 7 ≠ 0 → ((held 0x0B).mover (moverOf w.target)).jobs = [] → ((held 0x0B).mover (moverOf w.target)).resetAt = none →
      (held 0x0B).stalled (shIdx (w.dw 6)) = false → (held 0x0B).stalled (shIdx (w.dw 7)) = false →
      Goes (.move c w) s ((held 0x0B).runMove x).settle) ∧
    (holds 0x0B → w.dw 7 = 0 → Goes (.move c w) s ((held 0x0B).runPromote x).settle) ∧
    (∀ u, holds 0x7C → (held 0x7C).crcFree = some u → ((held 0x7C).mover (moverOf w.target)).jobs = [] →
      ((held 0x7C).mover (moverOf w.target)).resetAt = none →
      (held 0x7C).descs.any (fun y => y.asksCrc && ((held 0x7C).crcUnit y.id).isNone) = false →
      let v := crcOf (w.f 6 2 0) ((held 0x7C).rd x (w.dw 7) (w.q 8) (w.q 10))
      let inSheet := bitOf (w.dw 6) 4
      let want := if inSheet then (held 0x7C).rdW x (w.dw 13) (w.dw 14).toNat else w.dw 12
      let rdr := (w.dw 7, w.q 8, w.q 10) :: (if inSheet then [(w.dw 13, (w.dw 14).toNat, 4)] else [])
      ((bitOf (w.dw 6) 3 = true ∨ v = want) →
        Goes (.crcCheck c w) s ((held 0x7C).conclude x { r4 := v, rdr := rdr, post := fun d => d.count cCrcJob }).settle) ∧
      (bitOf (w.dw 6) 3 = false → v ≠ want →
        Goes (.crcCheck c w) s
          ((held 0x7C).conclude x
            { st := .failedCheck, r4 := v, rdr := rdr,
              post := fun d => (d.count cCrcJob).crcMismatch u (w.f 6 2 0) want v x.w.tag x.w.target (some x.ctx) }).settle)) ∧
    (holds 0x7C → (held 0x7C).crcFree = none →
      Goes (.crcCheck c w) s ((held 0x7C).modDesc x.id (fun y => { y with phase := .dispatched })).settle)

/-- TB_TRIGGER queues its schedule; TB_STEP steps device time by the difference its words name, or waits for the next PPS;
PLG_SWAP waits to load its image; SCH_ARM takes its slot and raises SCH_ARMED; SCH_DISARM of a slot that is not armed
completes with no effect, of an armed one it stops further firings; MIR_TRACK adds or removes the sheet; MIR_RESYNC
starts a bulk resync and tells the partner, and on an UNPAIRED slot waits (the model’s reading of R323 and R327, log 104).
(R140, R141, R142, R149, R295, R296, R315, R323) -/
def Obligations.PlanAndTimebaseRowsComplete : Prop :=
  ∀ (c : CtxId) (w : DescWords) (x : Desc) (s : State), s.dev.running = true →
    let at_ (op : Nat) : Dev := (s.dev.taken c.val (w.withOp op)).1
    let go (op : Nat) : Prop := s.dev.starts c.val (w.withOp op) x
    let slot := w.f 6 3 0
    (go 0x10 →
      Goes (.tbTrigger c w) s
        (((at_ 0x10).modDesc x.id (fun y => { y with phase := .dispatched })).queueTrig slot (some x.id) (trigSched (w.withOp 0x10))).settle) ∧
    (go 0x11 → bitOf (w.dw 8) 0 = false →
      let delta := w.q 6 - (at_ 0x11).now
      let e := (at_ 0x11).stepTime delta
      Goes (.tbStep c w) s
        ((if e.tbSource = 0 then e.tbValid else e).endDesc x.id { st := .done, r4 := dwN delta, r5 := dwN (delta / 2 ^ 32) }).settle) ∧
    (go 0x11 → bitOf (w.dw 8) 0 = true →
      Goes (.tbStep c w) s
        ((at_ 0x11).modDesc x.id (fun y => { y with await_ := .pps (BitVec.ofNat 64 (w.q 6)) ((at_ 0x11).now + 2000000000) })).settle) ∧
    (go 0x14 → Goes (.plgSwap c w) s ({ at_ 0x14 with plg := { (at_ 0x14).plg with waiting := (at_ 0x14).plg.waiting ++ [x.id] } } : Dev).settle) ∧
    (go 0x70 → Goes (.schArm c w) s ((at_ 0x70).runArm x).settle) ∧
    (go 0x71 → Tab.get? (at_ 0x71).plans slot = none → Goes (.schDisarm c w) s ((at_ 0x71).endDesc x.id { st := .done }).settle) ∧
    (∀ p, go 0x71 → Tab.get? (at_ 0x71).plans slot = some p →
      Goes (.schDisarm c w) s
        ((((at_ 0x71).modDesc x.id (fun y => { y with await_ := .disarm slot p.armId, phase := .dispatched })).stopPlan slot).disarmNow slot).settle) ∧
    (go 0x78 →
      let add (m : MirSlot) : MirSlot :=
        { m with tracked := m.tracked.filter (fun t => t != w.dw 7) ++ (if bitOf (w.dw 6) 4 then [] else [w.dw 7]) }
      Goes (.mirTrack c w) s (((at_ 0x78).modSlot slot add).endDesc x.id { st := .done, r4 := 0, r5 := 0 }).settle) ∧
    (∀ p, go 0x79 → (w.f 6 5 4 = 1 ∨ w.f 6 5 4 = 2) → (at_ 0x79).mplan slot = some p → ((at_ 0x79).mslot slot).sync ≠ .unpaired →
      let who := if w.f 6 5 4 = 1 then (if (at_ 0x79).mir.verso then 2 else 1) else 3 - (if (at_ 0x79).mir.verso then 2 else 1)
      Goes (.mirResync c w) s
        ((((at_ 0x79).modDesc x.id (fun y => { y with await_ := .resync slot, phase := .dispatched })).startBulk slot who p.nextPeriod
          (some x.id)).sendResync slot who true).settle) ∧
    (∀ p, go 0x79 → (at_ 0x79).mplan slot = some p → ((at_ 0x79).mslot slot).sync = .unpaired →
      Goes (.mirResync c w) s ((at_ 0x79).modDesc x.id (fun y => { y with await_ := .resync slot, phase := .dispatched })).settle)

/-- With their tokens held: SEC_QUOTE writes the signed quote into a sheet large enough; SEC_INSTALL refuses a firmware
image with its reason or starts its staging, activates a slot whose image is good, raises the rollback floor to the
running SVN, and installs an owner record that passes its checks or counts and reports its reason. (R361, R362, R363,
R364, R366) -/
def Obligations.SecurityRowsComplete : Prop :=
  ∀ (c : CtxId) (w : DescWords) (x : Desc) (s : State), s.dev.running = true →
    let go (v : DescWords) : Prop := s.dev.holds c.val v x
    let held (v : DescWords) : Dev := (s.dev.taken c.val v).1.grantFor x.id
    let inst (a : Nat) : DescWords := (w.withOp 0x7F).withField 3 a
    let img (v : DescWords) : Bytes := (held v).rd x (w.dw 7) (w.q 8) (w.dw 10).toNat
    let rdr := [(w.dw 7, w.q 8, (w.dw 10).toNat)]
    (go (w.withOp 0x7A) → Goes (.secQuote c w) s ((held (w.withOp 0x7A)).runQuote x).settle) ∧
    (go (inst 0) → (held (inst 0)).sec.staging = none → ((held (inst 0)).eccDecodeReads x rdr).2.2 = false →
      let e := (held (inst 0)).eccDecodeReads x rdr
      (∀ r, fwBad (held (inst 0)).vault (held (inst 0)).board.variant (img (inst 0)) = some r →
        Goes (.secInstallStageFw c w) s ((e.1.secReject (some x) 0 r).endDesc x.id { st := .failedCheck, flags := e.2.1 }).settle) ∧
      (fwBad (held (inst 0)).vault (held (inst 0)).board.variant (img (inst 0)) = none →
        Goes (.secInstallStageFw c w) s
          ((e.1.startStage (img (inst 0)) (some x.id) x.w.tag).modDesc x.id
            (fun y => { y with await_ := .stage, phase := .dispatched, flags := y.flags ||| e.2.1 })).settle)) ∧
    (go (inst 1) → (held (inst 1)).sec.staging = none →
      let v := (held (inst 1)).vault
      let sl := bitOf (w.dw 6) 2
      (fwBad v (held (inst 1)).board.variant (v.slot sl) = none →
        Goes (.secInstallActivate c w) s
          (({ held (inst 1) with vault := v.update (fun q => { q with preferred := sl }) } : Dev).endDesc x.id { st := .done }).settle) ∧
      (fwBad v (held (inst 1)).board.variant (v.slot sl) ≠ none →
        Goes (.secInstallActivate c w) s ((held (inst 1)).endDesc x.id { st := .failedCheck }).settle)) ∧
    (go (inst 2) → (held (inst 2)).sec.staging = none →
      let v := (held (inst 2)).vault
      let r := if v.rollback < (held (inst 2)).sec.runSvn then (held (inst 2)).sec.runSvn else v.rollback
      Goes (.secInstallCommitSvn c w) s
        (({ held (inst 2) with vault := v.update (fun q => { q with rollback := r }) } : Dev).endDesc x.id { st := .done, r4 := r }).settle) ∧
    (go (inst 3) → (held (inst 3)).sec.staging = none →
      (ownerBad (held (inst 3)).vault (img (inst 3)) = none →
        Goes (.secInstallOwnerRecord c w) s
          ((held (inst 3)).conclude x
            { rdr := rdr, post := fun d => { d with vault := d.vault.install (img (inst 3)) } }).settle) ∧
      (∀ r, ownerBad (held (inst 3)).vault (img (inst 3)) = some r →
        Goes (.secInstallOwnerRecord c w) s
          ((held (inst 3)).conclude x { st := .failedCheck, rdr := rdr, post := fun d => d.secReject (some x) 1 r }).settle))

/-- Of the firings that may start the one of the earliest instant starts, of equal instants that of the lower slot; without
the partner’s debt at the bound it starts with SYNC_MISSED; a firing all of whose stages have their record is closed; a
digest becomes final, is kept and compared, and with the pair up the delta, the digest and the debt are sent; a running solve that sees its DEADLINE ends on its leaf. (R259, R297, R300, R301, R302,
R304, R316) -/
def Obligations.PlanEventsComplete : Prop :=
  ∀ s : State, s.dev.running = true →
    let d := s.dev
    (∀ (slot : Fin 16) (p : Plan) (t : Nat), Tab.get? d.plans slot.val = some p → d.mayFire slot.val = some t →
      ((∀ k u, k < 16 → d.mayFire k = some u → t < u ∨ (t = u ∧ slot.val ≤ k)) →
        (d.schedLate p = false → Goes (.periodFiring slot) s (d.startFiring slot.val p false) ∧ Goes (.schedWaitExpiry slot) s d) ∧
        (d.schedLate p = true → Goes (.schedWaitExpiry slot) s (d.startFiring slot.val p true) ∧ Goes (.periodFiring slot) s d)) ∧
      ((∃ k u, k < 16 ∧ d.mayFire k = some u ∧ (u < t ∨ (u = t ∧ k < slot.val))) →
        Goes (.periodFiring slot) s d ∧ Goes (.schedWaitExpiry slot) s d)) ∧
    (∀ slot : Fin 16, d.mayFire slot.val = none → Goes (.periodFiring slot) s d ∧ Goes (.schedWaitExpiry slot) s d) ∧
    (∀ (slot : Fin 16) (p : Plan), Tab.get? d.plans slot.val = some p → p.running = true → p.stages.length ≤ p.recs.length →
      Goes (.firingComplete slot) s (d.closeFiring slot.val).settle) ∧
    (∀ (slot : Fin 16) (p : Plan) (k : BitVec 64) (f : Bool),
      let m := d.mslot slot.val
      d.mplan slot.val = some p → m.unsent = some (k, f) →
      let dg : Dig :=
        { period := k, digest := sha3 (deltaStream k.toNat slot.val m.own), count := dwN m.own.length,
          bytes := BitVec.ofNat 64 (80 * m.own.length), fault := f || d.sec.tampered }
      let g := d.modSlot slot.val (fun z =>
        let z := { z with owns := ((dg, z.own) :: z.owns).take mirKeep, unsent := none }
        if z.sync = .bulk ∧ (z.bulk.map (fun b => decide (b.since ≤ k.toNat))).getD false then
          { z with fill := z.fill.filter (fun q => decide (k.toNat ≤ q.1)), fillFor := some k, fillEnd := false }
        else z)
      (g.mirUp = false → Goes (.digestFinal slot) s ((g.compareDig slot.val k.toNat).advanceSync slot.val)) ∧
      (g.mirUp = true →
        let h := if m.sync = .unpaired then g else g.sendDelta slot.val p k m.own
        let db := Digest.bytes dg.digest
        let h := h.mirControl 0x05 k.toNat (db.take 16)
          (toLe (slotWord slot.val p.ctx p.ctxGen.toNat (f || d.sec.tampered)) 4 ++ le32 dg.count ++ le64 dg.bytes ++ db.drop 16)
        let h := h.mirControl 0x04 k.toNat [] (toLe (slotWord slot.val p.ctx p.ctxGen.toNat false) 4 ++ toLe p.debt 4)
        Goes (.digestFinal slot) s ((h.compareDig slot.val k.toNat).advanceSync slot.val))) ∧
    (∀ (id iters : Nat) (within : Bool) (x : Desc), d.desc? id = some x → x.w.opc = 0x53 → x.phase = .dispatched → x.w.deadline ≠ 0 →
      tbReached d.now x.w.deadline = true → x.cutAt = none →
      Goes (.prsDeadlineHit id iters within) s
        (d.modDesc id (fun y => { y with cutAt := some (iters, within, d.now), parts := endParts d.now y.parts })).crcTake)

/-- A link that goes up sends ROLE, one that goes down reports the reason; a ROLE that fails is held with its first
reason, one that passes pairs the link and, as the first, brings the pair up; an unpaired link sends ROLE again after
100 ms; heartbeats go out on every link that is up once a millisecond, and a received one marks the link alive;
LOSS_MS without one makes the device ALONE, its links held. A foreign packet is counted; a queue pair that is established
again starts from 0 and drops what it was receiving; a CNP halves a rate, 55 µs without one restore 5 %. (R308, R309, R310, R312, R314, R324, R325) -/
def Obligations.MirrorLinkEventsComplete : Prop :=
  ∀ s : State, s.dev.running = true →
    let d := s.dev
    (∀ p : Fin 2, d.mirOn p.val = true → (d.link p.val).up = false →
      Goes (.mirLink p true) s
        (((d.modLink p.val (fun _ => { Link.reset with up := true, reason := 6, sentAt := d.now })).clearSeen.sendRole p.val).event
          { code := 0xB3, d4 := dwN (p.val + 2) })) ∧
    (∀ p : Fin 2, (d.link p.val).up = true →
      Goes (.mirLink p false) s
        (((d.modLink p.val (fun _ => { Link.reset with up := false, reason := 1, sentAt := d.now })).clearSeen.ptpLinkDown (6 + p.val)).event
          { code := 0xB3, d4 := dwN p.val }).pairCheck) ∧
    (∀ (p : Fin 2) (b : Bytes) (m : Msg), d.delivers p.val 0 0x02 b m (m.len == 2) →
      let e := d.received p.val 0
      let dg (k : Nat) : Digest := BitVec.ofNat 256 (bnat m.pay (4 * k) 32)
      let r : PeerRole :=
        { verso := bitOf (bw m.pay 0) 0, colophon := bw m.pay 1, meas := dg 2, config := dg 10, ident := dg 18, rkey := bw m.pay 26,
          base := BitVec.ofNat 64 (bnat m.pay 108 8), bytes := bw m.pay 29 }
      let why := e.roleReason p.val m.ver r
      let g := (e.modLink p.val (fun l => { l with peer := some r, reason := why, paired := decide (why = 0) })).clearSeen
      (why ≠ 0 → Goes (.mirRoleRx p b) s g.pairCheck) ∧
      (why = 0 → (e.link p.val).paired = false → g.mirUp = false → g.pairedLinks ≠ [] →
        (g.mir.lostAt = none ∨ ∃ l h, g.mir.lostAt = some l ∧ g.mir.lastHb = some h ∧ l < h) → r.config = g.pairUp.configDigest →
        Goes (.mirRoleRx p b) s { g.pairUp with mir := { g.pairUp.mir with configDiff := false } }) ∧
      (why = 0 →
        let h := (if (e.link p.val).paired then g.sendRole p.val else g).tryUp
        (r.config = h.configDigest → Goes (.mirRoleRx p b) s { h with mir := { h.mir with configDiff := false } }) ∧
        (r.config ≠ h.configDigest → h.mir.configDiff = false →
          let h := h.event { code := 0xB8 }
          Goes (.mirRoleRx p b) s { h with mir := { h.mir with configDiff := true } }))) ∧
    (∀ p : Fin 2, (d.link p.val).up = true → (d.link p.val).paired = false → (d.link p.val).sentAt + 100000000 ≤ d.now →
      Goes (.mirRoleRetry p) s
        (((d.modLink p.val (fun l => { l with reason := if l.peer.isNone then 6 else l.reason, peer := none })).mirReason).sendRole p.val)) ∧
    (d.mir.hbDue ≤ d.now → d.flt.devOos = false →
      let pay := toLe (d.mir.state + d.pairedLinks.foldl (fun n m => n + 2 ^ m) 0 * 8) 4
      let missed (e : Dev) (m : Nat) : Bool := ((e.link m).lastHb.map (fun t => decide (t + 1000000 < e.now))).getD true
      let beat (e : Dev) (m : Nat) : Dev :=
        if (e.link m).up then (if missed e m then e.count cMirHbMiss else e).mirSendOn m 0 0x01 e.now [] pay else e
      let e := beat (beat d 0) 1
      Goes .heartbeatTx s { e with mir := { e.mir with hbDue := e.now + 1000000 } }) ∧
    (∀ (p : Fin 2) (b : Bytes) (m : Msg), d.delivers p.val 0 0x01 b m (m.len == 1) →
      let e := (d.received p.val 0).modLink p.val (fun l => { l with lastHb := some d.now })
      Goes (.heartbeatRx p b) s { e with mir := { e.mir with lastHb := some d.now } }.tryUp) ∧
    (∀ u, d.mir.state ≠ 3 → d.mir.upAt = some u → Nat.max u (d.mir.lastHb.getD 0) + d.regF 0x14000 8 0 * 1000000 ≤ d.now →
      let lose (g : Dev) (last : Nat) : Dev :=
        let e := g.pairEnd 3
        let hold (l : Link) : Link := { l with paired := false, peer := none, reason := if l.up then 6 else l.reason }
        let e := { e with mir := { e.mir with lostAt := some e.now, links := e.mir.links.map hold } }
        (e.event { code := 0xB2, d5 := dwN last }).mirReason
      (∀ h, d.mir.lastHb = some h → Goes .mirPeerLost s (lose d h)) ∧
      (d.mir.lastHb = none →
        Goes .mirPeerLost s (lose { d with free := d.free + 1 } (Sys2Proof.Config.freeValue d.free).toNat))) ∧
    (∀ p : Fin 2, d.mirOn p.val = true → Goes (.mirForeignPacket p) s (d.count cMirDrop)) ∧
    (∀ (p : Fin 2) (q : Fin 4),
      let x := (d.link p.val).qps.getD q.val QPair.reset
      let put (y : QPair) : Dev := d.modLink p.val (fun l => { l with qps := l.qps.setIfInBounds q.val y })
      ((d.link p.val).up = true → q.val ≠ 1 →
        Goes (.mirQpReestablish p q) s ((put { QPair.reset with rate := x.rate }).dropRxs (fun _ => false))) ∧
      ((d.link p.val).up = true → q.val = 1 →
        let lost (own : Nat) : Bool := d.linkFor (own % 2) == some p.val
        let e := (put { QPair.reset with rate := x.rate }).dropRxs lost
        Goes (.mirQpReestablish p q) s { e with mir := { e.mir with rxSeq := e.mir.rxSeq.filter (fun r => !lost r.1) } }) ∧
      ((d.link p.val).up = false → Goes (.mirQpReestablish p q) s d) ∧
      Goes (.mirCnpRx p q) s ((put { x with rate := x.rate / 2 }).count cMirCnp) ∧
      Goes (.mirRateRestore p q) s (put { x with rate := Nat.min 10000 (x.rate + 500) }))

/-- With one link paired, each is taken once: PLAN keeps the partner’s plan, of another context or generation without what
the earlier one sent, and pairs the slot; SCHED keeps the partner’s debt, or when late is reported; DIGEST is kept and
compared; RESYNC starts a bulk resync; one that does not name the partner’s armed plan is counted as stale, and changes
nothing else. A DELTA with a good CRC is kept, with a bad one reported; a FILL inside the window is written into it and its
records are those of the first slot that takes them: kept for its complement, or applied as bulk lines in time, or past
the start of the firing the copy starts again; without such a slot it is counted as stale. The second copy of a control message on the other link is
discarded. (R304, R311, R317, R319, R320, R323, R327, R328) -/
def Obligations.MirrorSlotMessagesComplete : Prop :=
  ∀ (p : Fin 2) (b : Bytes) (m : Msg) (s : State), s.dev.running = true →
    let d := s.dev
    let e := d.received p.val 0
    (d.hears p.val 0x03 b m →
      let w := bw m.pay 0
      let q : PeerPlan :=
        { armed := bitOf w 4, ctx := bits w 13 8, gen := BitVec.ofNat 8 (bits w 23 16), ident := BitVec.ofNat 256 (bnat m.pay 16 32) }
      let same := match (e.mslot m.slot).peer with
        | some o => o.ctx = q.ctx ∧ o.gen = q.gen
        | none => False
      let g := e.modSlot m.slot (fun z => { z with theirs := [], peerDigs := [], compared := none })
      (same → Goes (.mirPlanRx p b) s ((e.modSlot m.slot (fun z => { z with peer := some q })).pairSlot m.slot)) ∧
      (¬ same → Tab.get? g.plans m.slot = none → Goes (.mirPlanRx p b) s ((g.modSlot m.slot (fun z => { z with peer := some q })).pairSlot m.slot)) ∧
      (∀ o : Plan, ¬ same → Tab.get? g.plans m.slot = some o →
        let h := { g with plans := Tab.set g.plans m.slot { o with peer := [] } }
        Goes (.mirPlanRx p b) s ((h.modSlot m.slot (fun z => { z with peer := some q })).pairSlot m.slot))) ∧
    (e.fromPeer m.slot (bw m.pay 0) = false →
      (d.hears p.val 0x04 b m → Goes (.mirSchedRx p b) s (e.count cMirStale)) ∧
      (d.hears p.val 0x05 b m → Goes (.mirDigestRx p b) s (e.count cMirStale)) ∧
      (d.hears p.val 0x07 b m → Goes (.mirResyncRx p b) s (e.count cMirStale))) ∧
    (∀ q : Plan, e.fromPeer m.slot (bw m.pay 0) = true → e.mplan m.slot = some q →
      (d.hears p.val 0x04 b m → m.epoch.toNat + 1 < q.epoch.toNat + q.next →
        Goes (.mirSchedRx p b) s
          (e.event { code := 0xA4, tag := q.tag, ctx := some q.ctx, d4 := dwN m.slot, d5 := dwN m.epoch.toNat })) ∧
      (d.hears p.val 0x04 b m → q.epoch.toNat + q.next ≤ m.epoch.toNat + 1 →
        Goes (.mirSchedRx p b) s { e with plans := Tab.set e.plans m.slot { q with
          peer := q.peer.filter (fun o => o.1 != m.epoch) ++ [(m.epoch, (bw m.pay 1).toNat)] } }) ∧
      (d.hears p.val 0x05 b m →
        let dg : Dig :=
          { period := m.epoch, digest := BitVec.ofNat 256 (leNat (m.dlo ++ bslice m.pay 16 16)), count := bw m.pay 1,
            bytes := BitVec.ofNat 64 (bnat m.pay 8 8), fault := bitOf (bw m.pay 0) 4 }
        let g := e.modSlot m.slot (fun z => { z with peerDigs := (dg :: z.peerDigs.filter (fun o => o.period != m.epoch)).take mirKeep })
        Goes (.mirDigestRx p b) s ((g.compareDig m.slot m.epoch.toNat).advanceSync m.slot)) ∧
      (d.hears p.val 0x07 b m → (e.mslot m.slot).sync ≠ .unpaired → bitOf (bw m.pay 0) 6 = true → (e.mslot m.slot).bulk = none →
        Goes (.mirResyncRx p b) s (e.startBulk m.slot (bits (bw m.pay 0) 5 4) m.epoch.toNat none))) ∧
    (∀ k, k = (0x04, m.epoch, m.slot + 16 * (1 - p.val)) → d.delivers p.val 0 0x04 b m (m.len == 1) → k ∈ e.mir.seen →
      Goes (.mirSchedRx p b) s { e with mir := { e.mir with seen := e.mir.seen.filter (fun j => j != k) } }) ∧
    (let n := (bw m.pay 4).toNat
     let e := d.received p.val 2
     let slot := bits (bw m.pay 0) 3 0
     let data := bslice m.pay 64 (80 * n)
     d.delivers p.val 2 0x20 b m (decide (1 ≤ m.len) && m.len == 1 + cdiv (80 * n) 64) →
      (e.fromPeer slot (bw m.pay 0) = false → Goes (.mirDeltaRx p b) s (e.count cMirStale)) ∧
      (e.fromPeer slot (bw m.pay 0) = true → crc32c data ≠ bw m.pay 5 →
        Goes (.mirDeltaRx p b) s (e.mirCrcBad p.val 2 m.seq (bw m.pay 5) (crc32c data))) ∧
      (e.fromPeer slot (bw m.pay 0) = true → crc32c data = bw m.pay 5 → (bw m.pay 3).toNat = 0 →
        let k : BitVec 64 := BitVec.ofNat 64 (bnat m.pay 4 8)
        Goes (.mirDeltaRx p b) s
          ((e.modSlot slot (fun z =>
            { z with theirs := ((k.toNat, parseRecs data n) :: z.theirs.filter (fun o => o.1 != k.toNat)).take mirKeep })).advanceSync slot))) ∧
    (∀ imm : DW,
     let e := d.received p.val 3
     let g := { e with mir := { e.mir with staging := Mem.write e.mir.staging (64 * imm.toNat) b } }
     let rs := parseRecs m.pay (m.pay.length / 80)
     let k := m.epoch.toNat
     d.delivers p.val 3 0x30 b m (decide (m.len ≤ 16384) && m.len == cdiv (80 * (64 * m.len / 80)) 64) →
      (Sys2Proof.Config.stagingBytes.toNat < 64 * imm.toNat + b.length → Goes (.mirFillRx p imm b) s (e.count cMirDrop)) ∧
      (64 * imm.toNat + b.length ≤ Sys2Proof.Config.stagingBytes.toNat →
        ((List.range 16).find? (g.fillTakes rs) = none → Goes (.mirFillRx p imm b) s (g.count cMirStale)) ∧
        (∀ sl, (List.range 16).find? (g.fillTakes rs) = some sl →
          let z := g.mslot sl
          ((∀ f, z.fillFor = some f → k ≠ f.toNat ∨ z.fillEnd = false) → (∀ f, z.fillFor = some f → f.toNat ≤ k) →
            Goes (.mirFillRx p imm b) s ((g.modSlot sl (fun z => { z with fill := z.fill ++ rs.map (fun r => (k, r)) })).advanceSync sl)) ∧
          (∀ f, z.fillFor = some f → k < f.toNat → Goes (.mirFillRx p imm b) s g) ∧
          (∀ f, z.fillFor = some f → k = f.toNat → z.fillEnd = true →
            let late : Bool := ((g.mplan sl).map (fun q => q.running)).getD false
            (z.sync ≠ .bulk → Goes (.mirFillRx p imm b) s g) ∧
            (z.sync = .bulk → late = false → Goes (.mirFillRx p imm b) s (g.takeBulk sl k rs)) ∧
            (z.sync = .bulk → late = true → Goes (.mirFillRx p imm b) s (g.toBulk sl))))))

/-- The oldest waiting unit past SPLIT_MS enters split mode, 1 s below the bound leaves it, the partner’s SPLIT is
followed; a forwarded unit’s first fragment opens its landing: whole and with a good CRC it lands as a forwarded unit, in
part it waits for the rest, with a bad CRC it is dropped and reported; one of a disabled sensor is counted once; forwarded plough records go into
the log of their IMU; a repair past its bound becomes a bulk resync and the firing that waited starts, with
SYNC_MISSED where the partner’s debt is late too; a bulk budget sends its lines. (R124, R163, R313, R320, R321, R326) -/
def Obligations.MirrorForwardAndRepairComplete : Prop :=
  ∀ s : State, s.dev.running = true →
    let d := s.dev
    (∀ w rest, d.mir.fwd = w :: rest → d.mir.state = 1 → w.since + d.regF 0x14000 25 16 * 1000000 < d.now →
      Goes .mirSplitEnter s ((d.sendSplit true).setSplit true)) ∧
    (∀ t, d.mir.quiet = some t → d.mir.state = 2 → t + 10 ^ 9 ≤ d.now → Goes .mirSplitLeave s ((d.sendSplit false).setSplit false)) ∧
    (∀ (p : Fin 2) (b : Bytes) (m : Msg), d.hears p.val 0x06 b m →
      let e := d.received p.val 0
      (bitOf (bw m.pay 0) 0 = true → e.mir.state = 1 → Goes (.mirSplitRx p b) s (e.setSplit true)) ∧
      (bitOf (bw m.pay 0) 0 = false → e.mir.state = 2 → Goes (.mirSplitRx p b) s (e.setSplit false))) ∧
    (∀ (p : Fin 2) (b : Bytes) (m : Msg),
      let n := Nat.min (64 * m.len - 128) ((bw m.pay 1).toNat - (bw m.pay 2).toNat)
      let own := bits (bw m.pay 0) 7 0
      let data := (m.pay.drop 128).take n
      let e := d.received p.val 1
      d.delivers p.val 1 0x10 b m (decide (2 ≤ m.len ∧ m.len ≤ 16384) && m.len == 2 + cdiv n 64) →
      (ownSensor own = false → Goes (.mirUnitRx p b) s (e.count cMirDrop)) ∧
      (ownSensor own = true → e.snsOn (own + 128) = false →
        let g := e.dropRx own
        ((bw m.pay 2).toNat = 0 ∨ Tab.get? e.mir.rx own ≠ none →
          Goes (.mirUnitRx p b) s ({ g with mir := { g.mir with rxSeq := Tab.del g.mir.rxSeq own } }.count cMirDrop)) ∧
        ((bw m.pay 2).toNat ≠ 0 → Tab.get? e.mir.rx own = none → Goes (.mirUnitRx p b) s g)) ∧
      (∀ u, ownSensor own = true → e.snsOn (own + 128) = true → (bw m.pay 2).toNat = 0 →
        let g := e.openRx own (bw m.pay 1).toNat (bslice m.pay 64 64)
        let h := { g with mir := { g.mir with rx := Tab.del g.mir.rx own } }
        Tab.get? g.mir.rx own = some u → u.data = [] → u.total = (bw m.pay 1).toNat →
        (crc32c data = bw m.pay 3 → data.length = (bw m.pay 1).toNat →
          (u.dropped = false → Goes (.mirUnitRx p b) s (h.landForward (own + 128) { u with data := data })) ∧
          (u.dropped = true → Goes (.mirUnitRx p b) s h)) ∧
        (crc32c data = bw m.pay 3 → data.length < (bw m.pay 1).toNat →
          Goes (.mirUnitRx p b) s { g with mir := { g.mir with rx := Tab.set g.mir.rx own { u with data := data } } }) ∧
        (crc32c data ≠ bw m.pay 3 → u.dropped = false →
          Goes (.mirUnitRx p b) s
            (((g.mirCrcBad p.val 1 m.seq (bw m.pay 3) (crc32c data)).dropRx own).dropForward (own + 128) (bslice m.pay 64 64))))) ∧
    (∀ (p : Fin 2) (b : Bytes) (m : Msg), d.delivers p.val 1 0x11 b m (decide (1 ≤ m.len) && m.len == 1 + cdiv (16 * (bw m.pay 1).toNat) 64) →
      Goes (.mirPloughRx p b) s
        ((List.range (bw m.pay 1).toNat).foldl (fun d k => d.logWrite (4 + bits (bw m.pay 0) 1 0) (bslice m.pay (64 + 16 * k) 16))
          (d.received p.val 1))) ∧
    (∀ (slot : Fin 16) (p q : Plan),
      let e := d.repairExpire slot.val
      d.mplan slot.val = some p → p.running = false → d.syncReady slot.val = false → p.readyAt + d.regF 0x14008 15 0 * 1000 ≤ d.now →
      Tab.get? e.plans slot.val = some q →
      (e.firingTurn slot.val = false → Goes (.mirRepairWaitExpiry slot) s e) ∧
      (e.firingTurn slot.val = true → Goes (.mirRepairWaitExpiry slot) s (e.startFiring slot.val q (e.schedLate q)))) ∧
    (∀ (slot : Fin 16) (lines : Nat) (p : Plan) (b : Bulk) (k : BitVec 64),
      let m := d.mslot slot.val
      let segs := d.trackedSegs slot.val
      let n := Nat.min lines (segLines segs - b.pos)
      d.mplan slot.val = some p → m.bulk = some b → m.fillFor = some k → m.sync = .bulk → m.adopt = false → m.fillEnd = true →
      p.running = false → d.mirUp = true → b.done ≠ some k.toNat →
      Goes (.mirBulkBudgetEnd slot lines) s
        ((d.sendFill k.toNat ((List.range n).filterMap (fun i => (lineAt segs (b.pos + i)).map (fun q => d.lineNow q.1 q.2)))).modSlot slot.val
          (fun m => { m with
            bulk := some { b with done := some k.toNat, pos := b.pos + n, lines := b.lines + n, doneSending := decide (segLines segs ≤ b.pos + n) } })))

/-- A dispatched leaf descriptor whose timeout has run out starts an incident, one that has not taken effect ends
FAILED_TIMEOUT, a MOVE or CRC_CHECK that a mover runs with a reset of that mover; the drain ends after 1 ms or when
nothing runs, and the partition’s work is held and sampled; then it is reset, within 2 ms, or the volume is; a restoring
reset returns a partition to service and ends each FLT_RESTORE that asked for it; a mover resumes within 100 µs, or
leaves service and ends what waits for it. (R340, R341, R342, R343, R344, R349, R350, R351) -/
def Obligations.TimeoutAndResetEventsComplete : Prop :=
  ∀ s : State, s.dev.running = true →
    let d := s.dev
    (∀ (id : Nat) (x : Desc), d.desc? id = some x → x.tmoUs ≠ 0 → x.start + x.tmoUs * 1000 ≤ d.now → x.phase ≠ .held → x.phase ≠ .replaying →
      d.heldBack id = false → x.await_ = .run →
      (∀ o, opDefOf x.w = some o → x.phase = .dispatched → x.openParts ≠ [] → Goes (.descriptorTimeout id) s (d.startIncident x)) ∧
      (∀ o, opDefOf x.w = some o → x.phase = .waiting →
        Goes (.descriptorTimeout id) s ((d.withdraw id).endDesc id { st := .failedTimeout }).settle) ∧
      (opDefOf x.w = none → x.w.opc ≠ 0x0B → x.w.opc ≠ 0x7C →
        Goes (.descriptorTimeout id) s ((d.withdraw id).endDesc id { st := .failedTimeout }).settle) ∧
      (∀ m : Nat, opDefOf x.w = none → (x.w.opc = 0x0B ∨ x.w.opc = 0x7C) → d.moverAt (.desc id) = some (m, true) →
        Goes (.descriptorTimeout id) s ((d.resetMover m).endDesc x.id { st := .failedTimeout }).settle) ∧
      (opDefOf x.w = none → (x.w.opc = 0x0B ∨ x.w.opc = 0x7C) → (∀ m : Nat, d.moverAt (.desc id) ≠ some (m, true)) →
        Goes (.descriptorTimeout id) s (d.endDesc x.id { st := .failedTimeout }).settle)) ∧
    (∀ (m : Fin 8) (t : Nat), (d.mover m.val).resetAt = some t →
      (d.now ≤ t + 100000 →
        Goes (.moverResetDone m) s
          ((d.modMover m.val (fun x => { x with resetAt := none }.begin_)).event { code := 0xCB, unit := moverUnit m.val, d4 := dwN m.val })) ∧
      (t + 100000 ≤ d.now → (d.mover m.val).jobs = [] →
        let e := (d.modMover m.val (fun _ => { oos := true, resetAt := none, jobs := [] })).event
          { code := 0xCB, unit := moverUnit m.val, d4 := dwN (m.val + 8) }
        Goes (.moverResetHang m) s
          (({ e with copies := e.copies.map (fun (p : Nat × Copy) =>
            (p.1, if p.2.mover = m.val then { p.2 with mover := e.moverIn m.val } else p.2)) } : Dev).abortQueued m.val).settle)) ∧
    (∀ (p : Fin 11) (n : Incident), d.incOf p.val = some n →
      (∀ t, n.parts.find? (fun q => q.1 == p.val) = some (p.val, .draining t) → (t + 1000000 ≤ d.now ∨ d.partRuns p.val = false) →
        Goes (.incidentDrainEnd p) s ((d.holdPart p.val).setPhase p.val .sampling).settle) ∧
      (n.parts.find? (fun q => q.1 == p.val) = some (p.val, .sampling) →
        Goes (.partitionSampleDone p) s ((d.sample n p.val).setPhase p.val (.resetting d.now))) ∧
      (∀ t, d.flt.restores.find? (fun r => r.1 == p.val) = none → n.parts.find? (fun q => q.1 == p.val) = some (p.val, .resetting t) →
        (d.now ≤ t + 2000000 →
          Goes (.partitionResetDone p) s
            (((((d.resetPart p.val (n.causeOf p.val) true).limitPart p.val).setPhase p.val .ready).judgeGuilty).endIncidents).retryHeld.settle) ∧
        (t + 2000000 ≤ d.now → Goes (.partitionResetHang p) s d.resetVolume))) ∧
    (∀ (p : Fin 11) (t id : Nat), d.flt.restores.find? (fun r => r.1 == p.val) = some (p.val, t, id) →
      (d.now ≤ t + 2000000 →
        let e := ({ d with flt := { d.flt with restores := d.flt.restores.filter (fun r => r.1 != p.val) } } : Dev).resetPart p.val 0 false
        let g := { e with flt := { e.flt with
          partOos := e.flt.partOos.filter (· != p.val)
          resetsAt := Tab.del e.flt.resetsAt p.val } }
        let ids := (d.flt.restores.filter (fun r => r.1 == p.val)).map (fun r => r.2.2)
        Goes (.partitionResetDone p) s
          (ids.foldl (fun d id => d.endDesc id { st := .done }) (g.event { code := 0xCA, d4 := dwN p.val })).retryHeld.settle) ∧
      (t + 2000000 ≤ d.now → Goes (.partitionResetHang p) s d.resetVolume))

/-- With every partition of an incident reset its next held descriptor is replayed alone, its timeout restarted; a replay
whose timeout has run out sends its partitions through drain, sample and reset once more; a volume reset ends within
20 ms, or the device goes out of service; a silent sequencer starts an incident without a drain; with no hint queued the
patrol reads the next word of a tier, or the one it skipped, a hint the line queued first; a corrected word of the control
state is counted, an unusable one takes the device out of service with cause 3. (R335, R336, R345, R346, R347, R349, R352) -/
def Obligations.ReplayEscalationAndScrubComplete : Prop :=
  ∀ s : State, s.dev.running = true →
    let d := s.dev
    (let e := d.endIncidents
     ∀ (n : Incident) (x : Desc), e.flt.incidents.find? (fun n => n.settled && n.replay.isNone && (e.nextReplay n).isSome) = some n →
      e.nextReplay n = some x →
      let g := (e.mapInc (fun m => if m = n then { m with replay := some x.id, front := if m.front = some x.id then none else m.front } else m)).modDesc
        x.id (fun y => { y with phase := .replaying, start := e.now })
      ∀ y, g.desc? x.id = some y → (g.dispatchParts y).desc? x.id ≠ none → Goes .replayStart s (g.dispatchParts y).settle) ∧
    (∀ (n : Incident) (id : Nat) (x : Desc), d.flt.incidents = [n] → n.replay = some id → d.desc? id = some x → x.tmoUs ≠ 0 →
      x.start + x.tmoUs * 1000 ≤ d.now →
      let m := { n with
        replay := none
        guilty := n.guilty ++ [id]
        replayed := n.replayed + 1
        timedOut := true
        parts := n.parts.map (fun q => (q.1, PartPhase.draining d.now))
        marks := n.marks.map (fun k => (k.1, d.markOf x)) }
      Goes .replayTimeout s ((d.setIncs [m]).modDesc id (fun y => { y with phase := .dispatched }))) ∧
    (∀ t, d.flt.volAt = some t →
      (d.now ≤ t + 20000000 → Goes .volumeResetDone s ({ d with flt := { d.flt with volAt := none } } : Dev).retryHeld.settle) ∧
      (t + 20000000 ≤ d.now → Goes .volumeResetHang s (d.outOfService 1))) ∧
    (∀ p : Fin 11, partPresent d.board.variant p.val = true → d.partState p.val = 0 →
      let n : Incident :=
        { parts := [(p.val, .sampling)], watch := [p.val], marks := [(p.val, { target := 0, tag := 0, ctx := 0, at_ := d.now })], t0 := d.now,
          held := [], replay := none, front := none, guilty := [], replayed := 0, timedOut := false }
      Goes (.sequencerWatchdog p) s
        (((d.setIncs (d.flt.incidents ++ [n])).event { code := 0xC2, d4 := dwN n.mask }).holdPart p.val).settle) ∧
    (∀ (tier : Fin 3) (q : Store × Nat),
      let l := d.scrubPlaces tier.val
      l ≠ [] → d.flt.hints = [] →
      (Tab.get? d.flt.skipped tier.val = none → Tab.get? d.flt.patrol tier.val = some q → 
        let n := placeAfter l q 1
        d.scrubStopped tier.val n = false →
        Goes (.scrubPatrol tier) s
          (({ d with flt := { d.flt with patrol := Tab.set d.flt.patrol tier.val n } } : Dev).scrubWord tier.val n.1 n.2)) ∧
      (Tab.get? d.flt.skipped tier.val = some q → d.scrubStopped tier.val q = false →
        Goes (.scrubPatrol tier) s
          (({ d with flt := { d.flt with skipped := Tab.del d.flt.skipped tier.val, patrol := Tab.set d.flt.patrol tier.val q } } : Dev).scrubWord
            tier.val q.1 q.2))) ∧
    (∀ tier : Fin 3, d.flt.hints ≠ [] → Goes (.scrubPatrol tier) s d) ∧
    (∀ (st : Store) (line : Nat) (rest : List (Store × Nat)), d.flt.hints = (st, line) :: rest →
      Goes .scrubHint s
        ((List.range 8).foldl (fun d k => d.scrubWord (d.tierOf st) st (8 * line + k)) { d with flt := { d.flt with hints := rest } })) ∧
    (let bad (r : EccRes) : Bool := d.flt.ctl.any (fun p => (eccSynd 0 p.2).1 == r)
     let e := { d with flt := { d.flt with ctl := [] } }
     (bad .corrected = false → (bad .uncorrectable = true ∨ bad .poison = true) → d.ctlCheck = e.leaveService 3) ∧
     (bad .uncorrectable = false → bad .poison = false → bad .corrected = true →
       d.ctlCheck = e.eccCe 4 (d.flt.ctl.filter (fun p => (eccSynd 0 p.2).1 == .corrected)).length))

/-- Outside boot recovery, with no response outstanding: INFO answers COLOPHON and the measurement; DUMP_SHEET of a
landing, DEVICE or dump sheet reads it through its code and answers its bytes, of another with debug locked it is refused; STAGE_FIRMWARE refuses a
bad image with its reason or starts staging, which FIRMWARE_STAGE_DONE ends; STAGE_MAP without a staging sheet is
refused, with one it takes its writer token; the end of a staging makes its slot the image and answers its owner; an
undefined operation is refused; the USB host comes and goes. (R98, R99, R357, R362, R371) -/
def Obligations.ServiceCommandsComplete : Prop :=
  ∀ (k : SvcCmd) (s : State), s.dev.alive = true → s.dev.svcBusy = false → s.dev.sec.dead = false → s.dev.sec.recovery = false →
    k.reserved = 0 →
    let d := s.dev
    (k.arg = 0 → Goes (.svcInfo k) s (d.emitOut (.service .done k.tag 0 (le32 d.colophon ++ Digest.bytes d.sec.meas)))) ∧
    (k.arg ≠ 0 → Goes (.svcInfo k) s (d.svcRefuse 1 k .refusedMalformed)) ∧
    (k.arg.toNat < 2 ^ 32 → d.handleStatus (dwN k.arg.toNat) = none →
      let h := dwN k.arg.toNat
      let z := d.sheet (shIdx h)
      ((isLanding (shIdx h) = true ∨ z.access = 2 ∨ d.own 0x15004 = h ∨ d.sec.unlocked = true) →
        Goes (.svcDumpSheet k) s
          (((d.eccHome (shIdx h) 0 z.size 0 none).1.emitOut (.dump (d.plainRead (shIdx h) 0 z.size))).emitOut
            (.service .done k.tag (BitVec.ofNat 64 (z.round.toNat * (1 + 2 ^ 16) + z.tok.code * (2 ^ 32 + 2 ^ 34))) []))) ∧
      (isLanding (shIdx h) = false → z.access ≠ 2 → d.own 0x15004 ≠ h → d.sec.unlocked = false →
        Goes (.svcDumpSheet k) s (d.svcRefuse 3 k .refusedPort))) ∧
    (k.arg = 0 → d.sec.staging = none →
      (fwBad d.vault d.board.variant k.data = none → Goes (.svcStageFirmware k) s (d.startStage k.data none k.tag)) ∧
      (∀ r, fwBad d.vault d.board.variant k.data = some r → Goes (.svcStageFirmware k) s ((d.secReject none 0 r).svcDone k .failedCheck))) ∧
    (k.arg = 0 → d.sheetOf (d.own 0x17010) = none → Goes (.svcStageMap k) s (d.svcRefuse 5 k .refusedDisabled)) ∧
    (∀ z, k.arg = 0 → d.sheetOf (d.own 0x17010) = some z → k.data.length ≤ z.size →
      let i := shIdx (d.own 0x17010)
      let e := (d.freshId.2.modSheet i (fun y => y.addWrite d.freshId.1))
      let g := { e with sec := { e.sec with mapWait := some (d.freshId.1, k.tag, k.data) } }
      ∀ r, (g.sheet i).q.find? (fun r => r.desc == d.freshId.1) = some r →
      ((g.sheet i).grantable r = true → Goes (.svcStageMap k) s (g.grantReq i r).finishStageMap) ∧
      ((g.sheet i).grantable r = false → Goes (.svcStageMap k) s g)) ∧
    (∀ op : Byte, (op.toNat = 0 ∨ 7 < op.toNat) → Goes (.svcUndefinedOp op k) s (d.svcRefuse op.toNat k .refusedMalformed)) ∧
    (d.sec.staging = none → Goes .firmwareStageDone s d) ∧
    (∀ g, d.sec.staging = some g →
      let v := d.vault.setSlot g.slotB g.image
      let e := { d with
        vault := if d.sec.recovery then v.update (fun r => { r with preferred := g.slotB }) else v
        sec := { d.sec with staging := none, staged := true } }
      let ev : Ev := { code := 0xE0, d4 := dwN (b2n g.slotB), d5 := fwSvn g.image }
      (g.owner = none → Goes .firmwareStageDone s ((e.event ev).emitOut (.service .done g.tag 0 []))) ∧
      (∀ id x, g.owner = some id → d.desc? id = some x →
        Goes .firmwareStageDone s ((e.event { ev with tag := x.w.tag, ctx := some x.ctx }).endDesc id { st := .done }))) ∧
    (∀ up : Bool, Goes (.svcLinkChange up) s { d with sec := { d.sec with svcLink := up } })

/-- A challenge is returned, and refused for a second after a failure; a response without a challenge or with a wrong key
fails, is counted and locks challenges for a second; a right one logs KIND 5 and unlocks; a challenge lapses after 60
s; while locked the TEST port reads zero and counts each access, unlocked a write sets TAMPERED. The value an unlocked
read returns and the nonce are free. (R97, R372, R373) -/
def Obligations.UnlockCommandsComplete : Prop :=
  ∀ (k : SvcCmd) (s : State), s.dev.alive = true → s.dev.svcBusy = false → s.dev.sec.dead = false → s.dev.sec.recovery = false →
    k.reserved = 0 → k.arg = 0 →
    let d := s.dev
    (d.sec.lockedTo = none →
      Goes (.svcUnlockChallenge k) s
        (({ d with free := d.free + 1, sec := { d.sec with challenge := some (d.challengeOf, d.now) } } : Dev).emitOut
          (.service .done k.tag 0 d.challengeOf))) ∧
    (∀ t, d.sec.lockedTo = some t → d.now < t → Goes (.svcUnlockChallenge k) s (d.svcRefuse 6 k .refusedDisabled)) ∧
    (d.openChallenge = none ∨ d.debugKind (k.data.take 1952) = none →
      Goes (.svcUnlockResponse k) s (({ d with sec := { d.sec with challenge := none } } : Dev).unlockFail k)) ∧
    (∀ c n, d.openChallenge = some c → d.debugKind (k.data.take 1952) = some n → k.data.length = 5261 →
      Config.mldsaVerify (k.data.take 1952) (sha3 c) (asciiOf "JGR-DBG") (k.data.drop 1952) = true → d.measFull = false →
      let e := ({ d with sec := { d.sec with challenge := none } } : Dev).addLog 5 (Config.freeDigest d.free)
      let g := { e with free := e.free + 1, sec := { e.sec with unlocked := true } }
      Goes (.svcUnlockResponse k) s ((g.event { code := 0xE3, d4 := dwN n }).svcDone k .done)) ∧
    (∀ c t, d.sec.challenge = some (c, t) → t + 60 * 10 ^ 9 ≤ d.now →
      Goes .unlockChallengeLapse s { d with sec := { d.sec with challenge := none } }) ∧
    (∀ t, d.sec.lockedTo = some t → t ≤ d.now → Goes .unlockLockoutEnd s { d with sec := { d.sec with lockedTo := none } }) ∧
    (∀ a v : QW,
      (d.sec.unlocked = false →
        Goes (.testDebugAccess true a v) s (d.count cTestRefuse) ∧
        Goes (.testDebugAccess false a v) s ((d.count cTestRefuse).emitOut (.readData 0))) ∧
      (d.sec.unlocked = true →
        Goes (.testDebugAccess true a v) s { d with sec := { d.sec with tampered := true } } ∧
        Goes (.testDebugAccess false a v) s (({ d with free := d.free + 1 } : Dev).emitOut (.readData (Config.freeValue d.free)))))

/-- PERST_N asserted puts every volume in reset with the outputs at their safe levels; deasserted with the rails in range
and recovered and no thermal trip it boots, else the device stays in reset; a rail of a running device outside its guarded
band resets it as a removal of power would, with FAULT_N, one inside it is only taken (what is kept of VDD_C’s level is the
model’s choice, log 34); recovery of the rails of a device in reset releases FAULT_N unless a thermal trip holds it; a device in recovery answers
from 1 s after its boot. (R356, R357, R358, R375, R376, R378, R385) -/
def Obligations.ResetAndRailEventsComplete : Prop :=
  ∀ s : State,
    let d := s.dev
    (let e := (d.wipe (fun p => { p with perst := true, off := d.pwr.off, brown := d.pwr.brown })).pinsSafe
     let cool : Bool := e.pwr.temps.toList.all (fun t => decide (t < 110 * 16))
     let g := if cool then e.setTherm false else e
     exec .perstAssert s = .next { s with dev := if g.pwr.brown = true ∨ g.pwr.therm = true then g else g.setFaultN false }) ∧
    (∀ v : Bool,
      (d.pwr.perst = true → d.railsIn = true → d.pwr.brown = false → d.pwr.therm = false →
        exec (.perstDeassert v) s = .next { s with dev := d.boot v }) ∧
      (d.pwr.perst = true → (d.railsIn = false ∨ d.pwr.brown = true ∨ d.pwr.therm = true) →
        exec (.perstDeassert v) s = .next { s with dev := { d with pwr := { d.pwr with perst := false, off := true } } }) ∧
      (d.pwr.perst = false → exec (.perstDeassert v) s = .next s)) ∧
    (∀ (r : Fin 9) (mv : Nat), mv ≤ railMax r.val →
      let e := { d with pwr := { d.pwr with rails := d.pwr.rails.setIfInBounds r.val mv } }
      (railIn d.pwr.setMv r.val mv = true ∨ d.alive = false → exec (.railOutOfRange r mv) s = .next { s with dev := e }) ∧
      (railIn d.pwr.setMv r.val mv = false → d.alive = true →
        exec (.railOutOfRange r mv) s =
          .next { s with dev := ((e.wipe (fun p => { p with off := true, brown := true })).pinsSafe).setFaultN true })) ∧
    (let e := { d with pwr := { d.pwr with rails := Pwr.reset.rails, brown := false } }
     (d.alive = false → exec .railRecovered s = .next { s with dev := if d.pwr.therm = true then e else e.setFaultN false }) ∧
     (d.alive = true → exec .railRecovered s = .next s)) ∧
    (d.alive = true → d.sec.recovery = true → d.sec.rrs = true →
      (d.sec.bootAt + 10 ^ 9 ≤ d.now → Goes .recoveryRrsEnd s { d with sec := { d.sec with rrs := false } }) ∧
      (d.now < d.sec.bootAt + 10 ^ 9 → Goes .recoveryRrsEnd s d))

/-- A boot counts itself, keeps the rest of the state record, takes the installed owner record and samples MIRROR_ROLE.
Without a vendor record the firmware never runs and FAULT_N is asserted; else with both copies of the state record lost
the device is in recovery, and otherwise the preferred slot runs when its image is good, the other as a fallback when only
that one is, and neither good means recovery with FAULT_N. An image that runs leaves four entries in the measurement log.
(R356, R357, R358, R359, R365) -/
def Obligations.BootChoosesTheSlot : Prop :=
  ∀ (d : Dev) (v : Bool),
    let e := d.boot v
    let w := e.vault
    let ok (b : Bool) : Prop := fwBad w d.board.variant (d.vault.slot b) = none
    let lost := d.vault.stateA = none ∧ d.vault.stateB = none
    e.mir.verso = v ∧ w.owner = d.vault.installed ∧ e.locked = false ∧ e.setup = [] ∧
    (¬ lost → d.vault.record.seq.toNat + 1 < 2 ^ 32 →
      w.record = { d.vault.record with seq := d.vault.record.seq + 1, bootCnt := d.vault.bootCnt + 1 }) ∧
    (d.vault.vendorOk = false → e.sec.dead = true ∧ e.pwr.faultN = true ∧ e.sec.log = []) ∧
    (d.vault.vendorOk = true → lost → e.sec.recovery = true ∧ e.sec.rrs = true ∧ e.pwr.faultN = true ∧ e.sec.log = []) ∧
    (d.vault.vendorOk = true → ¬ lost → ok w.preferred →
      e.sec.dead = false ∧ e.sec.recovery = false ∧ e.sec.slotB = w.preferred ∧ e.sec.fallback = false ∧ e.sec.log.length = 4 ∧
        e.sec.meas = fwMeas (d.vault.slot w.preferred)) ∧
    (d.vault.vendorOk = true → ¬ lost → ¬ ok w.preferred → ok (!w.preferred) →
      e.sec.recovery = false ∧ e.sec.slotB = !w.preferred ∧ e.sec.fallback = true ∧ e.sec.log.length = 4) ∧
    (d.vault.vendorOk = true → ¬ lost → ¬ ok w.preferred → ¬ ok (!w.preferred) →
      e.sec.recovery = true ∧ e.sec.rrs = true ∧ e.pwr.faultN = true ∧ e.sec.log = [])

/-- A governor step writes the next voltage (its PMBus word is free, log 32) and on an answer takes it; a
reply to PMB_ALERT is kept as the status, one to READ_VOUT as the measurement; the power tick keeps the powers, above
the limit lowers the cap by 25 to its floor (a cap of 0 is one not yet set, log 33); a ramp takes one of three slots,
or waits and is counted; a sample at 125 °C or more resets every volume with THERMTRIP_N and FAULT_N; a short is
reported once, until it clears. (R380, R381, R382, R383, R384, R385, R387) -/
def Obligations.GovernorAndSensorEventsComplete : Prop :=
  ∀ s : State, s.dev.running = true →
    let d := s.dev
    (d.pwr.pmbFault = false → d.govSettled = true → d.pwr.setMv ≠ d.govTarget →
      let mv := govNext d.pwr.setMv d.govTarget
      let e := d.emitOut (.pmbus (d.regF 0x18000 14 8) 0x21 (some (voutWord mv)))
      let g := { e.pmbOk with pwr := { e.pmbOk.pwr with setMv := mv, stepAt := d.now, rails := d.pwr.rails.setIfInBounds 0 mv } }
      (mv < 720 → Goes (.governorStep true) s g) ∧
      (720 ≤ mv → Goes (.governorStep true) s g.releaseArms.settle) ∧
      Goes (.governorStep false) s (e.pmbFail).releaseArms.settle) ∧
    (∀ w : BitVec 16,
      let e := d.emitOut (.pmbus (d.regF 0x18000 14 8) 0x79 none)
      Goes (.pmbAlert (some w)) s { e.pmbOk with pwr := { e.pmbOk.pwr with status := w } }) ∧
    (∀ w : BitVec 16, (710 ≤ w.toNat ∨ d.planArmed = false) →
      let e := d.emitOut (.pmbus (d.regF 0x18000 14 8) 0x8B none)
      Goes (.pmbVoutPoll (some w)) s { e.pmbOk with pwr := { e.pmbOk.pwr with measMv := w.toNat, lowVout := false } }) ∧
    (∀ w : BitVec 16, w.toNat < 710 → d.planArmed = true → d.pwr.lowVout = false →
      let e := d.emitOut (.pmbus (d.regF 0x18000 14 8) 0x8B none)
      Goes (.pmbVoutPoll (some w)) s
        (({ e.pmbOk with pwr := { e.pmbOk.pwr with measMv := w.toNat, lowVout := true } } : Dev).event
          { code := 0xEB, d4 := 1, d5 := dwN d.pwr.status.toNat })) ∧
    (∀ c p i : DW,
      let e := ({ d with pwr := { d.pwr with mw := #v[c, p, i] } } : Dev).setCap d.capNow
      (d.limitMw < c.toNat → e.capFloor < e.pwr.cap →
        Goes (.powerLimitTick c p i) s
          ((({ e with pwr := { e.pwr with underMs := 0 } } : Dev).setCap (Nat.max e.capFloor (e.pwr.cap - 25))).count cPwrThrottle)) ∧
      (c.toNat ≤ d.limitMw → d.limitMw * 9 < c.toNat * 10 →
        Goes (.powerLimitTick c p i) s { e with pwr := { e.pwr with limit := false, underMs := 0 } })) ∧
    (∀ (q : Fin 11) (up : Bool),
      let e := d.rampTick
      partPresent d.board.variant q.val = true → (e.pwr.ramps.any (fun r => r.1 == q.val) = false) →
      (e.pwr.rampQ.any (fun r => r.1 == q.val) = false) →
      (e.pwr.ramps.length < 3 → e.pwr.rampQ = [] →
        Goes (.quireRamp q up) s { e with pwr := { e.pwr with ramps := e.pwr.ramps ++ [(q.val, e.now, up)] } }) ∧
      (3 ≤ e.pwr.ramps.length →
        Goes (.quireRamp q up) s
          (({ e with pwr := { e.pwr with rampQ := insertBy rampLe (q.val, e.now, up) e.pwr.rampQ } } : Dev).count cPwrRampWait))) ∧
    (∀ c p i : BitVec 16,
      let tj := max (max c.toInt p.toInt) i.toInt
      let e := { d with pwr := { d.pwr with temps := #v[c.toInt, p.toInt, i.toInt], tjMax := max d.pwr.tjMax tj } }
      (125 * 16 ≤ tj →
        exec (.tempSample c p i) s =
          .next { s with dev := (((e.wipe (fun p => { p with off := true })).pinsSafe).setFaultN true).setTherm true }) ∧
      (tj < 125 * 16 → exec (.tempSample c p i) s = .next { s with dev := e.tempStates tj })) ∧
    (∀ n : Fin 9,
      let e := { d with pwr := { d.pwr with short := insertBy (fun a b => decide (a ≤ b)) n.val d.pwr.short } }
      (d.pwr.short.contains n.val = false →
        Goes (.pwrTrigShort n) s ((e.setOwn 0x18090 (e.own 0x18090 ||| dwN (2 ^ (16 + n.val)))).event { code := 0xEC, d4 := dwN n.val })) ∧
      (d.pwr.short.contains n.val = true → Goes (.pwrTrigShort n) s d) ∧
      Goes (.trigShortClear n) s { d with pwr := { d.pwr with short := d.pwr.short.filter (· != n.val) } })

/-- A step changes the setpoint by at most 10 mV, never past its target, and reaches it from less than 10 mV away. The
target is 0.66 V only with no plan armed and none waiting, 0.82 V only with a plan armed and neither HOT nor at the
power limit, else 0.72 V. The cap never leaves its floor and its top when the tick moves it. (R381, R382, R384) -/
def Obligations.GovernorBounds : Prop :=
  (∀ a b : Nat, let n := govNext a b
    n ≤ a + 10 ∧ a ≤ n + 10 ∧ (a ≤ b → a ≤ n ∧ n ≤ b) ∧ (b ≤ a → b ≤ n ∧ n ≤ a) ∧ (a ≤ b + 10 → b ≤ a + 10 → n = b)) ∧
  (∀ d : Dev, let t := d.govTarget
    (t = 660 ∨ t = 720 ∨ t = 820) ∧ (t = 660 → d.plans = [] ∧ d.armHeld = false) ∧
    (t = 820 → d.plans ≠ [] ∧ d.pwr.hot = false ∧ d.pwr.limit = false)) ∧
  (∀ (c p i : DW) (d : Dev), d.capFloor ≤ d.capNow → d.capFloor ≤ (powerLimitTick c p i d).pwr.cap ∧ (powerLimitTick c p i d).pwr.cap ≤ d.capTop)

/-- For every non-empty byte string shorter than 2^32 bytes, expanding its ZERO-PACK stream gives exactly that string,
whatever its zeros and whatever the length of its last block. No byte is dropped, added or moved. (R62, R63) -/
def Obligations.ZeroPackRoundTrip : Prop :=
  ∀ b : Bytes, b ≠ [] → b.length < 2 ^ 32 → zpExpand (zpStream b) = some b

/-- A word with its check bits decodes clean; with one data bit or one check bit flipped it decodes as corrected to the
word itself; with two distinct bits of its 72 flipped it decodes as unusable, never as clean or corrected. (R329,
R330, R331) -/
def Obligations.IntegrityCodeCorrectsAndDetects : Prop :=
  ∀ d : QW,
    eccDecode d (eccCheck d) = (.clean, d) ∧
    (∀ i, i < 64 → eccDecode (d ^^^ BitVec.ofNat 64 (2 ^ i)) (eccCheck d) = (.corrected, d)) ∧
    (∀ i, i < 8 → eccDecode d (eccCheck d ^^^ BitVec.ofNat 8 (2 ^ i)) = (.corrected, d)) ∧
    (∀ i j, i < 64 → j < i →
      let r := (eccDecode (d ^^^ BitVec.ofNat 64 (2 ^ i) ^^^ BitVec.ofNat 64 (2 ^ j)) (eccCheck d)).1
      r = .uncorrectable ∨ r = .poison) ∧
    (∀ i j, i < 64 → j < 8 →
      let r := (eccDecode (d ^^^ BitVec.ofNat 64 (2 ^ i)) (eccCheck d ^^^ BitVec.ofNat 8 (2 ^ j))).1
      r = .uncorrectable ∨ r = .poison) ∧
    (∀ i j, i < 8 → j < i →
      let r := (eccDecode d (eccCheck d ^^^ BitVec.ofNat 8 (2 ^ i) ^^^ BitVec.ofNat 8 (2 ^ j))).1
      r = .uncorrectable ∨ r = .poison)

/-- For every kind 0 or 1, level below 16 and three indices from −2^18 to 2^18 − 1, the key is well formed and its kind,
level and indices read back; so distinct voxels have distinct keys. A reference draws a level of at most 7. (R272,
R285) -/
def Obligations.VoxelKeysRoundTrip : Prop :=
  (∀ (kind level : Nat) (x y z : Int), kind < 2 → level < 16 → vinside x = true → vinside y = true → vinside z = true →
    let k := vkey kind level x y z
    keyKind k = kind ∧ keyLevel k = level ∧ unmorton k = (x, y, z) ∧ badKey k = false) ∧
  (∀ (m : MIdx) (r : DW), m.levelOf r ≤ 7)

/-- The rounded quotient differs from the exact one by at most a half, and at a half it is even; a requantised element
lies between LO and HI, equals the rounded product plus ZP when that lies there, and is flagged as saturated exactly
when it does not. (R196) -/
def Obligations.RequantiseRoundsAndClamps : Prop :=
  (∀ (n : Int) (d : Nat), 0 < d →
    let q := rdiv n d
    2 * (n - q * d) ≤ d ∧ -(d : Int) ≤ 2 * (n - q * d) ∧ ((2 * (n - q * d) = d ∨ 2 * (n - q * d) = -(d : Int)) → q % 2 = 0)) ∧
  (∀ (v mult zp lo hi : Int) (shift : Nat), lo ≤ hi →
    let y := rdiv (v * mult) (2 ^ (31 + shift)) + zp
    let r := requant v mult shift zp lo hi
    lo ≤ r.1 ∧ r.1 ≤ hi ∧ (lo ≤ y ∧ y ≤ hi → r = (y, false)) ∧ (y < lo → r = (lo, true)) ∧ (hi < y → r = (hi, true)))

/-- Whatever the sums, with d0 in its range: a pixel whose output is one of the codes 0xFFFA to 0xFFFF has confidence 0; a
valid pixel has 255 when no candidate lies further than one from the winner, 0 when the smallest sum s2 among those is
0, and floor(255 × (s2 − s0) / s2) otherwise, s0 the winner’s sum. (R180) -/
def Obligations.DisparityConfidence : Prop :=
  ∀ (s : Sgm) (sum : Array (Array Nat)) (sat tex uniq x y : Nat), s.win x y ≤ 3839 →
    let v := (List.range 256).zip (sum.getD (y * s.l.w + x) #[]).toList
    let best := (bestBy (fun (a b : Nat × Nat) => decide (a.2 < b.2)) v).getD (0, 0)
    let far := v.filter (fun p => decide (p.1 + 1 < best.1 ∨ best.1 + 1 < p.1))
    let s2 := minL (far.map (·.2))
    let p := s.pixel sum sat tex uniq x y
    (0xFFFA ≤ p.1 → p.2 = 0) ∧
    (p.1 < 0xFFFA → far = [] → p.2 = 255) ∧
    (p.1 < 0xFFFA → far ≠ [] → s2 = 0 → p.2 = 0) ∧
    (p.1 < 0xFFFA → far ≠ [] → s2 ≠ 0 → p.2 = 255 * (s2 - best.2) / s2)
end

