-- ==== Sys2Proof/Laws/Mem.lean ====
section
/-! SUPPORT. Tables and memory: every operation keeps the canonical form, a read after a write, and what a write leaves. -/

namespace Sys2Proof.Machine

/-! ## Tables -/

/-- Every key of a table lies above a bound. -/
def Tab.above {α : Type} (k : Nat) (t : Tab α) : Prop := ∀ p ∈ t, k < p.1

theorem Tab.wf_cons {α : Type} (j : Nat) (a : α) (t : Tab α) : Tab.wf ((j, a) :: t) = true ↔ Tab.above j t ∧ Tab.wf t = true := by
  induction t generalizing j a with
  | nil => simp [Tab.wf, Tab.above]
  | cons p t ih =>
    obtain ⟨k, b⟩ := p
    have hk := ih k b
    constructor
    · intro h
      simp only [Tab.wf, Bool.and_eq_true, decide_eq_true_eq] at h
      refine ⟨?_, h.2⟩
      intro q hq
      rcases List.mem_cons.1 hq with rfl | hq
      · exact h.1
      · exact Nat.lt_trans h.1 ((hk.1 h.2).1 q hq)
    · rintro ⟨h1, h2⟩
      simp only [Tab.wf, Bool.and_eq_true, decide_eq_true_eq]
      exact ⟨h1 (k, b) (by simp), h2⟩

/-- A key below every listed key is not listed. -/
theorem Tab.get?_above {α : Type} (t : Tab α) (j k : Nat) (h : Tab.above j t) (hk : k ≤ j) : Tab.get? t k = none := by
  induction t with
  | nil => rfl
  | cons p t ih =>
    obtain ⟨i, a⟩ := p
    have hi : j < i := h (i, a) (by simp)
    have hne : i ≠ k := by omega
    simp only [Tab.get?, hne, if_false]
    exact ih (fun q hq => h q (List.mem_cons_of_mem _ hq))

theorem Tab.mem_set {α : Type} (t : Tab α) (k : Nat) (v : α) (p : Nat × α) (h : p ∈ Tab.set t k v) : p = (k, v) ∨ p ∈ t := by
  induction t with
  | nil => simpa [Tab.set] using h
  | cons q t ih =>
    obtain ⟨j, a⟩ := q
    unfold Tab.set at h
    split at h
    · simpa using h
    · split at h
      · rcases List.mem_cons.1 h with h | h
        · exact .inl h
        · exact .inr (List.mem_cons_of_mem _ h)
      · rcases List.mem_cons.1 h with h | h
        · exact .inr (h ▸ List.mem_cons_self)
        · exact (ih h).imp id (List.mem_cons_of_mem _)

theorem Tab.wf_set {α : Type} (t : Tab α) (k : Nat) (v : α) (h : Tab.wf t = true) : Tab.wf (Tab.set t k v) = true := by
  induction t with
  | nil => rfl
  | cons q t ih =>
    obtain ⟨j, a⟩ := q
    have ⟨ha, ht⟩ := (Tab.wf_cons j a t).1 h
    unfold Tab.set
    split
    · rename_i hk
      refine (Tab.wf_cons _ _ _).2 ⟨?_, h⟩
      intro p hp
      rcases List.mem_cons.1 hp with rfl | hp
      · exact hk
      · exact Nat.lt_trans hk (ha p hp)
    · split
      · rename_i hk
        exact (Tab.wf_cons _ _ _).2 ⟨hk ▸ ha, ht⟩
      · refine (Tab.wf_cons _ _ _).2 ⟨?_, ih ht⟩
        intro p hp
        rcases Tab.mem_set t k v p hp with rfl | hp
        · simp only; omega
        · exact ha p hp

theorem Tab.mem_del {α : Type} (t : Tab α) (k : Nat) (p : Nat × α) : p ∈ Tab.del t k ↔ p ∈ t ∧ p.1 ≠ k := by
  simp [Tab.del]

theorem Tab.wf_del {α : Type} (t : Tab α) (k : Nat) (h : Tab.wf t = true) : Tab.wf (Tab.del t k) = true := by
  induction t with
  | nil => rfl
  | cons q t ih =>
    obtain ⟨j, a⟩ := q
    have ⟨ha, ht⟩ := (Tab.wf_cons j a t).1 h
    have it := ih ht
    unfold Tab.del at it ⊢
    rw [List.filter_cons]
    split
    · exact (Tab.wf_cons _ _ _).2 ⟨fun p hp => ha p (List.mem_filter.1 hp).1, it⟩
    · exact it

theorem Tab.wf_put {α : Type} [DecidableEq α] (d : α) (t : Tab α) (k : Nat) (v : α) (h : Tab.wf t = true) :
    Tab.wf (Tab.put d t k v) = true := by
  unfold Tab.put
  split
  · exact Tab.wf_del t k h
  · exact Tab.wf_set t k v h

theorem Tab.get?_set {α : Type} (t : Tab α) (k j : Nat) (v : α) : Tab.get? (Tab.set t k v) j = if j = k then some v else Tab.get? t j := by
  induction t with
  | nil => simp [Tab.set, Tab.get?, eq_comm]
  | cons q t ih =>
    obtain ⟨i, a⟩ := q
    unfold Tab.set
    split
    · simp [Tab.get?, eq_comm]
    · split
      · rename_i hk
        by_cases hj : j = k
        · simp [Tab.get?, hj]
        · have : ¬ k = j := fun h => hj h.symm
          have h2 : ¬ i = j := fun h => hj (by omega)
          have h3 : ¬ j = i := fun h => h2 h.symm
          subst hk
          simp [Tab.get?, h2, h3]
      · rename_i h1 h2
        by_cases hi : i = j
        · have : ¬ j = k := by omega
          simp [Tab.get?, hi, this]
        · simp [Tab.get?, hi, ih]

theorem Tab.get?_del {α : Type} (t : Tab α) (k j : Nat) : Tab.get? (Tab.del t k) j = if j = k then none else Tab.get? t j := by
  induction t with
  | nil => simp [Tab.del, Tab.get?]
  | cons q t ih =>
    obtain ⟨i, a⟩ := q
    unfold Tab.del at ih ⊢
    rw [List.filter_cons]
    by_cases hi : i = k
    · simp only [hi, ne_eq, not_true_eq_false, decide_false, Bool.false_eq_true, if_false, ih, Tab.get?]
      by_cases hj : j = k
      · simp [hj]
      · simp [hj, show ¬ k = j from fun h => hj h.symm]
    · simp only [ne_eq, hi, not_false_eq_true, decide_true, if_true, Tab.get?, ih]
      by_cases hij : i = j
      · simp [hij, show ¬ j = k from fun h => hi (hij.trans h)]
      · simp [hij]

theorem Tab.getD_put {α : Type} [DecidableEq α] (d : α) (t : Tab α) (k j : Nat) (v : α) :
    Tab.getD (Tab.put d t k v) j d = if j = k then v else Tab.getD t j d := by
  unfold Tab.getD Tab.put
  split
  · rw [Tab.get?_del]; split <;> simp_all
  · rw [Tab.get?_set]; split <;> simp

/-- A table in which a key's own default is never listed keeps that form when the key is put. -/
theorem Tab.put_listed {α : Type} [DecidableEq α] (f : Nat → α) (t : Tab α) (k : Nat) (v : α) (h : ∀ p ∈ t, p.2 ≠ f p.1) :
    ∀ p ∈ Tab.put (f k) t k v, p.2 ≠ f p.1 := by
  intro p hp
  unfold Tab.put at hp
  split at hp
  · exact h p ((Tab.mem_del t k p).1 hp).1
  · rename_i hv
    rcases Tab.mem_set t k v p hp with rfl | hp
    · exact hv
    · exact h p hp

/-! ## Memory -/

theorem Mem.wf_iff (m : Mem) : Mem.wf m = true ↔ Tab.wf m = true ∧ ∀ p ∈ m, p.2 ≠ Mem.unlisted := by
  simp [Mem.wf]

theorem Mem.wf_set (m : Mem) (a : Nat) (b : Byte) (h : Mem.wf m = true) : Mem.wf (Mem.set m a b) = true := by
  rw [Mem.wf_iff] at h ⊢
  exact ⟨Tab.wf_put _ _ _ _ h.1, Tab.put_listed (fun _ => Mem.unlisted) m a b h.2⟩

theorem Mem.wf_write (m : Mem) (a : Nat) (b : Bytes) (h : Mem.wf m = true) : Mem.wf (Mem.write m a b) = true := by
  induction b generalizing m a with
  | nil => exact h
  | cons x t ih => exact ih _ _ (Mem.wf_set m a x h)

theorem Mem.wf_nil : Mem.wf [] = true := rfl

theorem Mem.get_set (m : Mem) (a c : Nat) (b : Byte) : Mem.get (Mem.set m a b) c = if c = a then b else Mem.get m c :=
  Tab.getD_put Mem.unlisted m a c b

/-- A byte outside the written range reads as before. -/
theorem Mem.get_write_outside (m : Mem) (a c : Nat) (b : Bytes) (h : c < a ∨ a + b.length ≤ c) :
    Mem.get (Mem.write m a b) c = Mem.get m c := by
  induction b generalizing m a with
  | nil => rfl
  | cons x t ih =>
    have h' : c < a + 1 ∨ a + 1 + t.length ≤ c := by simp only [List.length_cons] at h; omega
    have hne : c ≠ a := by simp only [List.length_cons] at h; omega
    simp only [Mem.write]
    rw [ih _ _ h', Mem.get_set, if_neg hne]

/-- A byte inside the written range reads as written. -/
theorem Mem.get_write_inside (m : Mem) (a i : Nat) (b : Bytes) (h : i < b.length) :
    Mem.get (Mem.write m a b) (a + i) = b.getD i 0 := by
  induction b generalizing m a i with
  | nil => simp at h
  | cons x t ih =>
    cases i with
    | zero =>
      simp only [Mem.write]
      rw [Mem.get_write_outside _ _ _ _ (by omega), Mem.get_set]
      simp
    | succ i =>
      simp only [Mem.write]
      have := ih (Mem.set m a x) (a + 1) i (by simpa using h)
      rw [show a + (i + 1) = a + 1 + i by omega, this]
      simp

theorem Mem.read_length (m : Mem) (a n : Nat) : (Mem.read m a n).length = n := by
  induction n generalizing a with
  | zero => rfl
  | succ n ih => simp [Mem.read, ih]

/-- A read after a write to the same place gives the bytes written. -/
theorem Mem.read_write (m : Mem) (a : Nat) (b : Bytes) : Mem.read (Mem.write m a b) a b.length = b := by
  suffices h : ∀ (t : Bytes) (m : Mem) (k : Nat), k + t.length = b.length → b.drop k = t →
      Mem.read (Mem.write m a b) (a + k) t.length = t from h b m 0 (by simp) (by simp)
  intro t
  induction t with
  | nil => intros; rfl
  | cons x t ih =>
    intro m k hk hd
    have hlt : k < b.length := by simp only [List.length_cons] at hk; omega
    have hx : b.getD k 0 = x := by
      have := congrArg (fun l => l.getD 0 0) hd
      simpa [List.getD_eq_getElem?_getD] using this
    have ht : b.drop (k + 1) = t := by
      have := congrArg List.tail hd
      simpa [List.tail_drop] using this
    simp only [List.length_cons, Mem.read]
    rw [Mem.get_write_inside m a k b hlt, hx]
    have := ih m (k + 1) (by simp only [List.length_cons] at hk; omega) ht
    rw [show a + k + 1 = a + (k + 1) by omega, this]

end Sys2Proof.Machine
end

