-- ==== Sys2Proof/Laws/State.lean ====
section
/-! SUPPORT. Every field of the device under the named updates: what each update leaves alone. -/

namespace Sys2Proof.Machine

/-! ## The queue and the device -/

/-! ## `Dev.emitOut` -/

@[simp] theorem Dev.emitOut_board (d : Dev) (o : Out) : (d.emitOut o).board = d.board := rfl
@[simp] theorem Dev.emitOut_setup (d : Dev) (o : Out) : (d.emitOut o).setup = d.setup := rfl
@[simp] theorem Dev.emitOut_regs (d : Dev) (o : Out) : (d.emitOut o).regs = d.regs := rfl
@[simp] theorem Dev.emitOut_locked (d : Dev) (o : Out) : (d.emitOut o).locked = d.locked := rfl
@[simp] theorem Dev.emitOut_pcie (d : Dev) (o : Out) : (d.emitOut o).pcie = d.pcie := rfl
@[simp] theorem Dev.emitOut_vecs (d : Dev) (o : Out) : (d.emitOut o).vecs = d.vecs := rfl
@[simp] theorem Dev.emitOut_host (d : Dev) (o : Out) : (d.emitOut o).host = d.host := rfl
@[simp] theorem Dev.emitOut_ctxs (d : Dev) (o : Out) : (d.emitOut o).ctxs = d.ctxs := rfl
@[simp] theorem Dev.emitOut_rr (d : Dev) (o : Out) : (d.emitOut o).rr = d.rr := rfl
@[simp] theorem Dev.emitOut_nextId (d : Dev) (o : Out) : (d.emitOut o).nextId = d.nextId := rfl
@[simp] theorem Dev.emitOut_descs (d : Dev) (o : Out) : (d.emitOut o).descs = d.descs := rfl
@[simp] theorem Dev.emitOut_gaths (d : Dev) (o : Out) : (d.emitOut o).gaths = d.gaths := rfl
@[simp] theorem Dev.emitOut_disabled (d : Dev) (o : Out) : (d.emitOut o).disabled = d.disabled := rfl
@[simp] theorem Dev.emitOut_drains (d : Dev) (o : Out) : (d.emitOut o).drains = d.drains := rfl
@[simp] theorem Dev.emitOut_sheets (d : Dev) (o : Out) : (d.emitOut o).sheets = d.sheets := rfl
@[simp] theorem Dev.emitOut_copies (d : Dev) (o : Out) : (d.emitOut o).copies = d.copies := rfl
@[simp] theorem Dev.emitOut_nextCopy (d : Dev) (o : Out) : (d.emitOut o).nextCopy = d.nextCopy := rfl
@[simp] theorem Dev.emitOut_movers (d : Dev) (o : Out) : (d.emitOut o).movers = d.movers := rfl
@[simp] theorem Dev.emitOut_plans (d : Dev) (o : Out) : (d.emitOut o).plans = d.plans := rfl
@[simp] theorem Dev.emitOut_flt (d : Dev) (o : Out) : (d.emitOut o).flt = d.flt := rfl
@[simp] theorem Dev.emitOut_sns (d : Dev) (o : Out) : (d.emitOut o).sns = d.sns := rfl
@[simp] theorem Dev.emitOut_tb (d : Dev) (o : Out) : (d.emitOut o).tb = d.tb := rfl
@[simp] theorem Dev.emitOut_plg (d : Dev) (o : Out) : (d.emitOut o).plg = d.plg := rfl
@[simp] theorem Dev.emitOut_mir (d : Dev) (o : Out) : (d.emitOut o).mir = d.mir := rfl
@[simp] theorem Dev.emitOut_vault (d : Dev) (o : Out) : (d.emitOut o).vault = d.vault := rfl
@[simp] theorem Dev.emitOut_sec (d : Dev) (o : Out) : (d.emitOut o).sec = d.sec := rfl
@[simp] theorem Dev.emitOut_pwr (d : Dev) (o : Out) : (d.emitOut o).pwr = d.pwr := rfl
@[simp] theorem Dev.emitOut_press (d : Dev) (o : Out) : (d.emitOut o).press = d.press := rfl
@[simp] theorem Dev.emitOut_maps (d : Dev) (o : Out) : (d.emitOut o).maps = d.maps := rfl
@[simp] theorem Dev.emitOut_free (d : Dev) (o : Out) : (d.emitOut o).free = d.free := rfl

/-! ## `Dev.setOwn` -/

@[simp] theorem Dev.setOwn_board (d : Dev) (off : Nat) (w : DW) : (d.setOwn off w).board = d.board := rfl
@[simp] theorem Dev.setOwn_setup (d : Dev) (off : Nat) (w : DW) : (d.setOwn off w).setup = d.setup := rfl
@[simp] theorem Dev.setOwn_locked (d : Dev) (off : Nat) (w : DW) : (d.setOwn off w).locked = d.locked := rfl
@[simp] theorem Dev.setOwn_pcie (d : Dev) (off : Nat) (w : DW) : (d.setOwn off w).pcie = d.pcie := rfl
@[simp] theorem Dev.setOwn_vecs (d : Dev) (off : Nat) (w : DW) : (d.setOwn off w).vecs = d.vecs := rfl
@[simp] theorem Dev.setOwn_host (d : Dev) (off : Nat) (w : DW) : (d.setOwn off w).host = d.host := rfl
@[simp] theorem Dev.setOwn_ctxs (d : Dev) (off : Nat) (w : DW) : (d.setOwn off w).ctxs = d.ctxs := rfl
@[simp] theorem Dev.setOwn_rr (d : Dev) (off : Nat) (w : DW) : (d.setOwn off w).rr = d.rr := rfl
@[simp] theorem Dev.setOwn_nextId (d : Dev) (off : Nat) (w : DW) : (d.setOwn off w).nextId = d.nextId := rfl
@[simp] theorem Dev.setOwn_descs (d : Dev) (off : Nat) (w : DW) : (d.setOwn off w).descs = d.descs := rfl
@[simp] theorem Dev.setOwn_gaths (d : Dev) (off : Nat) (w : DW) : (d.setOwn off w).gaths = d.gaths := rfl
@[simp] theorem Dev.setOwn_disabled (d : Dev) (off : Nat) (w : DW) : (d.setOwn off w).disabled = d.disabled := rfl
@[simp] theorem Dev.setOwn_drains (d : Dev) (off : Nat) (w : DW) : (d.setOwn off w).drains = d.drains := rfl
@[simp] theorem Dev.setOwn_sheets (d : Dev) (off : Nat) (w : DW) : (d.setOwn off w).sheets = d.sheets := rfl
@[simp] theorem Dev.setOwn_copies (d : Dev) (off : Nat) (w : DW) : (d.setOwn off w).copies = d.copies := rfl
@[simp] theorem Dev.setOwn_nextCopy (d : Dev) (off : Nat) (w : DW) : (d.setOwn off w).nextCopy = d.nextCopy := rfl
@[simp] theorem Dev.setOwn_movers (d : Dev) (off : Nat) (w : DW) : (d.setOwn off w).movers = d.movers := rfl
@[simp] theorem Dev.setOwn_plans (d : Dev) (off : Nat) (w : DW) : (d.setOwn off w).plans = d.plans := rfl
@[simp] theorem Dev.setOwn_flt (d : Dev) (off : Nat) (w : DW) : (d.setOwn off w).flt = d.flt := rfl
@[simp] theorem Dev.setOwn_sns (d : Dev) (off : Nat) (w : DW) : (d.setOwn off w).sns = d.sns := rfl
@[simp] theorem Dev.setOwn_tb (d : Dev) (off : Nat) (w : DW) : (d.setOwn off w).tb = d.tb := rfl
@[simp] theorem Dev.setOwn_plg (d : Dev) (off : Nat) (w : DW) : (d.setOwn off w).plg = d.plg := rfl
@[simp] theorem Dev.setOwn_mir (d : Dev) (off : Nat) (w : DW) : (d.setOwn off w).mir = d.mir := rfl
@[simp] theorem Dev.setOwn_vault (d : Dev) (off : Nat) (w : DW) : (d.setOwn off w).vault = d.vault := rfl
@[simp] theorem Dev.setOwn_sec (d : Dev) (off : Nat) (w : DW) : (d.setOwn off w).sec = d.sec := rfl
@[simp] theorem Dev.setOwn_pwr (d : Dev) (off : Nat) (w : DW) : (d.setOwn off w).pwr = d.pwr := rfl
@[simp] theorem Dev.setOwn_press (d : Dev) (off : Nat) (w : DW) : (d.setOwn off w).press = d.press := rfl
@[simp] theorem Dev.setOwn_maps (d : Dev) (off : Nat) (w : DW) : (d.setOwn off w).maps = d.maps := rfl
@[simp] theorem Dev.setOwn_free (d : Dev) (off : Nat) (w : DW) : (d.setOwn off w).free = d.free := rfl
@[simp] theorem Dev.setOwn_out (d : Dev) (off : Nat) (w : DW) : (d.setOwn off w).out = d.out := rfl

/-! ## `Dev.count` -/

@[simp] theorem Dev.count_board (d : Dev) (off n : Nat) : (d.count off n).board = d.board := rfl
@[simp] theorem Dev.count_setup (d : Dev) (off n : Nat) : (d.count off n).setup = d.setup := rfl
@[simp] theorem Dev.count_locked (d : Dev) (off n : Nat) : (d.count off n).locked = d.locked := rfl
@[simp] theorem Dev.count_pcie (d : Dev) (off n : Nat) : (d.count off n).pcie = d.pcie := rfl
@[simp] theorem Dev.count_vecs (d : Dev) (off n : Nat) : (d.count off n).vecs = d.vecs := rfl
@[simp] theorem Dev.count_host (d : Dev) (off n : Nat) : (d.count off n).host = d.host := rfl
@[simp] theorem Dev.count_ctxs (d : Dev) (off n : Nat) : (d.count off n).ctxs = d.ctxs := rfl
@[simp] theorem Dev.count_rr (d : Dev) (off n : Nat) : (d.count off n).rr = d.rr := rfl
@[simp] theorem Dev.count_nextId (d : Dev) (off n : Nat) : (d.count off n).nextId = d.nextId := rfl
@[simp] theorem Dev.count_descs (d : Dev) (off n : Nat) : (d.count off n).descs = d.descs := rfl
@[simp] theorem Dev.count_gaths (d : Dev) (off n : Nat) : (d.count off n).gaths = d.gaths := rfl
@[simp] theorem Dev.count_disabled (d : Dev) (off n : Nat) : (d.count off n).disabled = d.disabled := rfl
@[simp] theorem Dev.count_drains (d : Dev) (off n : Nat) : (d.count off n).drains = d.drains := rfl
@[simp] theorem Dev.count_sheets (d : Dev) (off n : Nat) : (d.count off n).sheets = d.sheets := rfl
@[simp] theorem Dev.count_copies (d : Dev) (off n : Nat) : (d.count off n).copies = d.copies := rfl
@[simp] theorem Dev.count_nextCopy (d : Dev) (off n : Nat) : (d.count off n).nextCopy = d.nextCopy := rfl
@[simp] theorem Dev.count_movers (d : Dev) (off n : Nat) : (d.count off n).movers = d.movers := rfl
@[simp] theorem Dev.count_plans (d : Dev) (off n : Nat) : (d.count off n).plans = d.plans := rfl
@[simp] theorem Dev.count_flt (d : Dev) (off n : Nat) : (d.count off n).flt = d.flt := rfl
@[simp] theorem Dev.count_sns (d : Dev) (off n : Nat) : (d.count off n).sns = d.sns := rfl
@[simp] theorem Dev.count_tb (d : Dev) (off n : Nat) : (d.count off n).tb = d.tb := rfl
@[simp] theorem Dev.count_plg (d : Dev) (off n : Nat) : (d.count off n).plg = d.plg := rfl
@[simp] theorem Dev.count_mir (d : Dev) (off n : Nat) : (d.count off n).mir = d.mir := rfl
@[simp] theorem Dev.count_vault (d : Dev) (off n : Nat) : (d.count off n).vault = d.vault := rfl
@[simp] theorem Dev.count_sec (d : Dev) (off n : Nat) : (d.count off n).sec = d.sec := rfl
@[simp] theorem Dev.count_pwr (d : Dev) (off n : Nat) : (d.count off n).pwr = d.pwr := rfl
@[simp] theorem Dev.count_press (d : Dev) (off n : Nat) : (d.count off n).press = d.press := rfl
@[simp] theorem Dev.count_maps (d : Dev) (off n : Nat) : (d.count off n).maps = d.maps := rfl
@[simp] theorem Dev.count_free (d : Dev) (off n : Nat) : (d.count off n).free = d.free := rfl
@[simp] theorem Dev.count_out (d : Dev) (off n : Nat) : (d.count off n).out = d.out := rfl

/-! ## `Dev.setReg` -/

@[simp] theorem Dev.setReg_board (d : Dev) (off : Nat) (w : DW) : (d.setReg off w).board = d.board := rfl
@[simp] theorem Dev.setReg_regs (d : Dev) (off : Nat) (w : DW) : (d.setReg off w).regs = d.regs := rfl
@[simp] theorem Dev.setReg_locked (d : Dev) (off : Nat) (w : DW) : (d.setReg off w).locked = d.locked := rfl
@[simp] theorem Dev.setReg_pcie (d : Dev) (off : Nat) (w : DW) : (d.setReg off w).pcie = d.pcie := rfl
@[simp] theorem Dev.setReg_vecs (d : Dev) (off : Nat) (w : DW) : (d.setReg off w).vecs = d.vecs := rfl
@[simp] theorem Dev.setReg_host (d : Dev) (off : Nat) (w : DW) : (d.setReg off w).host = d.host := rfl
@[simp] theorem Dev.setReg_ctxs (d : Dev) (off : Nat) (w : DW) : (d.setReg off w).ctxs = d.ctxs := rfl
@[simp] theorem Dev.setReg_rr (d : Dev) (off : Nat) (w : DW) : (d.setReg off w).rr = d.rr := rfl
@[simp] theorem Dev.setReg_nextId (d : Dev) (off : Nat) (w : DW) : (d.setReg off w).nextId = d.nextId := rfl
@[simp] theorem Dev.setReg_descs (d : Dev) (off : Nat) (w : DW) : (d.setReg off w).descs = d.descs := rfl
@[simp] theorem Dev.setReg_gaths (d : Dev) (off : Nat) (w : DW) : (d.setReg off w).gaths = d.gaths := rfl
@[simp] theorem Dev.setReg_disabled (d : Dev) (off : Nat) (w : DW) : (d.setReg off w).disabled = d.disabled := rfl
@[simp] theorem Dev.setReg_drains (d : Dev) (off : Nat) (w : DW) : (d.setReg off w).drains = d.drains := rfl
@[simp] theorem Dev.setReg_sheets (d : Dev) (off : Nat) (w : DW) : (d.setReg off w).sheets = d.sheets := rfl
@[simp] theorem Dev.setReg_copies (d : Dev) (off : Nat) (w : DW) : (d.setReg off w).copies = d.copies := rfl
@[simp] theorem Dev.setReg_nextCopy (d : Dev) (off : Nat) (w : DW) : (d.setReg off w).nextCopy = d.nextCopy := rfl
@[simp] theorem Dev.setReg_movers (d : Dev) (off : Nat) (w : DW) : (d.setReg off w).movers = d.movers := rfl
@[simp] theorem Dev.setReg_plans (d : Dev) (off : Nat) (w : DW) : (d.setReg off w).plans = d.plans := rfl
@[simp] theorem Dev.setReg_flt (d : Dev) (off : Nat) (w : DW) : (d.setReg off w).flt = d.flt := rfl
@[simp] theorem Dev.setReg_sns (d : Dev) (off : Nat) (w : DW) : (d.setReg off w).sns = d.sns := rfl
@[simp] theorem Dev.setReg_tb (d : Dev) (off : Nat) (w : DW) : (d.setReg off w).tb = d.tb := rfl
@[simp] theorem Dev.setReg_plg (d : Dev) (off : Nat) (w : DW) : (d.setReg off w).plg = d.plg := rfl
@[simp] theorem Dev.setReg_mir (d : Dev) (off : Nat) (w : DW) : (d.setReg off w).mir = d.mir := rfl
@[simp] theorem Dev.setReg_vault (d : Dev) (off : Nat) (w : DW) : (d.setReg off w).vault = d.vault := rfl
@[simp] theorem Dev.setReg_sec (d : Dev) (off : Nat) (w : DW) : (d.setReg off w).sec = d.sec := rfl
@[simp] theorem Dev.setReg_pwr (d : Dev) (off : Nat) (w : DW) : (d.setReg off w).pwr = d.pwr := rfl
@[simp] theorem Dev.setReg_press (d : Dev) (off : Nat) (w : DW) : (d.setReg off w).press = d.press := rfl
@[simp] theorem Dev.setReg_maps (d : Dev) (off : Nat) (w : DW) : (d.setReg off w).maps = d.maps := rfl
@[simp] theorem Dev.setReg_free (d : Dev) (off : Nat) (w : DW) : (d.setReg off w).free = d.free := rfl
@[simp] theorem Dev.setReg_out (d : Dev) (off : Nat) (w : DW) : (d.setReg off w).out = d.out := rfl

/-! ## `Dev.setCtx` -/

@[simp] theorem Dev.setCtx_board (d : Dev) (c : Nat) (x : Ctx) : (d.setCtx c x).board = d.board := rfl
@[simp] theorem Dev.setCtx_setup (d : Dev) (c : Nat) (x : Ctx) : (d.setCtx c x).setup = d.setup := rfl
@[simp] theorem Dev.setCtx_regs (d : Dev) (c : Nat) (x : Ctx) : (d.setCtx c x).regs = d.regs := rfl
@[simp] theorem Dev.setCtx_locked (d : Dev) (c : Nat) (x : Ctx) : (d.setCtx c x).locked = d.locked := rfl
@[simp] theorem Dev.setCtx_pcie (d : Dev) (c : Nat) (x : Ctx) : (d.setCtx c x).pcie = d.pcie := rfl
@[simp] theorem Dev.setCtx_vecs (d : Dev) (c : Nat) (x : Ctx) : (d.setCtx c x).vecs = d.vecs := rfl
@[simp] theorem Dev.setCtx_host (d : Dev) (c : Nat) (x : Ctx) : (d.setCtx c x).host = d.host := rfl
@[simp] theorem Dev.setCtx_rr (d : Dev) (c : Nat) (x : Ctx) : (d.setCtx c x).rr = d.rr := rfl
@[simp] theorem Dev.setCtx_nextId (d : Dev) (c : Nat) (x : Ctx) : (d.setCtx c x).nextId = d.nextId := rfl
@[simp] theorem Dev.setCtx_descs (d : Dev) (c : Nat) (x : Ctx) : (d.setCtx c x).descs = d.descs := rfl
@[simp] theorem Dev.setCtx_gaths (d : Dev) (c : Nat) (x : Ctx) : (d.setCtx c x).gaths = d.gaths := rfl
@[simp] theorem Dev.setCtx_disabled (d : Dev) (c : Nat) (x : Ctx) : (d.setCtx c x).disabled = d.disabled := rfl
@[simp] theorem Dev.setCtx_drains (d : Dev) (c : Nat) (x : Ctx) : (d.setCtx c x).drains = d.drains := rfl
@[simp] theorem Dev.setCtx_sheets (d : Dev) (c : Nat) (x : Ctx) : (d.setCtx c x).sheets = d.sheets := rfl
@[simp] theorem Dev.setCtx_copies (d : Dev) (c : Nat) (x : Ctx) : (d.setCtx c x).copies = d.copies := rfl
@[simp] theorem Dev.setCtx_nextCopy (d : Dev) (c : Nat) (x : Ctx) : (d.setCtx c x).nextCopy = d.nextCopy := rfl
@[simp] theorem Dev.setCtx_movers (d : Dev) (c : Nat) (x : Ctx) : (d.setCtx c x).movers = d.movers := rfl
@[simp] theorem Dev.setCtx_plans (d : Dev) (c : Nat) (x : Ctx) : (d.setCtx c x).plans = d.plans := rfl
@[simp] theorem Dev.setCtx_flt (d : Dev) (c : Nat) (x : Ctx) : (d.setCtx c x).flt = d.flt := rfl
@[simp] theorem Dev.setCtx_sns (d : Dev) (c : Nat) (x : Ctx) : (d.setCtx c x).sns = d.sns := rfl
@[simp] theorem Dev.setCtx_tb (d : Dev) (c : Nat) (x : Ctx) : (d.setCtx c x).tb = d.tb := rfl
@[simp] theorem Dev.setCtx_plg (d : Dev) (c : Nat) (x : Ctx) : (d.setCtx c x).plg = d.plg := rfl
@[simp] theorem Dev.setCtx_mir (d : Dev) (c : Nat) (x : Ctx) : (d.setCtx c x).mir = d.mir := rfl
@[simp] theorem Dev.setCtx_vault (d : Dev) (c : Nat) (x : Ctx) : (d.setCtx c x).vault = d.vault := rfl
@[simp] theorem Dev.setCtx_sec (d : Dev) (c : Nat) (x : Ctx) : (d.setCtx c x).sec = d.sec := rfl
@[simp] theorem Dev.setCtx_pwr (d : Dev) (c : Nat) (x : Ctx) : (d.setCtx c x).pwr = d.pwr := rfl
@[simp] theorem Dev.setCtx_press (d : Dev) (c : Nat) (x : Ctx) : (d.setCtx c x).press = d.press := rfl
@[simp] theorem Dev.setCtx_maps (d : Dev) (c : Nat) (x : Ctx) : (d.setCtx c x).maps = d.maps := rfl
@[simp] theorem Dev.setCtx_free (d : Dev) (c : Nat) (x : Ctx) : (d.setCtx c x).free = d.free := rfl
@[simp] theorem Dev.setCtx_out (d : Dev) (c : Nat) (x : Ctx) : (d.setCtx c x).out = d.out := rfl

/-! ## `Dev.modCtx` -/

@[simp] theorem Dev.modCtx_board (d : Dev) (c : Nat) (f : Ctx → Ctx) : (d.modCtx c f).board = d.board := rfl
@[simp] theorem Dev.modCtx_setup (d : Dev) (c : Nat) (f : Ctx → Ctx) : (d.modCtx c f).setup = d.setup := rfl
@[simp] theorem Dev.modCtx_regs (d : Dev) (c : Nat) (f : Ctx → Ctx) : (d.modCtx c f).regs = d.regs := rfl
@[simp] theorem Dev.modCtx_locked (d : Dev) (c : Nat) (f : Ctx → Ctx) : (d.modCtx c f).locked = d.locked := rfl
@[simp] theorem Dev.modCtx_pcie (d : Dev) (c : Nat) (f : Ctx → Ctx) : (d.modCtx c f).pcie = d.pcie := rfl
@[simp] theorem Dev.modCtx_vecs (d : Dev) (c : Nat) (f : Ctx → Ctx) : (d.modCtx c f).vecs = d.vecs := rfl
@[simp] theorem Dev.modCtx_host (d : Dev) (c : Nat) (f : Ctx → Ctx) : (d.modCtx c f).host = d.host := rfl
@[simp] theorem Dev.modCtx_rr (d : Dev) (c : Nat) (f : Ctx → Ctx) : (d.modCtx c f).rr = d.rr := rfl
@[simp] theorem Dev.modCtx_nextId (d : Dev) (c : Nat) (f : Ctx → Ctx) : (d.modCtx c f).nextId = d.nextId := rfl
@[simp] theorem Dev.modCtx_descs (d : Dev) (c : Nat) (f : Ctx → Ctx) : (d.modCtx c f).descs = d.descs := rfl
@[simp] theorem Dev.modCtx_gaths (d : Dev) (c : Nat) (f : Ctx → Ctx) : (d.modCtx c f).gaths = d.gaths := rfl
@[simp] theorem Dev.modCtx_disabled (d : Dev) (c : Nat) (f : Ctx → Ctx) : (d.modCtx c f).disabled = d.disabled := rfl
@[simp] theorem Dev.modCtx_drains (d : Dev) (c : Nat) (f : Ctx → Ctx) : (d.modCtx c f).drains = d.drains := rfl
@[simp] theorem Dev.modCtx_sheets (d : Dev) (c : Nat) (f : Ctx → Ctx) : (d.modCtx c f).sheets = d.sheets := rfl
@[simp] theorem Dev.modCtx_copies (d : Dev) (c : Nat) (f : Ctx → Ctx) : (d.modCtx c f).copies = d.copies := rfl
@[simp] theorem Dev.modCtx_nextCopy (d : Dev) (c : Nat) (f : Ctx → Ctx) : (d.modCtx c f).nextCopy = d.nextCopy := rfl
@[simp] theorem Dev.modCtx_movers (d : Dev) (c : Nat) (f : Ctx → Ctx) : (d.modCtx c f).movers = d.movers := rfl
@[simp] theorem Dev.modCtx_plans (d : Dev) (c : Nat) (f : Ctx → Ctx) : (d.modCtx c f).plans = d.plans := rfl
@[simp] theorem Dev.modCtx_flt (d : Dev) (c : Nat) (f : Ctx → Ctx) : (d.modCtx c f).flt = d.flt := rfl
@[simp] theorem Dev.modCtx_sns (d : Dev) (c : Nat) (f : Ctx → Ctx) : (d.modCtx c f).sns = d.sns := rfl
@[simp] theorem Dev.modCtx_tb (d : Dev) (c : Nat) (f : Ctx → Ctx) : (d.modCtx c f).tb = d.tb := rfl
@[simp] theorem Dev.modCtx_plg (d : Dev) (c : Nat) (f : Ctx → Ctx) : (d.modCtx c f).plg = d.plg := rfl
@[simp] theorem Dev.modCtx_mir (d : Dev) (c : Nat) (f : Ctx → Ctx) : (d.modCtx c f).mir = d.mir := rfl
@[simp] theorem Dev.modCtx_vault (d : Dev) (c : Nat) (f : Ctx → Ctx) : (d.modCtx c f).vault = d.vault := rfl
@[simp] theorem Dev.modCtx_sec (d : Dev) (c : Nat) (f : Ctx → Ctx) : (d.modCtx c f).sec = d.sec := rfl
@[simp] theorem Dev.modCtx_pwr (d : Dev) (c : Nat) (f : Ctx → Ctx) : (d.modCtx c f).pwr = d.pwr := rfl
@[simp] theorem Dev.modCtx_press (d : Dev) (c : Nat) (f : Ctx → Ctx) : (d.modCtx c f).press = d.press := rfl
@[simp] theorem Dev.modCtx_maps (d : Dev) (c : Nat) (f : Ctx → Ctx) : (d.modCtx c f).maps = d.maps := rfl
@[simp] theorem Dev.modCtx_free (d : Dev) (c : Nat) (f : Ctx → Ctx) : (d.modCtx c f).free = d.free := rfl
@[simp] theorem Dev.modCtx_out (d : Dev) (c : Nat) (f : Ctx → Ctx) : (d.modCtx c f).out = d.out := rfl

/-! ## `Dev.modDesc` -/

@[simp] theorem Dev.modDesc_board (d : Dev) (id : Nat) (f : Desc → Desc) : (d.modDesc id f).board = d.board := rfl
@[simp] theorem Dev.modDesc_setup (d : Dev) (id : Nat) (f : Desc → Desc) : (d.modDesc id f).setup = d.setup := rfl
@[simp] theorem Dev.modDesc_regs (d : Dev) (id : Nat) (f : Desc → Desc) : (d.modDesc id f).regs = d.regs := rfl
@[simp] theorem Dev.modDesc_locked (d : Dev) (id : Nat) (f : Desc → Desc) : (d.modDesc id f).locked = d.locked := rfl
@[simp] theorem Dev.modDesc_pcie (d : Dev) (id : Nat) (f : Desc → Desc) : (d.modDesc id f).pcie = d.pcie := rfl
@[simp] theorem Dev.modDesc_vecs (d : Dev) (id : Nat) (f : Desc → Desc) : (d.modDesc id f).vecs = d.vecs := rfl
@[simp] theorem Dev.modDesc_host (d : Dev) (id : Nat) (f : Desc → Desc) : (d.modDesc id f).host = d.host := rfl
@[simp] theorem Dev.modDesc_ctxs (d : Dev) (id : Nat) (f : Desc → Desc) : (d.modDesc id f).ctxs = d.ctxs := rfl
@[simp] theorem Dev.modDesc_rr (d : Dev) (id : Nat) (f : Desc → Desc) : (d.modDesc id f).rr = d.rr := rfl
@[simp] theorem Dev.modDesc_nextId (d : Dev) (id : Nat) (f : Desc → Desc) : (d.modDesc id f).nextId = d.nextId := rfl
@[simp] theorem Dev.modDesc_gaths (d : Dev) (id : Nat) (f : Desc → Desc) : (d.modDesc id f).gaths = d.gaths := rfl
@[simp] theorem Dev.modDesc_disabled (d : Dev) (id : Nat) (f : Desc → Desc) : (d.modDesc id f).disabled = d.disabled := rfl
@[simp] theorem Dev.modDesc_drains (d : Dev) (id : Nat) (f : Desc → Desc) : (d.modDesc id f).drains = d.drains := rfl
@[simp] theorem Dev.modDesc_sheets (d : Dev) (id : Nat) (f : Desc → Desc) : (d.modDesc id f).sheets = d.sheets := rfl
@[simp] theorem Dev.modDesc_copies (d : Dev) (id : Nat) (f : Desc → Desc) : (d.modDesc id f).copies = d.copies := rfl
@[simp] theorem Dev.modDesc_nextCopy (d : Dev) (id : Nat) (f : Desc → Desc) : (d.modDesc id f).nextCopy = d.nextCopy := rfl
@[simp] theorem Dev.modDesc_movers (d : Dev) (id : Nat) (f : Desc → Desc) : (d.modDesc id f).movers = d.movers := rfl
@[simp] theorem Dev.modDesc_plans (d : Dev) (id : Nat) (f : Desc → Desc) : (d.modDesc id f).plans = d.plans := rfl
@[simp] theorem Dev.modDesc_flt (d : Dev) (id : Nat) (f : Desc → Desc) : (d.modDesc id f).flt = d.flt := rfl
@[simp] theorem Dev.modDesc_sns (d : Dev) (id : Nat) (f : Desc → Desc) : (d.modDesc id f).sns = d.sns := rfl
@[simp] theorem Dev.modDesc_tb (d : Dev) (id : Nat) (f : Desc → Desc) : (d.modDesc id f).tb = d.tb := rfl
@[simp] theorem Dev.modDesc_plg (d : Dev) (id : Nat) (f : Desc → Desc) : (d.modDesc id f).plg = d.plg := rfl
@[simp] theorem Dev.modDesc_mir (d : Dev) (id : Nat) (f : Desc → Desc) : (d.modDesc id f).mir = d.mir := rfl
@[simp] theorem Dev.modDesc_vault (d : Dev) (id : Nat) (f : Desc → Desc) : (d.modDesc id f).vault = d.vault := rfl
@[simp] theorem Dev.modDesc_sec (d : Dev) (id : Nat) (f : Desc → Desc) : (d.modDesc id f).sec = d.sec := rfl
@[simp] theorem Dev.modDesc_pwr (d : Dev) (id : Nat) (f : Desc → Desc) : (d.modDesc id f).pwr = d.pwr := rfl
@[simp] theorem Dev.modDesc_press (d : Dev) (id : Nat) (f : Desc → Desc) : (d.modDesc id f).press = d.press := rfl
@[simp] theorem Dev.modDesc_maps (d : Dev) (id : Nat) (f : Desc → Desc) : (d.modDesc id f).maps = d.maps := rfl
@[simp] theorem Dev.modDesc_free (d : Dev) (id : Nat) (f : Desc → Desc) : (d.modDesc id f).free = d.free := rfl
@[simp] theorem Dev.modDesc_out (d : Dev) (id : Nat) (f : Desc → Desc) : (d.modDesc id f).out = d.out := rfl

/-! ## `Dev.setSheet` -/

@[simp] theorem Dev.setSheet_board (d : Dev) (i : Nat) (x : Sheet) : (d.setSheet i x).board = d.board := rfl
@[simp] theorem Dev.setSheet_setup (d : Dev) (i : Nat) (x : Sheet) : (d.setSheet i x).setup = d.setup := rfl
@[simp] theorem Dev.setSheet_regs (d : Dev) (i : Nat) (x : Sheet) : (d.setSheet i x).regs = d.regs := rfl
@[simp] theorem Dev.setSheet_locked (d : Dev) (i : Nat) (x : Sheet) : (d.setSheet i x).locked = d.locked := rfl
@[simp] theorem Dev.setSheet_pcie (d : Dev) (i : Nat) (x : Sheet) : (d.setSheet i x).pcie = d.pcie := rfl
@[simp] theorem Dev.setSheet_vecs (d : Dev) (i : Nat) (x : Sheet) : (d.setSheet i x).vecs = d.vecs := rfl
@[simp] theorem Dev.setSheet_host (d : Dev) (i : Nat) (x : Sheet) : (d.setSheet i x).host = d.host := rfl
@[simp] theorem Dev.setSheet_ctxs (d : Dev) (i : Nat) (x : Sheet) : (d.setSheet i x).ctxs = d.ctxs := rfl
@[simp] theorem Dev.setSheet_rr (d : Dev) (i : Nat) (x : Sheet) : (d.setSheet i x).rr = d.rr := rfl
@[simp] theorem Dev.setSheet_nextId (d : Dev) (i : Nat) (x : Sheet) : (d.setSheet i x).nextId = d.nextId := rfl
@[simp] theorem Dev.setSheet_descs (d : Dev) (i : Nat) (x : Sheet) : (d.setSheet i x).descs = d.descs := rfl
@[simp] theorem Dev.setSheet_gaths (d : Dev) (i : Nat) (x : Sheet) : (d.setSheet i x).gaths = d.gaths := rfl
@[simp] theorem Dev.setSheet_disabled (d : Dev) (i : Nat) (x : Sheet) : (d.setSheet i x).disabled = d.disabled := rfl
@[simp] theorem Dev.setSheet_drains (d : Dev) (i : Nat) (x : Sheet) : (d.setSheet i x).drains = d.drains := rfl
@[simp] theorem Dev.setSheet_copies (d : Dev) (i : Nat) (x : Sheet) : (d.setSheet i x).copies = d.copies := rfl
@[simp] theorem Dev.setSheet_nextCopy (d : Dev) (i : Nat) (x : Sheet) : (d.setSheet i x).nextCopy = d.nextCopy := rfl
@[simp] theorem Dev.setSheet_movers (d : Dev) (i : Nat) (x : Sheet) : (d.setSheet i x).movers = d.movers := rfl
@[simp] theorem Dev.setSheet_plans (d : Dev) (i : Nat) (x : Sheet) : (d.setSheet i x).plans = d.plans := rfl
@[simp] theorem Dev.setSheet_flt (d : Dev) (i : Nat) (x : Sheet) : (d.setSheet i x).flt = d.flt := rfl
@[simp] theorem Dev.setSheet_sns (d : Dev) (i : Nat) (x : Sheet) : (d.setSheet i x).sns = d.sns := rfl
@[simp] theorem Dev.setSheet_tb (d : Dev) (i : Nat) (x : Sheet) : (d.setSheet i x).tb = d.tb := rfl
@[simp] theorem Dev.setSheet_plg (d : Dev) (i : Nat) (x : Sheet) : (d.setSheet i x).plg = d.plg := rfl
@[simp] theorem Dev.setSheet_mir (d : Dev) (i : Nat) (x : Sheet) : (d.setSheet i x).mir = d.mir := rfl
@[simp] theorem Dev.setSheet_vault (d : Dev) (i : Nat) (x : Sheet) : (d.setSheet i x).vault = d.vault := rfl
@[simp] theorem Dev.setSheet_sec (d : Dev) (i : Nat) (x : Sheet) : (d.setSheet i x).sec = d.sec := rfl
@[simp] theorem Dev.setSheet_pwr (d : Dev) (i : Nat) (x : Sheet) : (d.setSheet i x).pwr = d.pwr := rfl
@[simp] theorem Dev.setSheet_press (d : Dev) (i : Nat) (x : Sheet) : (d.setSheet i x).press = d.press := rfl
@[simp] theorem Dev.setSheet_maps (d : Dev) (i : Nat) (x : Sheet) : (d.setSheet i x).maps = d.maps := rfl
@[simp] theorem Dev.setSheet_free (d : Dev) (i : Nat) (x : Sheet) : (d.setSheet i x).free = d.free := rfl
@[simp] theorem Dev.setSheet_out (d : Dev) (i : Nat) (x : Sheet) : (d.setSheet i x).out = d.out := rfl

/-! ## `Dev.modSheet` -/

@[simp] theorem Dev.modSheet_board (d : Dev) (i : Nat) (f : Sheet → Sheet) : (d.modSheet i f).board = d.board := rfl
@[simp] theorem Dev.modSheet_setup (d : Dev) (i : Nat) (f : Sheet → Sheet) : (d.modSheet i f).setup = d.setup := rfl
@[simp] theorem Dev.modSheet_regs (d : Dev) (i : Nat) (f : Sheet → Sheet) : (d.modSheet i f).regs = d.regs := rfl
@[simp] theorem Dev.modSheet_locked (d : Dev) (i : Nat) (f : Sheet → Sheet) : (d.modSheet i f).locked = d.locked := rfl
@[simp] theorem Dev.modSheet_pcie (d : Dev) (i : Nat) (f : Sheet → Sheet) : (d.modSheet i f).pcie = d.pcie := rfl
@[simp] theorem Dev.modSheet_vecs (d : Dev) (i : Nat) (f : Sheet → Sheet) : (d.modSheet i f).vecs = d.vecs := rfl
@[simp] theorem Dev.modSheet_host (d : Dev) (i : Nat) (f : Sheet → Sheet) : (d.modSheet i f).host = d.host := rfl
@[simp] theorem Dev.modSheet_ctxs (d : Dev) (i : Nat) (f : Sheet → Sheet) : (d.modSheet i f).ctxs = d.ctxs := rfl
@[simp] theorem Dev.modSheet_rr (d : Dev) (i : Nat) (f : Sheet → Sheet) : (d.modSheet i f).rr = d.rr := rfl
@[simp] theorem Dev.modSheet_nextId (d : Dev) (i : Nat) (f : Sheet → Sheet) : (d.modSheet i f).nextId = d.nextId := rfl
@[simp] theorem Dev.modSheet_descs (d : Dev) (i : Nat) (f : Sheet → Sheet) : (d.modSheet i f).descs = d.descs := rfl
@[simp] theorem Dev.modSheet_gaths (d : Dev) (i : Nat) (f : Sheet → Sheet) : (d.modSheet i f).gaths = d.gaths := rfl
@[simp] theorem Dev.modSheet_disabled (d : Dev) (i : Nat) (f : Sheet → Sheet) : (d.modSheet i f).disabled = d.disabled := rfl
@[simp] theorem Dev.modSheet_drains (d : Dev) (i : Nat) (f : Sheet → Sheet) : (d.modSheet i f).drains = d.drains := rfl
@[simp] theorem Dev.modSheet_copies (d : Dev) (i : Nat) (f : Sheet → Sheet) : (d.modSheet i f).copies = d.copies := rfl
@[simp] theorem Dev.modSheet_nextCopy (d : Dev) (i : Nat) (f : Sheet → Sheet) : (d.modSheet i f).nextCopy = d.nextCopy := rfl
@[simp] theorem Dev.modSheet_movers (d : Dev) (i : Nat) (f : Sheet → Sheet) : (d.modSheet i f).movers = d.movers := rfl
@[simp] theorem Dev.modSheet_plans (d : Dev) (i : Nat) (f : Sheet → Sheet) : (d.modSheet i f).plans = d.plans := rfl
@[simp] theorem Dev.modSheet_flt (d : Dev) (i : Nat) (f : Sheet → Sheet) : (d.modSheet i f).flt = d.flt := rfl
@[simp] theorem Dev.modSheet_sns (d : Dev) (i : Nat) (f : Sheet → Sheet) : (d.modSheet i f).sns = d.sns := rfl
@[simp] theorem Dev.modSheet_tb (d : Dev) (i : Nat) (f : Sheet → Sheet) : (d.modSheet i f).tb = d.tb := rfl
@[simp] theorem Dev.modSheet_plg (d : Dev) (i : Nat) (f : Sheet → Sheet) : (d.modSheet i f).plg = d.plg := rfl
@[simp] theorem Dev.modSheet_mir (d : Dev) (i : Nat) (f : Sheet → Sheet) : (d.modSheet i f).mir = d.mir := rfl
@[simp] theorem Dev.modSheet_vault (d : Dev) (i : Nat) (f : Sheet → Sheet) : (d.modSheet i f).vault = d.vault := rfl
@[simp] theorem Dev.modSheet_sec (d : Dev) (i : Nat) (f : Sheet → Sheet) : (d.modSheet i f).sec = d.sec := rfl
@[simp] theorem Dev.modSheet_pwr (d : Dev) (i : Nat) (f : Sheet → Sheet) : (d.modSheet i f).pwr = d.pwr := rfl
@[simp] theorem Dev.modSheet_press (d : Dev) (i : Nat) (f : Sheet → Sheet) : (d.modSheet i f).press = d.press := rfl
@[simp] theorem Dev.modSheet_maps (d : Dev) (i : Nat) (f : Sheet → Sheet) : (d.modSheet i f).maps = d.maps := rfl
@[simp] theorem Dev.modSheet_free (d : Dev) (i : Nat) (f : Sheet → Sheet) : (d.modSheet i f).free = d.free := rfl
@[simp] theorem Dev.modSheet_out (d : Dev) (i : Nat) (f : Sheet → Sheet) : (d.modSheet i f).out = d.out := rfl

/-! ## `Dev.setGath` -/

@[simp] theorem Dev.setGath_board (d : Dev) (i : Nat) (g : Gath) : (d.setGath i g).board = d.board := rfl
@[simp] theorem Dev.setGath_setup (d : Dev) (i : Nat) (g : Gath) : (d.setGath i g).setup = d.setup := rfl
@[simp] theorem Dev.setGath_regs (d : Dev) (i : Nat) (g : Gath) : (d.setGath i g).regs = d.regs := rfl
@[simp] theorem Dev.setGath_locked (d : Dev) (i : Nat) (g : Gath) : (d.setGath i g).locked = d.locked := rfl
@[simp] theorem Dev.setGath_pcie (d : Dev) (i : Nat) (g : Gath) : (d.setGath i g).pcie = d.pcie := rfl
@[simp] theorem Dev.setGath_vecs (d : Dev) (i : Nat) (g : Gath) : (d.setGath i g).vecs = d.vecs := rfl
@[simp] theorem Dev.setGath_host (d : Dev) (i : Nat) (g : Gath) : (d.setGath i g).host = d.host := rfl
@[simp] theorem Dev.setGath_ctxs (d : Dev) (i : Nat) (g : Gath) : (d.setGath i g).ctxs = d.ctxs := rfl
@[simp] theorem Dev.setGath_rr (d : Dev) (i : Nat) (g : Gath) : (d.setGath i g).rr = d.rr := rfl
@[simp] theorem Dev.setGath_nextId (d : Dev) (i : Nat) (g : Gath) : (d.setGath i g).nextId = d.nextId := rfl
@[simp] theorem Dev.setGath_descs (d : Dev) (i : Nat) (g : Gath) : (d.setGath i g).descs = d.descs := rfl
@[simp] theorem Dev.setGath_disabled (d : Dev) (i : Nat) (g : Gath) : (d.setGath i g).disabled = d.disabled := rfl
@[simp] theorem Dev.setGath_drains (d : Dev) (i : Nat) (g : Gath) : (d.setGath i g).drains = d.drains := rfl
@[simp] theorem Dev.setGath_sheets (d : Dev) (i : Nat) (g : Gath) : (d.setGath i g).sheets = d.sheets := rfl
@[simp] theorem Dev.setGath_copies (d : Dev) (i : Nat) (g : Gath) : (d.setGath i g).copies = d.copies := rfl
@[simp] theorem Dev.setGath_nextCopy (d : Dev) (i : Nat) (g : Gath) : (d.setGath i g).nextCopy = d.nextCopy := rfl
@[simp] theorem Dev.setGath_movers (d : Dev) (i : Nat) (g : Gath) : (d.setGath i g).movers = d.movers := rfl
@[simp] theorem Dev.setGath_plans (d : Dev) (i : Nat) (g : Gath) : (d.setGath i g).plans = d.plans := rfl
@[simp] theorem Dev.setGath_flt (d : Dev) (i : Nat) (g : Gath) : (d.setGath i g).flt = d.flt := rfl
@[simp] theorem Dev.setGath_sns (d : Dev) (i : Nat) (g : Gath) : (d.setGath i g).sns = d.sns := rfl
@[simp] theorem Dev.setGath_tb (d : Dev) (i : Nat) (g : Gath) : (d.setGath i g).tb = d.tb := rfl
@[simp] theorem Dev.setGath_plg (d : Dev) (i : Nat) (g : Gath) : (d.setGath i g).plg = d.plg := rfl
@[simp] theorem Dev.setGath_mir (d : Dev) (i : Nat) (g : Gath) : (d.setGath i g).mir = d.mir := rfl
@[simp] theorem Dev.setGath_vault (d : Dev) (i : Nat) (g : Gath) : (d.setGath i g).vault = d.vault := rfl
@[simp] theorem Dev.setGath_sec (d : Dev) (i : Nat) (g : Gath) : (d.setGath i g).sec = d.sec := rfl
@[simp] theorem Dev.setGath_pwr (d : Dev) (i : Nat) (g : Gath) : (d.setGath i g).pwr = d.pwr := rfl
@[simp] theorem Dev.setGath_press (d : Dev) (i : Nat) (g : Gath) : (d.setGath i g).press = d.press := rfl
@[simp] theorem Dev.setGath_maps (d : Dev) (i : Nat) (g : Gath) : (d.setGath i g).maps = d.maps := rfl
@[simp] theorem Dev.setGath_free (d : Dev) (i : Nat) (g : Gath) : (d.setGath i g).free = d.free := rfl
@[simp] theorem Dev.setGath_out (d : Dev) (i : Nat) (g : Gath) : (d.setGath i g).out = d.out := rfl

/-! ## `Dev.modTb` -/

@[simp] theorem Dev.modTb_board (d : Dev) (f : Tb → Tb) : (d.modTb f).board = d.board := rfl
@[simp] theorem Dev.modTb_setup (d : Dev) (f : Tb → Tb) : (d.modTb f).setup = d.setup := rfl
@[simp] theorem Dev.modTb_regs (d : Dev) (f : Tb → Tb) : (d.modTb f).regs = d.regs := rfl
@[simp] theorem Dev.modTb_locked (d : Dev) (f : Tb → Tb) : (d.modTb f).locked = d.locked := rfl
@[simp] theorem Dev.modTb_pcie (d : Dev) (f : Tb → Tb) : (d.modTb f).pcie = d.pcie := rfl
@[simp] theorem Dev.modTb_vecs (d : Dev) (f : Tb → Tb) : (d.modTb f).vecs = d.vecs := rfl
@[simp] theorem Dev.modTb_host (d : Dev) (f : Tb → Tb) : (d.modTb f).host = d.host := rfl
@[simp] theorem Dev.modTb_ctxs (d : Dev) (f : Tb → Tb) : (d.modTb f).ctxs = d.ctxs := rfl
@[simp] theorem Dev.modTb_rr (d : Dev) (f : Tb → Tb) : (d.modTb f).rr = d.rr := rfl
@[simp] theorem Dev.modTb_nextId (d : Dev) (f : Tb → Tb) : (d.modTb f).nextId = d.nextId := rfl
@[simp] theorem Dev.modTb_descs (d : Dev) (f : Tb → Tb) : (d.modTb f).descs = d.descs := rfl
@[simp] theorem Dev.modTb_gaths (d : Dev) (f : Tb → Tb) : (d.modTb f).gaths = d.gaths := rfl
@[simp] theorem Dev.modTb_disabled (d : Dev) (f : Tb → Tb) : (d.modTb f).disabled = d.disabled := rfl
@[simp] theorem Dev.modTb_drains (d : Dev) (f : Tb → Tb) : (d.modTb f).drains = d.drains := rfl
@[simp] theorem Dev.modTb_sheets (d : Dev) (f : Tb → Tb) : (d.modTb f).sheets = d.sheets := rfl
@[simp] theorem Dev.modTb_copies (d : Dev) (f : Tb → Tb) : (d.modTb f).copies = d.copies := rfl
@[simp] theorem Dev.modTb_nextCopy (d : Dev) (f : Tb → Tb) : (d.modTb f).nextCopy = d.nextCopy := rfl
@[simp] theorem Dev.modTb_movers (d : Dev) (f : Tb → Tb) : (d.modTb f).movers = d.movers := rfl
@[simp] theorem Dev.modTb_plans (d : Dev) (f : Tb → Tb) : (d.modTb f).plans = d.plans := rfl
@[simp] theorem Dev.modTb_flt (d : Dev) (f : Tb → Tb) : (d.modTb f).flt = d.flt := rfl
@[simp] theorem Dev.modTb_sns (d : Dev) (f : Tb → Tb) : (d.modTb f).sns = d.sns := rfl
@[simp] theorem Dev.modTb_plg (d : Dev) (f : Tb → Tb) : (d.modTb f).plg = d.plg := rfl
@[simp] theorem Dev.modTb_mir (d : Dev) (f : Tb → Tb) : (d.modTb f).mir = d.mir := rfl
@[simp] theorem Dev.modTb_vault (d : Dev) (f : Tb → Tb) : (d.modTb f).vault = d.vault := rfl
@[simp] theorem Dev.modTb_sec (d : Dev) (f : Tb → Tb) : (d.modTb f).sec = d.sec := rfl
@[simp] theorem Dev.modTb_pwr (d : Dev) (f : Tb → Tb) : (d.modTb f).pwr = d.pwr := rfl
@[simp] theorem Dev.modTb_press (d : Dev) (f : Tb → Tb) : (d.modTb f).press = d.press := rfl
@[simp] theorem Dev.modTb_maps (d : Dev) (f : Tb → Tb) : (d.modTb f).maps = d.maps := rfl
@[simp] theorem Dev.modTb_free (d : Dev) (f : Tb → Tb) : (d.modTb f).free = d.free := rfl
@[simp] theorem Dev.modTb_out (d : Dev) (f : Tb → Tb) : (d.modTb f).out = d.out := rfl

/-! ## `Dev.setTrig` -/

@[simp] theorem Dev.setTrig_board (d : Dev) (n : Nat) (t : Trig) : (d.setTrig n t).board = d.board := rfl
@[simp] theorem Dev.setTrig_setup (d : Dev) (n : Nat) (t : Trig) : (d.setTrig n t).setup = d.setup := rfl
@[simp] theorem Dev.setTrig_regs (d : Dev) (n : Nat) (t : Trig) : (d.setTrig n t).regs = d.regs := rfl
@[simp] theorem Dev.setTrig_locked (d : Dev) (n : Nat) (t : Trig) : (d.setTrig n t).locked = d.locked := rfl
@[simp] theorem Dev.setTrig_pcie (d : Dev) (n : Nat) (t : Trig) : (d.setTrig n t).pcie = d.pcie := rfl
@[simp] theorem Dev.setTrig_vecs (d : Dev) (n : Nat) (t : Trig) : (d.setTrig n t).vecs = d.vecs := rfl
@[simp] theorem Dev.setTrig_host (d : Dev) (n : Nat) (t : Trig) : (d.setTrig n t).host = d.host := rfl
@[simp] theorem Dev.setTrig_ctxs (d : Dev) (n : Nat) (t : Trig) : (d.setTrig n t).ctxs = d.ctxs := rfl
@[simp] theorem Dev.setTrig_rr (d : Dev) (n : Nat) (t : Trig) : (d.setTrig n t).rr = d.rr := rfl
@[simp] theorem Dev.setTrig_nextId (d : Dev) (n : Nat) (t : Trig) : (d.setTrig n t).nextId = d.nextId := rfl
@[simp] theorem Dev.setTrig_descs (d : Dev) (n : Nat) (t : Trig) : (d.setTrig n t).descs = d.descs := rfl
@[simp] theorem Dev.setTrig_gaths (d : Dev) (n : Nat) (t : Trig) : (d.setTrig n t).gaths = d.gaths := rfl
@[simp] theorem Dev.setTrig_disabled (d : Dev) (n : Nat) (t : Trig) : (d.setTrig n t).disabled = d.disabled := rfl
@[simp] theorem Dev.setTrig_drains (d : Dev) (n : Nat) (t : Trig) : (d.setTrig n t).drains = d.drains := rfl
@[simp] theorem Dev.setTrig_sheets (d : Dev) (n : Nat) (t : Trig) : (d.setTrig n t).sheets = d.sheets := rfl
@[simp] theorem Dev.setTrig_copies (d : Dev) (n : Nat) (t : Trig) : (d.setTrig n t).copies = d.copies := rfl
@[simp] theorem Dev.setTrig_nextCopy (d : Dev) (n : Nat) (t : Trig) : (d.setTrig n t).nextCopy = d.nextCopy := rfl
@[simp] theorem Dev.setTrig_movers (d : Dev) (n : Nat) (t : Trig) : (d.setTrig n t).movers = d.movers := rfl
@[simp] theorem Dev.setTrig_plans (d : Dev) (n : Nat) (t : Trig) : (d.setTrig n t).plans = d.plans := rfl
@[simp] theorem Dev.setTrig_flt (d : Dev) (n : Nat) (t : Trig) : (d.setTrig n t).flt = d.flt := rfl
@[simp] theorem Dev.setTrig_sns (d : Dev) (n : Nat) (t : Trig) : (d.setTrig n t).sns = d.sns := rfl
@[simp] theorem Dev.setTrig_plg (d : Dev) (n : Nat) (t : Trig) : (d.setTrig n t).plg = d.plg := rfl
@[simp] theorem Dev.setTrig_mir (d : Dev) (n : Nat) (t : Trig) : (d.setTrig n t).mir = d.mir := rfl
@[simp] theorem Dev.setTrig_vault (d : Dev) (n : Nat) (t : Trig) : (d.setTrig n t).vault = d.vault := rfl
@[simp] theorem Dev.setTrig_sec (d : Dev) (n : Nat) (t : Trig) : (d.setTrig n t).sec = d.sec := rfl
@[simp] theorem Dev.setTrig_pwr (d : Dev) (n : Nat) (t : Trig) : (d.setTrig n t).pwr = d.pwr := rfl
@[simp] theorem Dev.setTrig_press (d : Dev) (n : Nat) (t : Trig) : (d.setTrig n t).press = d.press := rfl
@[simp] theorem Dev.setTrig_maps (d : Dev) (n : Nat) (t : Trig) : (d.setTrig n t).maps = d.maps := rfl
@[simp] theorem Dev.setTrig_free (d : Dev) (n : Nat) (t : Trig) : (d.setTrig n t).free = d.free := rfl
@[simp] theorem Dev.setTrig_out (d : Dev) (n : Nat) (t : Trig) : (d.setTrig n t).out = d.out := rfl

/-! ## `Dev.setPtp` -/

@[simp] theorem Dev.setPtp_board (d : Dev) (p : Nat) (x : PtpPort) : (d.setPtp p x).board = d.board := rfl
@[simp] theorem Dev.setPtp_setup (d : Dev) (p : Nat) (x : PtpPort) : (d.setPtp p x).setup = d.setup := rfl
@[simp] theorem Dev.setPtp_regs (d : Dev) (p : Nat) (x : PtpPort) : (d.setPtp p x).regs = d.regs := rfl
@[simp] theorem Dev.setPtp_locked (d : Dev) (p : Nat) (x : PtpPort) : (d.setPtp p x).locked = d.locked := rfl
@[simp] theorem Dev.setPtp_pcie (d : Dev) (p : Nat) (x : PtpPort) : (d.setPtp p x).pcie = d.pcie := rfl
@[simp] theorem Dev.setPtp_vecs (d : Dev) (p : Nat) (x : PtpPort) : (d.setPtp p x).vecs = d.vecs := rfl
@[simp] theorem Dev.setPtp_host (d : Dev) (p : Nat) (x : PtpPort) : (d.setPtp p x).host = d.host := rfl
@[simp] theorem Dev.setPtp_ctxs (d : Dev) (p : Nat) (x : PtpPort) : (d.setPtp p x).ctxs = d.ctxs := rfl
@[simp] theorem Dev.setPtp_rr (d : Dev) (p : Nat) (x : PtpPort) : (d.setPtp p x).rr = d.rr := rfl
@[simp] theorem Dev.setPtp_nextId (d : Dev) (p : Nat) (x : PtpPort) : (d.setPtp p x).nextId = d.nextId := rfl
@[simp] theorem Dev.setPtp_descs (d : Dev) (p : Nat) (x : PtpPort) : (d.setPtp p x).descs = d.descs := rfl
@[simp] theorem Dev.setPtp_gaths (d : Dev) (p : Nat) (x : PtpPort) : (d.setPtp p x).gaths = d.gaths := rfl
@[simp] theorem Dev.setPtp_disabled (d : Dev) (p : Nat) (x : PtpPort) : (d.setPtp p x).disabled = d.disabled := rfl
@[simp] theorem Dev.setPtp_drains (d : Dev) (p : Nat) (x : PtpPort) : (d.setPtp p x).drains = d.drains := rfl
@[simp] theorem Dev.setPtp_sheets (d : Dev) (p : Nat) (x : PtpPort) : (d.setPtp p x).sheets = d.sheets := rfl
@[simp] theorem Dev.setPtp_copies (d : Dev) (p : Nat) (x : PtpPort) : (d.setPtp p x).copies = d.copies := rfl
@[simp] theorem Dev.setPtp_nextCopy (d : Dev) (p : Nat) (x : PtpPort) : (d.setPtp p x).nextCopy = d.nextCopy := rfl
@[simp] theorem Dev.setPtp_movers (d : Dev) (p : Nat) (x : PtpPort) : (d.setPtp p x).movers = d.movers := rfl
@[simp] theorem Dev.setPtp_plans (d : Dev) (p : Nat) (x : PtpPort) : (d.setPtp p x).plans = d.plans := rfl
@[simp] theorem Dev.setPtp_flt (d : Dev) (p : Nat) (x : PtpPort) : (d.setPtp p x).flt = d.flt := rfl
@[simp] theorem Dev.setPtp_sns (d : Dev) (p : Nat) (x : PtpPort) : (d.setPtp p x).sns = d.sns := rfl
@[simp] theorem Dev.setPtp_plg (d : Dev) (p : Nat) (x : PtpPort) : (d.setPtp p x).plg = d.plg := rfl
@[simp] theorem Dev.setPtp_mir (d : Dev) (p : Nat) (x : PtpPort) : (d.setPtp p x).mir = d.mir := rfl
@[simp] theorem Dev.setPtp_vault (d : Dev) (p : Nat) (x : PtpPort) : (d.setPtp p x).vault = d.vault := rfl
@[simp] theorem Dev.setPtp_sec (d : Dev) (p : Nat) (x : PtpPort) : (d.setPtp p x).sec = d.sec := rfl
@[simp] theorem Dev.setPtp_pwr (d : Dev) (p : Nat) (x : PtpPort) : (d.setPtp p x).pwr = d.pwr := rfl
@[simp] theorem Dev.setPtp_press (d : Dev) (p : Nat) (x : PtpPort) : (d.setPtp p x).press = d.press := rfl
@[simp] theorem Dev.setPtp_maps (d : Dev) (p : Nat) (x : PtpPort) : (d.setPtp p x).maps = d.maps := rfl
@[simp] theorem Dev.setPtp_free (d : Dev) (p : Nat) (x : PtpPort) : (d.setPtp p x).free = d.free := rfl
@[simp] theorem Dev.setPtp_out (d : Dev) (p : Nat) (x : PtpPort) : (d.setPtp p x).out = d.out := rfl

/-! ## `Dev.setSpi` -/

@[simp] theorem Dev.setSpi_board (d : Dev) (n : Nat) (x : Spi) : (d.setSpi n x).board = d.board := rfl
@[simp] theorem Dev.setSpi_setup (d : Dev) (n : Nat) (x : Spi) : (d.setSpi n x).setup = d.setup := rfl
@[simp] theorem Dev.setSpi_regs (d : Dev) (n : Nat) (x : Spi) : (d.setSpi n x).regs = d.regs := rfl
@[simp] theorem Dev.setSpi_locked (d : Dev) (n : Nat) (x : Spi) : (d.setSpi n x).locked = d.locked := rfl
@[simp] theorem Dev.setSpi_pcie (d : Dev) (n : Nat) (x : Spi) : (d.setSpi n x).pcie = d.pcie := rfl
@[simp] theorem Dev.setSpi_vecs (d : Dev) (n : Nat) (x : Spi) : (d.setSpi n x).vecs = d.vecs := rfl
@[simp] theorem Dev.setSpi_host (d : Dev) (n : Nat) (x : Spi) : (d.setSpi n x).host = d.host := rfl
@[simp] theorem Dev.setSpi_ctxs (d : Dev) (n : Nat) (x : Spi) : (d.setSpi n x).ctxs = d.ctxs := rfl
@[simp] theorem Dev.setSpi_rr (d : Dev) (n : Nat) (x : Spi) : (d.setSpi n x).rr = d.rr := rfl
@[simp] theorem Dev.setSpi_nextId (d : Dev) (n : Nat) (x : Spi) : (d.setSpi n x).nextId = d.nextId := rfl
@[simp] theorem Dev.setSpi_descs (d : Dev) (n : Nat) (x : Spi) : (d.setSpi n x).descs = d.descs := rfl
@[simp] theorem Dev.setSpi_gaths (d : Dev) (n : Nat) (x : Spi) : (d.setSpi n x).gaths = d.gaths := rfl
@[simp] theorem Dev.setSpi_disabled (d : Dev) (n : Nat) (x : Spi) : (d.setSpi n x).disabled = d.disabled := rfl
@[simp] theorem Dev.setSpi_drains (d : Dev) (n : Nat) (x : Spi) : (d.setSpi n x).drains = d.drains := rfl
@[simp] theorem Dev.setSpi_sheets (d : Dev) (n : Nat) (x : Spi) : (d.setSpi n x).sheets = d.sheets := rfl
@[simp] theorem Dev.setSpi_copies (d : Dev) (n : Nat) (x : Spi) : (d.setSpi n x).copies = d.copies := rfl
@[simp] theorem Dev.setSpi_nextCopy (d : Dev) (n : Nat) (x : Spi) : (d.setSpi n x).nextCopy = d.nextCopy := rfl
@[simp] theorem Dev.setSpi_movers (d : Dev) (n : Nat) (x : Spi) : (d.setSpi n x).movers = d.movers := rfl
@[simp] theorem Dev.setSpi_plans (d : Dev) (n : Nat) (x : Spi) : (d.setSpi n x).plans = d.plans := rfl
@[simp] theorem Dev.setSpi_flt (d : Dev) (n : Nat) (x : Spi) : (d.setSpi n x).flt = d.flt := rfl
@[simp] theorem Dev.setSpi_tb (d : Dev) (n : Nat) (x : Spi) : (d.setSpi n x).tb = d.tb := rfl
@[simp] theorem Dev.setSpi_plg (d : Dev) (n : Nat) (x : Spi) : (d.setSpi n x).plg = d.plg := rfl
@[simp] theorem Dev.setSpi_mir (d : Dev) (n : Nat) (x : Spi) : (d.setSpi n x).mir = d.mir := rfl
@[simp] theorem Dev.setSpi_vault (d : Dev) (n : Nat) (x : Spi) : (d.setSpi n x).vault = d.vault := rfl
@[simp] theorem Dev.setSpi_sec (d : Dev) (n : Nat) (x : Spi) : (d.setSpi n x).sec = d.sec := rfl
@[simp] theorem Dev.setSpi_pwr (d : Dev) (n : Nat) (x : Spi) : (d.setSpi n x).pwr = d.pwr := rfl
@[simp] theorem Dev.setSpi_press (d : Dev) (n : Nat) (x : Spi) : (d.setSpi n x).press = d.press := rfl
@[simp] theorem Dev.setSpi_maps (d : Dev) (n : Nat) (x : Spi) : (d.setSpi n x).maps = d.maps := rfl
@[simp] theorem Dev.setSpi_free (d : Dev) (n : Nat) (x : Spi) : (d.setSpi n x).free = d.free := rfl
@[simp] theorem Dev.setSpi_out (d : Dev) (n : Nat) (x : Spi) : (d.setSpi n x).out = d.out := rfl

/-! ## `Dev.setPch` -/

@[simp] theorem Dev.setPch_board (d : Dev) (k : Nat) (c : PlgCh) : (d.setPch k c).board = d.board := rfl
@[simp] theorem Dev.setPch_setup (d : Dev) (k : Nat) (c : PlgCh) : (d.setPch k c).setup = d.setup := rfl
@[simp] theorem Dev.setPch_regs (d : Dev) (k : Nat) (c : PlgCh) : (d.setPch k c).regs = d.regs := rfl
@[simp] theorem Dev.setPch_locked (d : Dev) (k : Nat) (c : PlgCh) : (d.setPch k c).locked = d.locked := rfl
@[simp] theorem Dev.setPch_pcie (d : Dev) (k : Nat) (c : PlgCh) : (d.setPch k c).pcie = d.pcie := rfl
@[simp] theorem Dev.setPch_vecs (d : Dev) (k : Nat) (c : PlgCh) : (d.setPch k c).vecs = d.vecs := rfl
@[simp] theorem Dev.setPch_host (d : Dev) (k : Nat) (c : PlgCh) : (d.setPch k c).host = d.host := rfl
@[simp] theorem Dev.setPch_ctxs (d : Dev) (k : Nat) (c : PlgCh) : (d.setPch k c).ctxs = d.ctxs := rfl
@[simp] theorem Dev.setPch_rr (d : Dev) (k : Nat) (c : PlgCh) : (d.setPch k c).rr = d.rr := rfl
@[simp] theorem Dev.setPch_nextId (d : Dev) (k : Nat) (c : PlgCh) : (d.setPch k c).nextId = d.nextId := rfl
@[simp] theorem Dev.setPch_descs (d : Dev) (k : Nat) (c : PlgCh) : (d.setPch k c).descs = d.descs := rfl
@[simp] theorem Dev.setPch_gaths (d : Dev) (k : Nat) (c : PlgCh) : (d.setPch k c).gaths = d.gaths := rfl
@[simp] theorem Dev.setPch_disabled (d : Dev) (k : Nat) (c : PlgCh) : (d.setPch k c).disabled = d.disabled := rfl
@[simp] theorem Dev.setPch_drains (d : Dev) (k : Nat) (c : PlgCh) : (d.setPch k c).drains = d.drains := rfl
@[simp] theorem Dev.setPch_sheets (d : Dev) (k : Nat) (c : PlgCh) : (d.setPch k c).sheets = d.sheets := rfl
@[simp] theorem Dev.setPch_copies (d : Dev) (k : Nat) (c : PlgCh) : (d.setPch k c).copies = d.copies := rfl
@[simp] theorem Dev.setPch_nextCopy (d : Dev) (k : Nat) (c : PlgCh) : (d.setPch k c).nextCopy = d.nextCopy := rfl
@[simp] theorem Dev.setPch_movers (d : Dev) (k : Nat) (c : PlgCh) : (d.setPch k c).movers = d.movers := rfl
@[simp] theorem Dev.setPch_plans (d : Dev) (k : Nat) (c : PlgCh) : (d.setPch k c).plans = d.plans := rfl
@[simp] theorem Dev.setPch_flt (d : Dev) (k : Nat) (c : PlgCh) : (d.setPch k c).flt = d.flt := rfl
@[simp] theorem Dev.setPch_sns (d : Dev) (k : Nat) (c : PlgCh) : (d.setPch k c).sns = d.sns := rfl
@[simp] theorem Dev.setPch_tb (d : Dev) (k : Nat) (c : PlgCh) : (d.setPch k c).tb = d.tb := rfl
@[simp] theorem Dev.setPch_mir (d : Dev) (k : Nat) (c : PlgCh) : (d.setPch k c).mir = d.mir := rfl
@[simp] theorem Dev.setPch_vault (d : Dev) (k : Nat) (c : PlgCh) : (d.setPch k c).vault = d.vault := rfl
@[simp] theorem Dev.setPch_sec (d : Dev) (k : Nat) (c : PlgCh) : (d.setPch k c).sec = d.sec := rfl
@[simp] theorem Dev.setPch_pwr (d : Dev) (k : Nat) (c : PlgCh) : (d.setPch k c).pwr = d.pwr := rfl
@[simp] theorem Dev.setPch_press (d : Dev) (k : Nat) (c : PlgCh) : (d.setPch k c).press = d.press := rfl
@[simp] theorem Dev.setPch_maps (d : Dev) (k : Nat) (c : PlgCh) : (d.setPch k c).maps = d.maps := rfl
@[simp] theorem Dev.setPch_free (d : Dev) (k : Nat) (c : PlgCh) : (d.setPch k c).free = d.free := rfl
@[simp] theorem Dev.setPch_out (d : Dev) (k : Nat) (c : PlgCh) : (d.setPch k c).out = d.out := rfl

/-! ## `Dev.setLanding` -/

@[simp] theorem Dev.setLanding_board (d : Dev) (n : Nat) (l : Landing) : (d.setLanding n l).board = d.board := rfl
@[simp] theorem Dev.setLanding_setup (d : Dev) (n : Nat) (l : Landing) : (d.setLanding n l).setup = d.setup := rfl
@[simp] theorem Dev.setLanding_regs (d : Dev) (n : Nat) (l : Landing) : (d.setLanding n l).regs = d.regs := rfl
@[simp] theorem Dev.setLanding_locked (d : Dev) (n : Nat) (l : Landing) : (d.setLanding n l).locked = d.locked := rfl
@[simp] theorem Dev.setLanding_pcie (d : Dev) (n : Nat) (l : Landing) : (d.setLanding n l).pcie = d.pcie := rfl
@[simp] theorem Dev.setLanding_vecs (d : Dev) (n : Nat) (l : Landing) : (d.setLanding n l).vecs = d.vecs := rfl
@[simp] theorem Dev.setLanding_host (d : Dev) (n : Nat) (l : Landing) : (d.setLanding n l).host = d.host := rfl
@[simp] theorem Dev.setLanding_ctxs (d : Dev) (n : Nat) (l : Landing) : (d.setLanding n l).ctxs = d.ctxs := rfl
@[simp] theorem Dev.setLanding_rr (d : Dev) (n : Nat) (l : Landing) : (d.setLanding n l).rr = d.rr := rfl
@[simp] theorem Dev.setLanding_nextId (d : Dev) (n : Nat) (l : Landing) : (d.setLanding n l).nextId = d.nextId := rfl
@[simp] theorem Dev.setLanding_descs (d : Dev) (n : Nat) (l : Landing) : (d.setLanding n l).descs = d.descs := rfl
@[simp] theorem Dev.setLanding_gaths (d : Dev) (n : Nat) (l : Landing) : (d.setLanding n l).gaths = d.gaths := rfl
@[simp] theorem Dev.setLanding_disabled (d : Dev) (n : Nat) (l : Landing) : (d.setLanding n l).disabled = d.disabled := rfl
@[simp] theorem Dev.setLanding_drains (d : Dev) (n : Nat) (l : Landing) : (d.setLanding n l).drains = d.drains := rfl
@[simp] theorem Dev.setLanding_sheets (d : Dev) (n : Nat) (l : Landing) : (d.setLanding n l).sheets = d.sheets := rfl
@[simp] theorem Dev.setLanding_copies (d : Dev) (n : Nat) (l : Landing) : (d.setLanding n l).copies = d.copies := rfl
@[simp] theorem Dev.setLanding_nextCopy (d : Dev) (n : Nat) (l : Landing) : (d.setLanding n l).nextCopy = d.nextCopy := rfl
@[simp] theorem Dev.setLanding_movers (d : Dev) (n : Nat) (l : Landing) : (d.setLanding n l).movers = d.movers := rfl
@[simp] theorem Dev.setLanding_plans (d : Dev) (n : Nat) (l : Landing) : (d.setLanding n l).plans = d.plans := rfl
@[simp] theorem Dev.setLanding_flt (d : Dev) (n : Nat) (l : Landing) : (d.setLanding n l).flt = d.flt := rfl
@[simp] theorem Dev.setLanding_tb (d : Dev) (n : Nat) (l : Landing) : (d.setLanding n l).tb = d.tb := rfl
@[simp] theorem Dev.setLanding_plg (d : Dev) (n : Nat) (l : Landing) : (d.setLanding n l).plg = d.plg := rfl
@[simp] theorem Dev.setLanding_mir (d : Dev) (n : Nat) (l : Landing) : (d.setLanding n l).mir = d.mir := rfl
@[simp] theorem Dev.setLanding_vault (d : Dev) (n : Nat) (l : Landing) : (d.setLanding n l).vault = d.vault := rfl
@[simp] theorem Dev.setLanding_sec (d : Dev) (n : Nat) (l : Landing) : (d.setLanding n l).sec = d.sec := rfl
@[simp] theorem Dev.setLanding_pwr (d : Dev) (n : Nat) (l : Landing) : (d.setLanding n l).pwr = d.pwr := rfl
@[simp] theorem Dev.setLanding_press (d : Dev) (n : Nat) (l : Landing) : (d.setLanding n l).press = d.press := rfl
@[simp] theorem Dev.setLanding_maps (d : Dev) (n : Nat) (l : Landing) : (d.setLanding n l).maps = d.maps := rfl
@[simp] theorem Dev.setLanding_free (d : Dev) (n : Nat) (l : Landing) : (d.setLanding n l).free = d.free := rfl
@[simp] theorem Dev.setLanding_out (d : Dev) (n : Nat) (l : Landing) : (d.setLanding n l).out = d.out := rfl

/-! ## `Dev.pmbOk` -/

@[simp] theorem Dev.pmbOk_board (d : Dev) : (d.pmbOk).board = d.board := rfl
@[simp] theorem Dev.pmbOk_setup (d : Dev) : (d.pmbOk).setup = d.setup := rfl
@[simp] theorem Dev.pmbOk_regs (d : Dev) : (d.pmbOk).regs = d.regs := rfl
@[simp] theorem Dev.pmbOk_locked (d : Dev) : (d.pmbOk).locked = d.locked := rfl
@[simp] theorem Dev.pmbOk_pcie (d : Dev) : (d.pmbOk).pcie = d.pcie := rfl
@[simp] theorem Dev.pmbOk_vecs (d : Dev) : (d.pmbOk).vecs = d.vecs := rfl
@[simp] theorem Dev.pmbOk_host (d : Dev) : (d.pmbOk).host = d.host := rfl
@[simp] theorem Dev.pmbOk_ctxs (d : Dev) : (d.pmbOk).ctxs = d.ctxs := rfl
@[simp] theorem Dev.pmbOk_rr (d : Dev) : (d.pmbOk).rr = d.rr := rfl
@[simp] theorem Dev.pmbOk_nextId (d : Dev) : (d.pmbOk).nextId = d.nextId := rfl
@[simp] theorem Dev.pmbOk_descs (d : Dev) : (d.pmbOk).descs = d.descs := rfl
@[simp] theorem Dev.pmbOk_gaths (d : Dev) : (d.pmbOk).gaths = d.gaths := rfl
@[simp] theorem Dev.pmbOk_disabled (d : Dev) : (d.pmbOk).disabled = d.disabled := rfl
@[simp] theorem Dev.pmbOk_drains (d : Dev) : (d.pmbOk).drains = d.drains := rfl
@[simp] theorem Dev.pmbOk_sheets (d : Dev) : (d.pmbOk).sheets = d.sheets := rfl
@[simp] theorem Dev.pmbOk_copies (d : Dev) : (d.pmbOk).copies = d.copies := rfl
@[simp] theorem Dev.pmbOk_nextCopy (d : Dev) : (d.pmbOk).nextCopy = d.nextCopy := rfl
@[simp] theorem Dev.pmbOk_movers (d : Dev) : (d.pmbOk).movers = d.movers := rfl
@[simp] theorem Dev.pmbOk_plans (d : Dev) : (d.pmbOk).plans = d.plans := rfl
@[simp] theorem Dev.pmbOk_flt (d : Dev) : (d.pmbOk).flt = d.flt := rfl
@[simp] theorem Dev.pmbOk_sns (d : Dev) : (d.pmbOk).sns = d.sns := rfl
@[simp] theorem Dev.pmbOk_tb (d : Dev) : (d.pmbOk).tb = d.tb := rfl
@[simp] theorem Dev.pmbOk_plg (d : Dev) : (d.pmbOk).plg = d.plg := rfl
@[simp] theorem Dev.pmbOk_mir (d : Dev) : (d.pmbOk).mir = d.mir := rfl
@[simp] theorem Dev.pmbOk_vault (d : Dev) : (d.pmbOk).vault = d.vault := rfl
@[simp] theorem Dev.pmbOk_sec (d : Dev) : (d.pmbOk).sec = d.sec := rfl
@[simp] theorem Dev.pmbOk_press (d : Dev) : (d.pmbOk).press = d.press := rfl
@[simp] theorem Dev.pmbOk_maps (d : Dev) : (d.pmbOk).maps = d.maps := rfl
@[simp] theorem Dev.pmbOk_free (d : Dev) : (d.pmbOk).free = d.free := rfl
@[simp] theorem Dev.pmbOk_out (d : Dev) : (d.pmbOk).out = d.out := rfl

/-! ## `Dev.idle` -/

@[simp] theorem Dev.idle_board (d : Dev) : (d.idle).board = d.board := rfl
@[simp] theorem Dev.idle_setup (d : Dev) : (d.idle).setup = d.setup := rfl
@[simp] theorem Dev.idle_regs (d : Dev) : (d.idle).regs = d.regs := rfl
@[simp] theorem Dev.idle_locked (d : Dev) : (d.idle).locked = d.locked := rfl
@[simp] theorem Dev.idle_pcie (d : Dev) : (d.idle).pcie = d.pcie := rfl
@[simp] theorem Dev.idle_vecs (d : Dev) : (d.idle).vecs = d.vecs := rfl
@[simp] theorem Dev.idle_host (d : Dev) : (d.idle).host = d.host := rfl
@[simp] theorem Dev.idle_ctxs (d : Dev) : (d.idle).ctxs = d.ctxs := rfl
@[simp] theorem Dev.idle_rr (d : Dev) : (d.idle).rr = d.rr := rfl
@[simp] theorem Dev.idle_nextId (d : Dev) : (d.idle).nextId = d.nextId := rfl
@[simp] theorem Dev.idle_descs (d : Dev) : (d.idle).descs = d.descs := rfl
@[simp] theorem Dev.idle_gaths (d : Dev) : (d.idle).gaths = d.gaths := rfl
@[simp] theorem Dev.idle_disabled (d : Dev) : (d.idle).disabled = d.disabled := rfl
@[simp] theorem Dev.idle_drains (d : Dev) : (d.idle).drains = d.drains := rfl
@[simp] theorem Dev.idle_sheets (d : Dev) : (d.idle).sheets = d.sheets := rfl
@[simp] theorem Dev.idle_copies (d : Dev) : (d.idle).copies = d.copies := rfl
@[simp] theorem Dev.idle_nextCopy (d : Dev) : (d.idle).nextCopy = d.nextCopy := rfl
@[simp] theorem Dev.idle_movers (d : Dev) : (d.idle).movers = d.movers := rfl
@[simp] theorem Dev.idle_plans (d : Dev) : (d.idle).plans = d.plans := rfl
@[simp] theorem Dev.idle_flt (d : Dev) : (d.idle).flt = d.flt := rfl
@[simp] theorem Dev.idle_sns (d : Dev) : (d.idle).sns = d.sns := rfl
@[simp] theorem Dev.idle_plg (d : Dev) : (d.idle).plg = d.plg := rfl
@[simp] theorem Dev.idle_mir (d : Dev) : (d.idle).mir = d.mir := rfl
@[simp] theorem Dev.idle_vault (d : Dev) : (d.idle).vault = d.vault := rfl
@[simp] theorem Dev.idle_sec (d : Dev) : (d.idle).sec = d.sec := rfl
@[simp] theorem Dev.idle_pwr (d : Dev) : (d.idle).pwr = d.pwr := rfl
@[simp] theorem Dev.idle_press (d : Dev) : (d.idle).press = d.press := rfl
@[simp] theorem Dev.idle_maps (d : Dev) : (d.idle).maps = d.maps := rfl
@[simp] theorem Dev.idle_free (d : Dev) : (d.idle).free = d.free := rfl
@[simp] theorem Dev.idle_out (d : Dev) : (d.idle).out = d.out := rfl

/-! ## `Dev.modLink` -/

@[simp] theorem Dev.modLink_board (d : Dev) (m : Nat) (f : Link → Link) : (d.modLink m f).board = d.board := rfl
@[simp] theorem Dev.modLink_setup (d : Dev) (m : Nat) (f : Link → Link) : (d.modLink m f).setup = d.setup := rfl
@[simp] theorem Dev.modLink_regs (d : Dev) (m : Nat) (f : Link → Link) : (d.modLink m f).regs = d.regs := rfl
@[simp] theorem Dev.modLink_locked (d : Dev) (m : Nat) (f : Link → Link) : (d.modLink m f).locked = d.locked := rfl
@[simp] theorem Dev.modLink_pcie (d : Dev) (m : Nat) (f : Link → Link) : (d.modLink m f).pcie = d.pcie := rfl
@[simp] theorem Dev.modLink_vecs (d : Dev) (m : Nat) (f : Link → Link) : (d.modLink m f).vecs = d.vecs := rfl
@[simp] theorem Dev.modLink_host (d : Dev) (m : Nat) (f : Link → Link) : (d.modLink m f).host = d.host := rfl
@[simp] theorem Dev.modLink_ctxs (d : Dev) (m : Nat) (f : Link → Link) : (d.modLink m f).ctxs = d.ctxs := rfl
@[simp] theorem Dev.modLink_rr (d : Dev) (m : Nat) (f : Link → Link) : (d.modLink m f).rr = d.rr := rfl
@[simp] theorem Dev.modLink_nextId (d : Dev) (m : Nat) (f : Link → Link) : (d.modLink m f).nextId = d.nextId := rfl
@[simp] theorem Dev.modLink_descs (d : Dev) (m : Nat) (f : Link → Link) : (d.modLink m f).descs = d.descs := rfl
@[simp] theorem Dev.modLink_gaths (d : Dev) (m : Nat) (f : Link → Link) : (d.modLink m f).gaths = d.gaths := rfl
@[simp] theorem Dev.modLink_disabled (d : Dev) (m : Nat) (f : Link → Link) : (d.modLink m f).disabled = d.disabled := rfl
@[simp] theorem Dev.modLink_drains (d : Dev) (m : Nat) (f : Link → Link) : (d.modLink m f).drains = d.drains := rfl
@[simp] theorem Dev.modLink_sheets (d : Dev) (m : Nat) (f : Link → Link) : (d.modLink m f).sheets = d.sheets := rfl
@[simp] theorem Dev.modLink_copies (d : Dev) (m : Nat) (f : Link → Link) : (d.modLink m f).copies = d.copies := rfl
@[simp] theorem Dev.modLink_nextCopy (d : Dev) (m : Nat) (f : Link → Link) : (d.modLink m f).nextCopy = d.nextCopy := rfl
@[simp] theorem Dev.modLink_movers (d : Dev) (m : Nat) (f : Link → Link) : (d.modLink m f).movers = d.movers := rfl
@[simp] theorem Dev.modLink_plans (d : Dev) (m : Nat) (f : Link → Link) : (d.modLink m f).plans = d.plans := rfl
@[simp] theorem Dev.modLink_flt (d : Dev) (m : Nat) (f : Link → Link) : (d.modLink m f).flt = d.flt := rfl
@[simp] theorem Dev.modLink_sns (d : Dev) (m : Nat) (f : Link → Link) : (d.modLink m f).sns = d.sns := rfl
@[simp] theorem Dev.modLink_tb (d : Dev) (m : Nat) (f : Link → Link) : (d.modLink m f).tb = d.tb := rfl
@[simp] theorem Dev.modLink_plg (d : Dev) (m : Nat) (f : Link → Link) : (d.modLink m f).plg = d.plg := rfl
@[simp] theorem Dev.modLink_vault (d : Dev) (m : Nat) (f : Link → Link) : (d.modLink m f).vault = d.vault := rfl
@[simp] theorem Dev.modLink_sec (d : Dev) (m : Nat) (f : Link → Link) : (d.modLink m f).sec = d.sec := rfl
@[simp] theorem Dev.modLink_pwr (d : Dev) (m : Nat) (f : Link → Link) : (d.modLink m f).pwr = d.pwr := rfl
@[simp] theorem Dev.modLink_press (d : Dev) (m : Nat) (f : Link → Link) : (d.modLink m f).press = d.press := rfl
@[simp] theorem Dev.modLink_maps (d : Dev) (m : Nat) (f : Link → Link) : (d.modLink m f).maps = d.maps := rfl
@[simp] theorem Dev.modLink_free (d : Dev) (m : Nat) (f : Link → Link) : (d.modLink m f).free = d.free := rfl
@[simp] theorem Dev.modLink_out (d : Dev) (m : Nat) (f : Link → Link) : (d.modLink m f).out = d.out := rfl

/-! ## `Dev.modSlot` -/

@[simp] theorem Dev.modSlot_board (d : Dev) (n : Nat) (f : MirSlot → MirSlot) : (d.modSlot n f).board = d.board := rfl
@[simp] theorem Dev.modSlot_setup (d : Dev) (n : Nat) (f : MirSlot → MirSlot) : (d.modSlot n f).setup = d.setup := rfl
@[simp] theorem Dev.modSlot_regs (d : Dev) (n : Nat) (f : MirSlot → MirSlot) : (d.modSlot n f).regs = d.regs := rfl
@[simp] theorem Dev.modSlot_locked (d : Dev) (n : Nat) (f : MirSlot → MirSlot) : (d.modSlot n f).locked = d.locked := rfl
@[simp] theorem Dev.modSlot_pcie (d : Dev) (n : Nat) (f : MirSlot → MirSlot) : (d.modSlot n f).pcie = d.pcie := rfl
@[simp] theorem Dev.modSlot_vecs (d : Dev) (n : Nat) (f : MirSlot → MirSlot) : (d.modSlot n f).vecs = d.vecs := rfl
@[simp] theorem Dev.modSlot_host (d : Dev) (n : Nat) (f : MirSlot → MirSlot) : (d.modSlot n f).host = d.host := rfl
@[simp] theorem Dev.modSlot_ctxs (d : Dev) (n : Nat) (f : MirSlot → MirSlot) : (d.modSlot n f).ctxs = d.ctxs := rfl
@[simp] theorem Dev.modSlot_rr (d : Dev) (n : Nat) (f : MirSlot → MirSlot) : (d.modSlot n f).rr = d.rr := rfl
@[simp] theorem Dev.modSlot_nextId (d : Dev) (n : Nat) (f : MirSlot → MirSlot) : (d.modSlot n f).nextId = d.nextId := rfl
@[simp] theorem Dev.modSlot_descs (d : Dev) (n : Nat) (f : MirSlot → MirSlot) : (d.modSlot n f).descs = d.descs := rfl
@[simp] theorem Dev.modSlot_gaths (d : Dev) (n : Nat) (f : MirSlot → MirSlot) : (d.modSlot n f).gaths = d.gaths := rfl
@[simp] theorem Dev.modSlot_disabled (d : Dev) (n : Nat) (f : MirSlot → MirSlot) : (d.modSlot n f).disabled = d.disabled := rfl
@[simp] theorem Dev.modSlot_drains (d : Dev) (n : Nat) (f : MirSlot → MirSlot) : (d.modSlot n f).drains = d.drains := rfl
@[simp] theorem Dev.modSlot_sheets (d : Dev) (n : Nat) (f : MirSlot → MirSlot) : (d.modSlot n f).sheets = d.sheets := rfl
@[simp] theorem Dev.modSlot_copies (d : Dev) (n : Nat) (f : MirSlot → MirSlot) : (d.modSlot n f).copies = d.copies := rfl
@[simp] theorem Dev.modSlot_nextCopy (d : Dev) (n : Nat) (f : MirSlot → MirSlot) : (d.modSlot n f).nextCopy = d.nextCopy := rfl
@[simp] theorem Dev.modSlot_movers (d : Dev) (n : Nat) (f : MirSlot → MirSlot) : (d.modSlot n f).movers = d.movers := rfl
@[simp] theorem Dev.modSlot_plans (d : Dev) (n : Nat) (f : MirSlot → MirSlot) : (d.modSlot n f).plans = d.plans := rfl
@[simp] theorem Dev.modSlot_flt (d : Dev) (n : Nat) (f : MirSlot → MirSlot) : (d.modSlot n f).flt = d.flt := rfl
@[simp] theorem Dev.modSlot_sns (d : Dev) (n : Nat) (f : MirSlot → MirSlot) : (d.modSlot n f).sns = d.sns := rfl
@[simp] theorem Dev.modSlot_tb (d : Dev) (n : Nat) (f : MirSlot → MirSlot) : (d.modSlot n f).tb = d.tb := rfl
@[simp] theorem Dev.modSlot_plg (d : Dev) (n : Nat) (f : MirSlot → MirSlot) : (d.modSlot n f).plg = d.plg := rfl
@[simp] theorem Dev.modSlot_vault (d : Dev) (n : Nat) (f : MirSlot → MirSlot) : (d.modSlot n f).vault = d.vault := rfl
@[simp] theorem Dev.modSlot_sec (d : Dev) (n : Nat) (f : MirSlot → MirSlot) : (d.modSlot n f).sec = d.sec := rfl
@[simp] theorem Dev.modSlot_pwr (d : Dev) (n : Nat) (f : MirSlot → MirSlot) : (d.modSlot n f).pwr = d.pwr := rfl
@[simp] theorem Dev.modSlot_press (d : Dev) (n : Nat) (f : MirSlot → MirSlot) : (d.modSlot n f).press = d.press := rfl
@[simp] theorem Dev.modSlot_maps (d : Dev) (n : Nat) (f : MirSlot → MirSlot) : (d.modSlot n f).maps = d.maps := rfl
@[simp] theorem Dev.modSlot_free (d : Dev) (n : Nat) (f : MirSlot → MirSlot) : (d.modSlot n f).free = d.free := rfl
@[simp] theorem Dev.modSlot_out (d : Dev) (n : Nat) (f : MirSlot → MirSlot) : (d.modSlot n f).out = d.out := rfl

/-! ## `Dev.pmbus` -/

@[simp] theorem Dev.pmbus_board (d : Dev) (code : Byte) (word : Option (BitVec 16)) : (d.pmbus code word).board = d.board := rfl
@[simp] theorem Dev.pmbus_setup (d : Dev) (code : Byte) (word : Option (BitVec 16)) : (d.pmbus code word).setup = d.setup := rfl
@[simp] theorem Dev.pmbus_regs (d : Dev) (code : Byte) (word : Option (BitVec 16)) : (d.pmbus code word).regs = d.regs := rfl
@[simp] theorem Dev.pmbus_locked (d : Dev) (code : Byte) (word : Option (BitVec 16)) : (d.pmbus code word).locked = d.locked := rfl
@[simp] theorem Dev.pmbus_pcie (d : Dev) (code : Byte) (word : Option (BitVec 16)) : (d.pmbus code word).pcie = d.pcie := rfl
@[simp] theorem Dev.pmbus_vecs (d : Dev) (code : Byte) (word : Option (BitVec 16)) : (d.pmbus code word).vecs = d.vecs := rfl
@[simp] theorem Dev.pmbus_host (d : Dev) (code : Byte) (word : Option (BitVec 16)) : (d.pmbus code word).host = d.host := rfl
@[simp] theorem Dev.pmbus_ctxs (d : Dev) (code : Byte) (word : Option (BitVec 16)) : (d.pmbus code word).ctxs = d.ctxs := rfl
@[simp] theorem Dev.pmbus_rr (d : Dev) (code : Byte) (word : Option (BitVec 16)) : (d.pmbus code word).rr = d.rr := rfl
@[simp] theorem Dev.pmbus_nextId (d : Dev) (code : Byte) (word : Option (BitVec 16)) : (d.pmbus code word).nextId = d.nextId := rfl
@[simp] theorem Dev.pmbus_descs (d : Dev) (code : Byte) (word : Option (BitVec 16)) : (d.pmbus code word).descs = d.descs := rfl
@[simp] theorem Dev.pmbus_gaths (d : Dev) (code : Byte) (word : Option (BitVec 16)) : (d.pmbus code word).gaths = d.gaths := rfl
@[simp] theorem Dev.pmbus_disabled (d : Dev) (code : Byte) (word : Option (BitVec 16)) : (d.pmbus code word).disabled = d.disabled := rfl
@[simp] theorem Dev.pmbus_drains (d : Dev) (code : Byte) (word : Option (BitVec 16)) : (d.pmbus code word).drains = d.drains := rfl
@[simp] theorem Dev.pmbus_sheets (d : Dev) (code : Byte) (word : Option (BitVec 16)) : (d.pmbus code word).sheets = d.sheets := rfl
@[simp] theorem Dev.pmbus_copies (d : Dev) (code : Byte) (word : Option (BitVec 16)) : (d.pmbus code word).copies = d.copies := rfl
@[simp] theorem Dev.pmbus_nextCopy (d : Dev) (code : Byte) (word : Option (BitVec 16)) : (d.pmbus code word).nextCopy = d.nextCopy := rfl
@[simp] theorem Dev.pmbus_movers (d : Dev) (code : Byte) (word : Option (BitVec 16)) : (d.pmbus code word).movers = d.movers := rfl
@[simp] theorem Dev.pmbus_plans (d : Dev) (code : Byte) (word : Option (BitVec 16)) : (d.pmbus code word).plans = d.plans := rfl
@[simp] theorem Dev.pmbus_flt (d : Dev) (code : Byte) (word : Option (BitVec 16)) : (d.pmbus code word).flt = d.flt := rfl
@[simp] theorem Dev.pmbus_sns (d : Dev) (code : Byte) (word : Option (BitVec 16)) : (d.pmbus code word).sns = d.sns := rfl
@[simp] theorem Dev.pmbus_tb (d : Dev) (code : Byte) (word : Option (BitVec 16)) : (d.pmbus code word).tb = d.tb := rfl
@[simp] theorem Dev.pmbus_plg (d : Dev) (code : Byte) (word : Option (BitVec 16)) : (d.pmbus code word).plg = d.plg := rfl
@[simp] theorem Dev.pmbus_mir (d : Dev) (code : Byte) (word : Option (BitVec 16)) : (d.pmbus code word).mir = d.mir := rfl
@[simp] theorem Dev.pmbus_vault (d : Dev) (code : Byte) (word : Option (BitVec 16)) : (d.pmbus code word).vault = d.vault := rfl
@[simp] theorem Dev.pmbus_sec (d : Dev) (code : Byte) (word : Option (BitVec 16)) : (d.pmbus code word).sec = d.sec := rfl
@[simp] theorem Dev.pmbus_pwr (d : Dev) (code : Byte) (word : Option (BitVec 16)) : (d.pmbus code word).pwr = d.pwr := rfl
@[simp] theorem Dev.pmbus_press (d : Dev) (code : Byte) (word : Option (BitVec 16)) : (d.pmbus code word).press = d.press := rfl
@[simp] theorem Dev.pmbus_maps (d : Dev) (code : Byte) (word : Option (BitVec 16)) : (d.pmbus code word).maps = d.maps := rfl
@[simp] theorem Dev.pmbus_free (d : Dev) (code : Byte) (word : Option (BitVec 16)) : (d.pmbus code word).free = d.free := rfl

/-! ## `Vault.update` -/

@[simp] theorem Vault.update_romDigest (v : Vault) (g : StateRec → StateRec) : (v.update g).romDigest = v.romDigest := by
  unfold Vault.update; dsimp only; split <;> rfl
@[simp] theorem Vault.update_rootKey (v : Vault) (g : StateRec → StateRec) : (v.update g).rootKey = v.rootKey := by
  unfold Vault.update; dsimp only; split <;> rfl
@[simp] theorem Vault.update_debugKey (v : Vault) (g : StateRec → StateRec) : (v.update g).debugKey = v.debugKey := by
  unfold Vault.update; dsimp only; split <;> rfl
@[simp] theorem Vault.update_vendorOk (v : Vault) (g : StateRec → StateRec) : (v.update g).vendorOk = v.vendorOk := by
  unfold Vault.update; dsimp only; split <;> rfl
@[simp] theorem Vault.update_vendorDigest (v : Vault) (g : StateRec → StateRec) : (v.update g).vendorDigest = v.vendorDigest := by
  unfold Vault.update; dsimp only; split <;> rfl
@[simp] theorem Vault.update_openClaim (v : Vault) (g : StateRec → StateRec) : (v.update g).openClaim = v.openClaim := by
  unfold Vault.update; dsimp only; split <;> rfl
@[simp] theorem Vault.update_idDigest (v : Vault) (g : StateRec → StateRec) : (v.update g).idDigest = v.idDigest := by
  unfold Vault.update; dsimp only; split <;> rfl
@[simp] theorem Vault.update_owner (v : Vault) (g : StateRec → StateRec) : (v.update g).owner = v.owner := by
  unfold Vault.update; dsimp only; split <;> rfl
@[simp] theorem Vault.update_ownerA (v : Vault) (g : StateRec → StateRec) : (v.update g).ownerA = v.ownerA := by
  unfold Vault.update; dsimp only; split <;> rfl
@[simp] theorem Vault.update_ownerB (v : Vault) (g : StateRec → StateRec) : (v.update g).ownerB = v.ownerB := by
  unfold Vault.update; dsimp only; split <;> rfl
@[simp] theorem Vault.update_flashA (v : Vault) (g : StateRec → StateRec) : (v.update g).flashA = v.flashA := by
  unfold Vault.update; dsimp only; split <;> rfl
@[simp] theorem Vault.update_flashB (v : Vault) (g : StateRec → StateRec) : (v.update g).flashB = v.flashB := by
  unfold Vault.update; dsimp only; split <;> rfl

/-! ## `Dev.framed` -/

@[simp] theorem Dev.framed_board (old new : Dev) : (old.framed new).board = old.board := rfl
@[simp] theorem Dev.framed_setup (old new : Dev) : (old.framed new).setup = old.setup := rfl
@[simp] theorem Dev.framed_regs (old new : Dev) : (old.framed new).regs = new.regs := rfl
@[simp] theorem Dev.framed_locked (old new : Dev) : (old.framed new).locked = old.locked := rfl
@[simp] theorem Dev.framed_pcie (old new : Dev) : (old.framed new).pcie = new.pcie := rfl
@[simp] theorem Dev.framed_vecs (old new : Dev) : (old.framed new).vecs = new.vecs := rfl
@[simp] theorem Dev.framed_host (old new : Dev) : (old.framed new).host = new.host := rfl
@[simp] theorem Dev.framed_ctxs (old new : Dev) : (old.framed new).ctxs = new.ctxs := rfl
@[simp] theorem Dev.framed_rr (old new : Dev) : (old.framed new).rr = new.rr := rfl
@[simp] theorem Dev.framed_nextId (old new : Dev) : (old.framed new).nextId = new.nextId := rfl
@[simp] theorem Dev.framed_descs (old new : Dev) : (old.framed new).descs = new.descs := rfl
@[simp] theorem Dev.framed_gaths (old new : Dev) : (old.framed new).gaths = new.gaths := rfl
@[simp] theorem Dev.framed_disabled (old new : Dev) : (old.framed new).disabled = new.disabled := rfl
@[simp] theorem Dev.framed_drains (old new : Dev) : (old.framed new).drains = new.drains := rfl
@[simp] theorem Dev.framed_sheets (old new : Dev) : (old.framed new).sheets = new.sheets := rfl
@[simp] theorem Dev.framed_copies (old new : Dev) : (old.framed new).copies = new.copies := rfl
@[simp] theorem Dev.framed_nextCopy (old new : Dev) : (old.framed new).nextCopy = new.nextCopy := rfl
@[simp] theorem Dev.framed_movers (old new : Dev) : (old.framed new).movers = new.movers := rfl
@[simp] theorem Dev.framed_plans (old new : Dev) : (old.framed new).plans = new.plans := rfl
@[simp] theorem Dev.framed_flt (old new : Dev) : (old.framed new).flt = new.flt := rfl
@[simp] theorem Dev.framed_sns (old new : Dev) : (old.framed new).sns = new.sns := rfl
@[simp] theorem Dev.framed_tb (old new : Dev) : (old.framed new).tb = new.tb := rfl
@[simp] theorem Dev.framed_plg (old new : Dev) : (old.framed new).plg = new.plg := rfl
@[simp] theorem Dev.framed_sec (old new : Dev) : (old.framed new).sec = new.sec := rfl
@[simp] theorem Dev.framed_pwr (old new : Dev) : (old.framed new).pwr = new.pwr := rfl
@[simp] theorem Dev.framed_press (old new : Dev) : (old.framed new).press = new.press := rfl
@[simp] theorem Dev.framed_maps (old new : Dev) : (old.framed new).maps = new.maps := rfl
@[simp] theorem Dev.framed_free (old new : Dev) : (old.framed new).free = new.free := rfl
@[simp] theorem Dev.framed_out (old new : Dev) : (old.framed new).out = new.out := rfl

/-! ## Alive and running -/

@[simp] theorem Dev.emitOut_running (d : Dev) (o : Out) : (d.emitOut o).running = d.running := rfl
@[simp] theorem Dev.setOwn_running (d : Dev) (off : Nat) (w : DW) : (d.setOwn off w).running = d.running := rfl
@[simp] theorem Dev.count_running (d : Dev) (off n : Nat) : (d.count off n).running = d.running := rfl
@[simp] theorem Dev.setReg_running (d : Dev) (off : Nat) (w : DW) : (d.setReg off w).running = d.running := rfl
@[simp] theorem Dev.setCtx_running (d : Dev) (c : Nat) (x : Ctx) : (d.setCtx c x).running = d.running := rfl
@[simp] theorem Dev.modCtx_running (d : Dev) (c : Nat) (f : Ctx → Ctx) : (d.modCtx c f).running = d.running := rfl
@[simp] theorem Dev.modDesc_running (d : Dev) (id : Nat) (f : Desc → Desc) : (d.modDesc id f).running = d.running := rfl
@[simp] theorem Dev.setSheet_running (d : Dev) (i : Nat) (x : Sheet) : (d.setSheet i x).running = d.running := rfl
@[simp] theorem Dev.modSheet_running (d : Dev) (i : Nat) (f : Sheet → Sheet) : (d.modSheet i f).running = d.running := rfl
@[simp] theorem Dev.setGath_running (d : Dev) (i : Nat) (g : Gath) : (d.setGath i g).running = d.running := rfl
@[simp] theorem Dev.modTb_running (d : Dev) (f : Tb → Tb) : (d.modTb f).running = d.running := rfl
@[simp] theorem Dev.setTrig_running (d : Dev) (n : Nat) (t : Trig) : (d.setTrig n t).running = d.running := rfl
@[simp] theorem Dev.setPtp_running (d : Dev) (p : Nat) (x : PtpPort) : (d.setPtp p x).running = d.running := rfl
@[simp] theorem Dev.setSpi_running (d : Dev) (n : Nat) (x : Spi) : (d.setSpi n x).running = d.running := rfl
@[simp] theorem Dev.setPch_running (d : Dev) (k : Nat) (c : PlgCh) : (d.setPch k c).running = d.running := rfl
@[simp] theorem Dev.setLanding_running (d : Dev) (n : Nat) (l : Landing) : (d.setLanding n l).running = d.running := rfl
@[simp] theorem Dev.idle_running (d : Dev) : (d.idle).running = d.running := rfl

/-! ## What an update writes -/

@[simp] theorem Dev.modTb_tb (d : Dev) (f : Tb → Tb) : (d.modTb f).tb = f d.tb := rfl
@[simp] theorem Dev.emitOut_out (d : Dev) (o : Out) : (d.emitOut o).out = d.out ++ [o] := rfl
@[simp] theorem Dev.setReg_setup (d : Dev) (off : Nat) (w : DW) :
    (d.setReg off w).setup = Tab.put (resetWord d.board.variant off) d.setup off w := rfl
@[simp] theorem Dev.setOwn_regs (d : Dev) (off : Nat) (w : DW) : (d.setOwn off w).regs = Tab.put 0 d.regs off w := rfl

end Sys2Proof.Machine
end

