-- ==== Sys2Proof/Laws/Records.lean ====
section
/-! SUPPORT. What raising an interrupt, writing an event record and writing a completion record leave alone (R91–R95). -/

namespace Sys2Proof.Machine

/-! ## `Dev.sendVec` -/

@[simp] theorem Dev.sendVec_board (d : Dev) (f v : Nat) : (d.sendVec f v).board = d.board := by
    unfold Dev.sendVec; dsimp only; split <;> rfl

@[simp] theorem Dev.sendVec_setup (d : Dev) (f v : Nat) : (d.sendVec f v).setup = d.setup := by
    unfold Dev.sendVec; dsimp only; split <;> rfl

@[simp] theorem Dev.sendVec_regs (d : Dev) (f v : Nat) : (d.sendVec f v).regs = d.regs := by
    unfold Dev.sendVec; dsimp only; split <;> rfl

@[simp] theorem Dev.sendVec_locked (d : Dev) (f v : Nat) : (d.sendVec f v).locked = d.locked := by
    unfold Dev.sendVec; dsimp only; split <;> rfl

@[simp] theorem Dev.sendVec_pcie (d : Dev) (f v : Nat) : (d.sendVec f v).pcie = d.pcie := by
    unfold Dev.sendVec; dsimp only; split <;> rfl

@[simp] theorem Dev.sendVec_host (d : Dev) (f v : Nat) : (d.sendVec f v).host = d.host := by
    unfold Dev.sendVec; dsimp only; split <;> rfl

@[simp] theorem Dev.sendVec_ctxs (d : Dev) (f v : Nat) : (d.sendVec f v).ctxs = d.ctxs := by
    unfold Dev.sendVec; dsimp only; split <;> rfl

@[simp] theorem Dev.sendVec_rr (d : Dev) (f v : Nat) : (d.sendVec f v).rr = d.rr := by
    unfold Dev.sendVec; dsimp only; split <;> rfl

@[simp] theorem Dev.sendVec_nextId (d : Dev) (f v : Nat) : (d.sendVec f v).nextId = d.nextId := by
    unfold Dev.sendVec; dsimp only; split <;> rfl

@[simp] theorem Dev.sendVec_descs (d : Dev) (f v : Nat) : (d.sendVec f v).descs = d.descs := by
    unfold Dev.sendVec; dsimp only; split <;> rfl

@[simp] theorem Dev.sendVec_gaths (d : Dev) (f v : Nat) : (d.sendVec f v).gaths = d.gaths := by
    unfold Dev.sendVec; dsimp only; split <;> rfl

@[simp] theorem Dev.sendVec_disabled (d : Dev) (f v : Nat) : (d.sendVec f v).disabled = d.disabled := by
    unfold Dev.sendVec; dsimp only; split <;> rfl

@[simp] theorem Dev.sendVec_drains (d : Dev) (f v : Nat) : (d.sendVec f v).drains = d.drains := by
    unfold Dev.sendVec; dsimp only; split <;> rfl

@[simp] theorem Dev.sendVec_sheets (d : Dev) (f v : Nat) : (d.sendVec f v).sheets = d.sheets := by
    unfold Dev.sendVec; dsimp only; split <;> rfl

@[simp] theorem Dev.sendVec_copies (d : Dev) (f v : Nat) : (d.sendVec f v).copies = d.copies := by
    unfold Dev.sendVec; dsimp only; split <;> rfl

@[simp] theorem Dev.sendVec_nextCopy (d : Dev) (f v : Nat) : (d.sendVec f v).nextCopy = d.nextCopy := by
    unfold Dev.sendVec; dsimp only; split <;> rfl

@[simp] theorem Dev.sendVec_movers (d : Dev) (f v : Nat) : (d.sendVec f v).movers = d.movers := by
    unfold Dev.sendVec; dsimp only; split <;> rfl

@[simp] theorem Dev.sendVec_plans (d : Dev) (f v : Nat) : (d.sendVec f v).plans = d.plans := by
    unfold Dev.sendVec; dsimp only; split <;> rfl

@[simp] theorem Dev.sendVec_flt (d : Dev) (f v : Nat) : (d.sendVec f v).flt = d.flt := by
    unfold Dev.sendVec; dsimp only; split <;> rfl

@[simp] theorem Dev.sendVec_sns (d : Dev) (f v : Nat) : (d.sendVec f v).sns = d.sns := by
    unfold Dev.sendVec; dsimp only; split <;> rfl

@[simp] theorem Dev.sendVec_tb (d : Dev) (f v : Nat) : (d.sendVec f v).tb = d.tb := by
    unfold Dev.sendVec; dsimp only; split <;> rfl

@[simp] theorem Dev.sendVec_plg (d : Dev) (f v : Nat) : (d.sendVec f v).plg = d.plg := by
    unfold Dev.sendVec; dsimp only; split <;> rfl

@[simp] theorem Dev.sendVec_mir (d : Dev) (f v : Nat) : (d.sendVec f v).mir = d.mir := by
    unfold Dev.sendVec; dsimp only; split <;> rfl

@[simp] theorem Dev.sendVec_vault (d : Dev) (f v : Nat) : (d.sendVec f v).vault = d.vault := by
    unfold Dev.sendVec; dsimp only; split <;> rfl

@[simp] theorem Dev.sendVec_sec (d : Dev) (f v : Nat) : (d.sendVec f v).sec = d.sec := by
    unfold Dev.sendVec; dsimp only; split <;> rfl

@[simp] theorem Dev.sendVec_pwr (d : Dev) (f v : Nat) : (d.sendVec f v).pwr = d.pwr := by
    unfold Dev.sendVec; dsimp only; split <;> rfl

@[simp] theorem Dev.sendVec_press (d : Dev) (f v : Nat) : (d.sendVec f v).press = d.press := by
    unfold Dev.sendVec; dsimp only; split <;> rfl

@[simp] theorem Dev.sendVec_maps (d : Dev) (f v : Nat) : (d.sendVec f v).maps = d.maps := by
    unfold Dev.sendVec; dsimp only; split <;> rfl

@[simp] theorem Dev.sendVec_free (d : Dev) (f v : Nat) : (d.sendVec f v).free = d.free := by
    unfold Dev.sendVec; dsimp only; split <;> rfl

@[simp] theorem Dev.sendVec_running (d : Dev) (f v : Nat) : (d.sendVec f v).running = d.running := by
    simp [Dev.running, Dev.alive]

/-! ## `Dev.raiseVec` -/

@[simp] theorem Dev.raiseVec_board (d : Dev) (c v : Nat) : (d.raiseVec c v).board = d.board := by
    unfold Dev.raiseVec; dsimp only; split
    · simp
    · split <;> rfl

@[simp] theorem Dev.raiseVec_setup (d : Dev) (c v : Nat) : (d.raiseVec c v).setup = d.setup := by
    unfold Dev.raiseVec; dsimp only; split
    · simp
    · split <;> rfl

@[simp] theorem Dev.raiseVec_regs (d : Dev) (c v : Nat) : (d.raiseVec c v).regs = d.regs := by
    unfold Dev.raiseVec; dsimp only; split
    · simp
    · split <;> rfl

@[simp] theorem Dev.raiseVec_locked (d : Dev) (c v : Nat) : (d.raiseVec c v).locked = d.locked := by
    unfold Dev.raiseVec; dsimp only; split
    · simp
    · split <;> rfl

@[simp] theorem Dev.raiseVec_pcie (d : Dev) (c v : Nat) : (d.raiseVec c v).pcie = d.pcie := by
    unfold Dev.raiseVec; dsimp only; split
    · simp
    · split <;> rfl

@[simp] theorem Dev.raiseVec_host (d : Dev) (c v : Nat) : (d.raiseVec c v).host = d.host := by
    unfold Dev.raiseVec; dsimp only; split
    · simp
    · split <;> rfl

@[simp] theorem Dev.raiseVec_ctxs (d : Dev) (c v : Nat) : (d.raiseVec c v).ctxs = d.ctxs := by
    unfold Dev.raiseVec; dsimp only; split
    · simp
    · split <;> rfl

@[simp] theorem Dev.raiseVec_rr (d : Dev) (c v : Nat) : (d.raiseVec c v).rr = d.rr := by
    unfold Dev.raiseVec; dsimp only; split
    · simp
    · split <;> rfl

@[simp] theorem Dev.raiseVec_nextId (d : Dev) (c v : Nat) : (d.raiseVec c v).nextId = d.nextId := by
    unfold Dev.raiseVec; dsimp only; split
    · simp
    · split <;> rfl

@[simp] theorem Dev.raiseVec_descs (d : Dev) (c v : Nat) : (d.raiseVec c v).descs = d.descs := by
    unfold Dev.raiseVec; dsimp only; split
    · simp
    · split <;> rfl

@[simp] theorem Dev.raiseVec_gaths (d : Dev) (c v : Nat) : (d.raiseVec c v).gaths = d.gaths := by
    unfold Dev.raiseVec; dsimp only; split
    · simp
    · split <;> rfl

@[simp] theorem Dev.raiseVec_disabled (d : Dev) (c v : Nat) : (d.raiseVec c v).disabled = d.disabled := by
    unfold Dev.raiseVec; dsimp only; split
    · simp
    · split <;> rfl

@[simp] theorem Dev.raiseVec_drains (d : Dev) (c v : Nat) : (d.raiseVec c v).drains = d.drains := by
    unfold Dev.raiseVec; dsimp only; split
    · simp
    · split <;> rfl

@[simp] theorem Dev.raiseVec_sheets (d : Dev) (c v : Nat) : (d.raiseVec c v).sheets = d.sheets := by
    unfold Dev.raiseVec; dsimp only; split
    · simp
    · split <;> rfl

@[simp] theorem Dev.raiseVec_copies (d : Dev) (c v : Nat) : (d.raiseVec c v).copies = d.copies := by
    unfold Dev.raiseVec; dsimp only; split
    · simp
    · split <;> rfl

@[simp] theorem Dev.raiseVec_nextCopy (d : Dev) (c v : Nat) : (d.raiseVec c v).nextCopy = d.nextCopy := by
    unfold Dev.raiseVec; dsimp only; split
    · simp
    · split <;> rfl

@[simp] theorem Dev.raiseVec_movers (d : Dev) (c v : Nat) : (d.raiseVec c v).movers = d.movers := by
    unfold Dev.raiseVec; dsimp only; split
    · simp
    · split <;> rfl

@[simp] theorem Dev.raiseVec_plans (d : Dev) (c v : Nat) : (d.raiseVec c v).plans = d.plans := by
    unfold Dev.raiseVec; dsimp only; split
    · simp
    · split <;> rfl

@[simp] theorem Dev.raiseVec_flt (d : Dev) (c v : Nat) : (d.raiseVec c v).flt = d.flt := by
    unfold Dev.raiseVec; dsimp only; split
    · simp
    · split <;> rfl

@[simp] theorem Dev.raiseVec_sns (d : Dev) (c v : Nat) : (d.raiseVec c v).sns = d.sns := by
    unfold Dev.raiseVec; dsimp only; split
    · simp
    · split <;> rfl

@[simp] theorem Dev.raiseVec_tb (d : Dev) (c v : Nat) : (d.raiseVec c v).tb = d.tb := by
    unfold Dev.raiseVec; dsimp only; split
    · simp
    · split <;> rfl

@[simp] theorem Dev.raiseVec_plg (d : Dev) (c v : Nat) : (d.raiseVec c v).plg = d.plg := by
    unfold Dev.raiseVec; dsimp only; split
    · simp
    · split <;> rfl

@[simp] theorem Dev.raiseVec_mir (d : Dev) (c v : Nat) : (d.raiseVec c v).mir = d.mir := by
    unfold Dev.raiseVec; dsimp only; split
    · simp
    · split <;> rfl

@[simp] theorem Dev.raiseVec_vault (d : Dev) (c v : Nat) : (d.raiseVec c v).vault = d.vault := by
    unfold Dev.raiseVec; dsimp only; split
    · simp
    · split <;> rfl

@[simp] theorem Dev.raiseVec_sec (d : Dev) (c v : Nat) : (d.raiseVec c v).sec = d.sec := by
    unfold Dev.raiseVec; dsimp only; split
    · simp
    · split <;> rfl

@[simp] theorem Dev.raiseVec_pwr (d : Dev) (c v : Nat) : (d.raiseVec c v).pwr = d.pwr := by
    unfold Dev.raiseVec; dsimp only; split
    · simp
    · split <;> rfl

@[simp] theorem Dev.raiseVec_press (d : Dev) (c v : Nat) : (d.raiseVec c v).press = d.press := by
    unfold Dev.raiseVec; dsimp only; split
    · simp
    · split <;> rfl

@[simp] theorem Dev.raiseVec_maps (d : Dev) (c v : Nat) : (d.raiseVec c v).maps = d.maps := by
    unfold Dev.raiseVec; dsimp only; split
    · simp
    · split <;> rfl

@[simp] theorem Dev.raiseVec_free (d : Dev) (c v : Nat) : (d.raiseVec c v).free = d.free := by
    unfold Dev.raiseVec; dsimp only; split
    · simp
    · split <;> rfl

@[simp] theorem Dev.raiseVec_running (d : Dev) (c v : Nat) : (d.raiseVec c v).running = d.running := by
    simp [Dev.running, Dev.alive]

/-! ## `Dev.event` -/

@[simp] theorem Dev.event_board (d : Dev) (e : Ev) : (d.event e).board = d.board := by
    unfold Dev.event; dsimp only; split
    · rfl
    · split
      · rfl
      · simp

@[simp] theorem Dev.event_setup (d : Dev) (e : Ev) : (d.event e).setup = d.setup := by
    unfold Dev.event; dsimp only; split
    · rfl
    · split
      · rfl
      · simp

@[simp] theorem Dev.event_locked (d : Dev) (e : Ev) : (d.event e).locked = d.locked := by
    unfold Dev.event; dsimp only; split
    · rfl
    · split
      · rfl
      · simp

@[simp] theorem Dev.event_pcie (d : Dev) (e : Ev) : (d.event e).pcie = d.pcie := by
    unfold Dev.event; dsimp only; split
    · rfl
    · split
      · rfl
      · simp

@[simp] theorem Dev.event_rr (d : Dev) (e : Ev) : (d.event e).rr = d.rr := by
    unfold Dev.event; dsimp only; split
    · rfl
    · split
      · rfl
      · simp

@[simp] theorem Dev.event_nextId (d : Dev) (e : Ev) : (d.event e).nextId = d.nextId := by
    unfold Dev.event; dsimp only; split
    · rfl
    · split
      · rfl
      · simp

@[simp] theorem Dev.event_descs (d : Dev) (e : Ev) : (d.event e).descs = d.descs := by
    unfold Dev.event; dsimp only; split
    · rfl
    · split
      · rfl
      · simp

@[simp] theorem Dev.event_gaths (d : Dev) (e : Ev) : (d.event e).gaths = d.gaths := by
    unfold Dev.event; dsimp only; split
    · rfl
    · split
      · rfl
      · simp

@[simp] theorem Dev.event_disabled (d : Dev) (e : Ev) : (d.event e).disabled = d.disabled := by
    unfold Dev.event; dsimp only; split
    · rfl
    · split
      · rfl
      · simp

@[simp] theorem Dev.event_drains (d : Dev) (e : Ev) : (d.event e).drains = d.drains := by
    unfold Dev.event; dsimp only; split
    · rfl
    · split
      · rfl
      · simp

@[simp] theorem Dev.event_sheets (d : Dev) (e : Ev) : (d.event e).sheets = d.sheets := by
    unfold Dev.event; dsimp only; split
    · rfl
    · split
      · rfl
      · simp

@[simp] theorem Dev.event_copies (d : Dev) (e : Ev) : (d.event e).copies = d.copies := by
    unfold Dev.event; dsimp only; split
    · rfl
    · split
      · rfl
      · simp

@[simp] theorem Dev.event_nextCopy (d : Dev) (e : Ev) : (d.event e).nextCopy = d.nextCopy := by
    unfold Dev.event; dsimp only; split
    · rfl
    · split
      · rfl
      · simp

@[simp] theorem Dev.event_movers (d : Dev) (e : Ev) : (d.event e).movers = d.movers := by
    unfold Dev.event; dsimp only; split
    · rfl
    · split
      · rfl
      · simp

@[simp] theorem Dev.event_plans (d : Dev) (e : Ev) : (d.event e).plans = d.plans := by
    unfold Dev.event; dsimp only; split
    · rfl
    · split
      · rfl
      · simp

@[simp] theorem Dev.event_flt (d : Dev) (e : Ev) : (d.event e).flt = d.flt := by
    unfold Dev.event; dsimp only; split
    · rfl
    · split
      · rfl
      · simp

@[simp] theorem Dev.event_sns (d : Dev) (e : Ev) : (d.event e).sns = d.sns := by
    unfold Dev.event; dsimp only; split
    · rfl
    · split
      · rfl
      · simp

@[simp] theorem Dev.event_tb (d : Dev) (e : Ev) : (d.event e).tb = d.tb := by
    unfold Dev.event; dsimp only; split
    · rfl
    · split
      · rfl
      · simp

@[simp] theorem Dev.event_plg (d : Dev) (e : Ev) : (d.event e).plg = d.plg := by
    unfold Dev.event; dsimp only; split
    · rfl
    · split
      · rfl
      · simp

@[simp] theorem Dev.event_mir (d : Dev) (e : Ev) : (d.event e).mir = d.mir := by
    unfold Dev.event; dsimp only; split
    · rfl
    · split
      · rfl
      · simp

@[simp] theorem Dev.event_vault (d : Dev) (e : Ev) : (d.event e).vault = d.vault := by
    unfold Dev.event; dsimp only; split
    · rfl
    · split
      · rfl
      · simp

@[simp] theorem Dev.event_sec (d : Dev) (e : Ev) : (d.event e).sec = d.sec := by
    unfold Dev.event; dsimp only; split
    · rfl
    · split
      · rfl
      · simp

@[simp] theorem Dev.event_pwr (d : Dev) (e : Ev) : (d.event e).pwr = d.pwr := by
    unfold Dev.event; dsimp only; split
    · rfl
    · split
      · rfl
      · simp

@[simp] theorem Dev.event_press (d : Dev) (e : Ev) : (d.event e).press = d.press := by
    unfold Dev.event; dsimp only; split
    · rfl
    · split
      · rfl
      · simp

@[simp] theorem Dev.event_maps (d : Dev) (e : Ev) : (d.event e).maps = d.maps := by
    unfold Dev.event; dsimp only; split
    · rfl
    · split
      · rfl
      · simp

@[simp] theorem Dev.event_free (d : Dev) (e : Ev) : (d.event e).free = d.free := by
    unfold Dev.event; dsimp only; split
    · rfl
    · split
      · rfl
      · simp

@[simp] theorem Dev.event_running (d : Dev) (e : Ev) : (d.event e).running = d.running := by
    simp [Dev.running, Dev.alive]

/-! ## `Dev.complete` -/

@[simp] theorem Dev.complete_board (d : Dev) (c : Nat) (w : DescWords) (r : Fin_) : (d.complete c w r).board = d.board := by
    unfold Dev.complete; dsimp only; (repeat' split) <;> simp

@[simp] theorem Dev.complete_setup (d : Dev) (c : Nat) (w : DescWords) (r : Fin_) : (d.complete c w r).setup = d.setup := by
    unfold Dev.complete; dsimp only; (repeat' split) <;> simp

@[simp] theorem Dev.complete_locked (d : Dev) (c : Nat) (w : DescWords) (r : Fin_) : (d.complete c w r).locked = d.locked := by
    unfold Dev.complete; dsimp only; (repeat' split) <;> simp

@[simp] theorem Dev.complete_pcie (d : Dev) (c : Nat) (w : DescWords) (r : Fin_) : (d.complete c w r).pcie = d.pcie := by
    unfold Dev.complete; dsimp only; (repeat' split) <;> simp

@[simp] theorem Dev.complete_rr (d : Dev) (c : Nat) (w : DescWords) (r : Fin_) : (d.complete c w r).rr = d.rr := by
    unfold Dev.complete; dsimp only; (repeat' split) <;> simp

@[simp] theorem Dev.complete_nextId (d : Dev) (c : Nat) (w : DescWords) (r : Fin_) : (d.complete c w r).nextId = d.nextId := by
    unfold Dev.complete; dsimp only; (repeat' split) <;> simp

@[simp] theorem Dev.complete_descs (d : Dev) (c : Nat) (w : DescWords) (r : Fin_) : (d.complete c w r).descs = d.descs := by
    unfold Dev.complete; dsimp only; (repeat' split) <;> simp

@[simp] theorem Dev.complete_gaths (d : Dev) (c : Nat) (w : DescWords) (r : Fin_) : (d.complete c w r).gaths = d.gaths := by
    unfold Dev.complete; dsimp only; (repeat' split) <;> simp

@[simp] theorem Dev.complete_disabled (d : Dev) (c : Nat) (w : DescWords) (r : Fin_) : (d.complete c w r).disabled = d.disabled := by
    unfold Dev.complete; dsimp only; (repeat' split) <;> simp

@[simp] theorem Dev.complete_drains (d : Dev) (c : Nat) (w : DescWords) (r : Fin_) : (d.complete c w r).drains = d.drains := by
    unfold Dev.complete; dsimp only; (repeat' split) <;> simp

@[simp] theorem Dev.complete_sheets (d : Dev) (c : Nat) (w : DescWords) (r : Fin_) : (d.complete c w r).sheets = d.sheets := by
    unfold Dev.complete; dsimp only; (repeat' split) <;> simp

@[simp] theorem Dev.complete_copies (d : Dev) (c : Nat) (w : DescWords) (r : Fin_) : (d.complete c w r).copies = d.copies := by
    unfold Dev.complete; dsimp only; (repeat' split) <;> simp

@[simp] theorem Dev.complete_nextCopy (d : Dev) (c : Nat) (w : DescWords) (r : Fin_) : (d.complete c w r).nextCopy = d.nextCopy := by
    unfold Dev.complete; dsimp only; (repeat' split) <;> simp

@[simp] theorem Dev.complete_movers (d : Dev) (c : Nat) (w : DescWords) (r : Fin_) : (d.complete c w r).movers = d.movers := by
    unfold Dev.complete; dsimp only; (repeat' split) <;> simp

@[simp] theorem Dev.complete_plans (d : Dev) (c : Nat) (w : DescWords) (r : Fin_) : (d.complete c w r).plans = d.plans := by
    unfold Dev.complete; dsimp only; (repeat' split) <;> simp

@[simp] theorem Dev.complete_flt (d : Dev) (c : Nat) (w : DescWords) (r : Fin_) : (d.complete c w r).flt = d.flt := by
    unfold Dev.complete; dsimp only; (repeat' split) <;> simp

@[simp] theorem Dev.complete_sns (d : Dev) (c : Nat) (w : DescWords) (r : Fin_) : (d.complete c w r).sns = d.sns := by
    unfold Dev.complete; dsimp only; (repeat' split) <;> simp

@[simp] theorem Dev.complete_tb (d : Dev) (c : Nat) (w : DescWords) (r : Fin_) : (d.complete c w r).tb = d.tb := by
    unfold Dev.complete; dsimp only; (repeat' split) <;> simp

@[simp] theorem Dev.complete_plg (d : Dev) (c : Nat) (w : DescWords) (r : Fin_) : (d.complete c w r).plg = d.plg := by
    unfold Dev.complete; dsimp only; (repeat' split) <;> simp

@[simp] theorem Dev.complete_mir (d : Dev) (c : Nat) (w : DescWords) (r : Fin_) : (d.complete c w r).mir = d.mir := by
    unfold Dev.complete; dsimp only; (repeat' split) <;> simp

@[simp] theorem Dev.complete_vault (d : Dev) (c : Nat) (w : DescWords) (r : Fin_) : (d.complete c w r).vault = d.vault := by
    unfold Dev.complete; dsimp only; (repeat' split) <;> simp

@[simp] theorem Dev.complete_sec (d : Dev) (c : Nat) (w : DescWords) (r : Fin_) : (d.complete c w r).sec = d.sec := by
    unfold Dev.complete; dsimp only; (repeat' split) <;> simp

@[simp] theorem Dev.complete_pwr (d : Dev) (c : Nat) (w : DescWords) (r : Fin_) : (d.complete c w r).pwr = d.pwr := by
    unfold Dev.complete; dsimp only; (repeat' split) <;> simp

@[simp] theorem Dev.complete_press (d : Dev) (c : Nat) (w : DescWords) (r : Fin_) : (d.complete c w r).press = d.press := by
    unfold Dev.complete; dsimp only; (repeat' split) <;> simp

@[simp] theorem Dev.complete_maps (d : Dev) (c : Nat) (w : DescWords) (r : Fin_) : (d.complete c w r).maps = d.maps := by
    unfold Dev.complete; dsimp only; (repeat' split) <;> simp

@[simp] theorem Dev.complete_free (d : Dev) (c : Nat) (w : DescWords) (r : Fin_) : (d.complete c w r).free = d.free := by
    unfold Dev.complete; dsimp only; (repeat' split) <;> simp

@[simp] theorem Dev.complete_running (d : Dev) (c : Nat) (w : DescWords) (r : Fin_) : (d.complete c w r).running = d.running := by
    simp [Dev.running, Dev.alive]

end Sys2Proof.Machine
end

