-- ==== Sys2Proof/Laws/Outcome.lean ====
section
/-! SUPPORT. What the outcome of any command is: the kind of its effect, and what each kind leaves alone. -/

namespace Sys2Proof.Machine

/-- The command writes setup registers. -/
def setsUp : Instr → Bool
  | .hstLockWrite _ => true
  | .registerWrite _ _ _ => true
  | .visDescSeedWrite _ => true
  | .spnSnsPoolWrite _ => true
  | _ => false

/-- The kinds of outcome a command has. -/
inductive Outcomes (i : Instr) (s : State) : Host.Outcome State Fault Refusal → Prop
  | run (f : Dev → Dev) : Outcomes i s (s.run f)
  | alive (f : Dev → Dev) : Outcomes i s (s.runAlive f)
  | setup (f : Dev → Dev) (h : setsUp i = true) : Outcomes i s (s.runSetup f)
  | raw (f : Dev → Dev) (h : i.resets = true) : Outcomes i s (s.runRaw f)
  | stop (h : Overstress i) : Outcomes i s (.fault .overstress)

/-- Every command has one of them. -/
theorem exec_outcomes (i : Instr) (s : State) : Outcomes i s (exec i s) := by
  cases i
  case sqTailWrite x0 x1 x2 x3 => show Outcomes _ s (execSqTailWrite x0 x1 x2 x3 s); unfold execSqTailWrite; exact .run _
  case cqHeadWrite x0 x1 x2 => show Outcomes _ s (execCqHeadWrite x0 x1 x2 s); unfold execCqHeadWrite; exact .run _
  case eqHeadWrite x0 x1 x2 => show Outcomes _ s (execEqHeadWrite x0 x1 x2 s); unfold execEqHeadWrite; exact .run _
  case barAccessInvalid x0 x1 x2 x3 x4 => show Outcomes _ s (execBarAccessInvalid x0 x1 x2 x3 x4 s); unfold execBarAccessInvalid; exact .run _
  case descriptorFetch => show Outcomes _ s (execDescriptorFetch s); unfold execDescriptorFetch; exact .run _
  case fenceBeforeRelease x0 x1 => show Outcomes _ s (execFenceBeforeRelease x0 x1 s); unfold execFenceBeforeRelease; exact .run _
  case tokenGrant x0 => show Outcomes _ s (execTokenGrant x0 s); unfold execTokenGrant; exact .run _
  case ribbonRowGrant x0 x1 => show Outcomes _ s (execRibbonRowGrant x0 x1 s); unfold execRibbonRowGrant; exact .run _
  case partDispatch x0 => show Outcomes _ s (execPartDispatch x0 s); unfold execPartDispatch; exact .run _
  case partFinish x0 x1 => show Outcomes _ s (execPartFinish x0 x1 s); unfold execPartFinish; exact .run _
  case descriptorComplete x0 => show Outcomes _ s (execDescriptorComplete x0 s); unfold execDescriptorComplete; exact .run _
  case irqCoalesceExpiry x0 x1 => show Outcomes _ s (execIrqCoalesceExpiry x0 x1 s); unfold execIrqCoalesceExpiry; exact .run _
  case ringDmaFault x0 x1 x2 => show Outcomes _ s (execRingDmaFault x0 x1 x2 s); unfold execRingDmaFault; exact .run _
  case nop x0 x1 => show Outcomes _ s (execNop x0 x1 s); unfold execNop; exact .run _
  case bind x0 x1 => show Outcomes _ s (execBind x0 x1 s); unfold execBind; exact .run _
  case unbind x0 x1 => show Outcomes _ s (execUnbind x0 x1 s); unfold execUnbind; exact .run _
  case gatheringRebindComplete x0 => show Outcomes _ s (execGatheringRebindComplete x0 s); unfold execGatheringRebindComplete; exact .run _
  case ctxOpen x0 x1 => show Outcomes _ s (execCtxOpen x0 x1 s); unfold execCtxOpen; exact .run _
  case ctxTeardown x0 x1 => show Outcomes _ s (execCtxTeardown x0 x1 s); unfold execCtxTeardown; exact .run _
  case teardownFinish x0 => show Outcomes _ s (execTeardownFinish x0 s); unfold execTeardownFinish; exact .run _
  case hstCtxOpenReg x0 => show Outcomes _ s (execHstCtxOpenReg x0 s); unfold execHstCtxOpenReg; exact .run _
  case hstCtxTeardownReg x0 => show Outcomes _ s (execHstCtxTeardownReg x0 s); unfold execHstCtxTeardownReg; exact .run _
  case functionLevelReset x0 => show Outcomes _ s (execFunctionLevelReset x0 s); unfold execFunctionLevelReset; exact .run _
  case autoOpen x0 => show Outcomes _ s (execAutoOpen x0 s); unfold execAutoOpen; exact .run _
  case unitDisable x0 x1 => show Outcomes _ s (execUnitDisable x0 x1 s); unfold execUnitDisable; exact .run _
  case unitDisableDrainExpiry x0 => show Outcomes _ s (execUnitDisableDrainExpiry x0 s); unfold execUnitDisableDrainExpiry; exact .run _
  case unitEnable x0 x1 => show Outcomes _ s (execUnitEnable x0 x1 s); unfold execUnitEnable; exact .run _
  case hstLockWrite x0 => show Outcomes _ s (execHstLockWrite x0 s); unfold execHstLockWrite; exact .setup _ rfl
  case registerWrite x0 x1 x2 => show Outcomes _ s (execRegisterWrite x0 x1 x2 s); unfold execRegisterWrite; exact .setup _ rfl
  case tbTimeLoRead x0 => show Outcomes _ s (execTbTimeLoRead x0 s); unfold execTbTimeLoRead; exact .run _
  case tbTrigModeWrite x0 x1 => show Outcomes _ s (execTbTrigModeWrite x0 x1 s); unfold execTbTrigModeWrite; exact .run _
  case plgCtlArmWrite x0 => show Outcomes _ s (execPlgCtlArmWrite x0 s); unfold execPlgCtlArmWrite; exact .run _
  case visDescSeedWrite x0 => show Outcomes _ s (execVisDescSeedWrite x0 s); unfold execVisDescSeedWrite; exact .setup _ rfl
  case spnSnsPoolWrite x0 => show Outcomes _ s (execSpnSnsPoolWrite x0 s); unfold execSpnSnsPoolWrite; exact .setup _ rfl
  case sheetAlloc x0 x1 => show Outcomes _ s (execSheetAlloc x0 x1 s); unfold execSheetAlloc; exact .run _
  case sheetFree x0 x1 => show Outcomes _ s (execSheetFree x0 x1 s); unfold execSheetFree; exact .run _
  case sheetFreeComplete x0 => show Outcomes _ s (execSheetFreeComplete x0 s); unfold execSheetFreeComplete; exact .run _
  case sheetPin x0 x1 => show Outcomes _ s (execSheetPin x0 x1 s); unfold execSheetPin; exact .run _
  case evict x0 x1 => show Outcomes _ s (execEvict x0 x1 s); unfold execEvict; exact .run _
  case move x0 x1 => show Outcomes _ s (execMove x0 x1 s); unfold execMove; exact .run _
  case moverSegmentDone x0 => show Outcomes _ s (execMoverSegmentDone x0 s); unfold execMoverSegmentDone; exact .run _
  case copyPresent x0 => show Outcomes _ s (execCopyPresent x0 s); unfold execCopyPresent; exact .run _
  case promotionSpaceReturned x0 => show Outcomes _ s (execPromotionSpaceReturned x0 s); unfold execPromotionSpaceReturned; exact .run _
  case tbTrigger x0 x1 => show Outcomes _ s (execTbTrigger x0 x1 s); unfold execTbTrigger; exact .run _
  case trigInstall x0 => show Outcomes _ s (execTrigInstall x0 s); unfold execTrigInstall; exact .run _
  case trigEdge x0 => show Outcomes _ s (execTrigEdge x0 s); unfold execTrigEdge; exact .run _
  case tbStep x0 x1 => show Outcomes _ s (execTbStep x0 x1 s); unfold execTbStep; exact .run _
  case tbStepPpsTimeout => show Outcomes _ s (execTbStepPpsTimeout s); unfold execTbStepPpsTimeout; exact .run _
  case ptpMessageRx x0 x1 => show Outcomes _ s (execPtpMessageRx x0 x1 s); unfold execPtpMessageRx; exact .run _
  case holdoverEntry => show Outcomes _ s (execHoldoverEntry s); unfold execHoldoverEntry; exact .run _
  case ptpMessageTx x0 x1 => show Outcomes _ s (execPtpMessageTx x0 x1 s); unfold execPtpMessageTx; exact .run _
  case capEdge x0 x1 => show Outcomes _ s (execCapEdge x0 x1 s); unfold execCapEdge; exact .run _
  case csiFrameStart x0 x1 x2 => show Outcomes _ s (execCsiFrameStart x0 x1 x2 s); unfold execCsiFrameStart; exact .run _
  case csiLinePacket x0 x1 x2 x3 x4 x5 => show Outcomes _ s (execCsiLinePacket x0 x1 x2 x3 x4 x5 s); unfold execCsiLinePacket; exact .run _
  case csiFrameEnd x0 x1 => show Outcomes _ s (execCsiFrameEnd x0 x1 s); unfold execCsiFrameEnd; exact .run _
  case ethFrameRx x0 x1 x2 x3 => show Outcomes _ s (execEthFrameRx x0 x1 x2 x3 s); unfold execEthFrameRx; exact .run _
  case canFrameRx x0 x1 => show Outcomes _ s (execCanFrameRx x0 x1 s); unfold execCanFrameRx; exact .run _
  case snsCanBusOff x0 => show Outcomes _ s (execSnsCanBusOff x0 s); unfold execSnsCanBusOff; exact .run _
  case snsLink x0 x1 => show Outcomes _ s (execSnsLink x0 x1 s); unfold execSnsLink; exact .run _
  case spiDrdyEdge x0 x1 => show Outcomes _ s (execSpiDrdyEdge x0 x1 s); unfold execSpiDrdyEdge; exact .run _
  case spiTransactionDone x0 x1 => show Outcomes _ s (execSpiTransactionDone x0 x1 s); unfold execSpiTransactionDone; exact .run _
  case selectorCloseTime x0 x1 => show Outcomes _ s (execSelectorCloseTime x0 x1 s); unfold execSelectorCloseTime; exact .run _
  case unitRelease x0 => show Outcomes _ s (execUnitRelease x0 s); unfold execUnitRelease; exact .run _
  case ploughSlot x0 => show Outcomes _ s (execPloughSlot x0 s); unfold execPloughSlot; exact .run _
  case plgSwap x0 x1 => show Outcomes _ s (execPlgSwap x0 x1 s); unfold execPlgSwap; exact .run _
  case plgSwapLoad => show Outcomes _ s (execPlgSwapLoad s); unfold execPlgSwapLoad; exact .run _
  case plgSwapIdleSwitch => show Outcomes _ s (execPlgSwapIdleSwitch s); unfold execPlgSwapIdleSwitch; exact .run _
  case visRemap x0 x1 => show Outcomes _ s (execVisRemap x0 x1 s); unfold execVisRemap; exact .run _
  case visSgm x0 x1 => show Outcomes _ s (execVisSgm x0 x1 s); unfold execVisSgm; exact .run _
  case visFeatures x0 x1 => show Outcomes _ s (execVisFeatures x0 x1 s); unfold execVisFeatures; exact .run _
  case tenLayer x0 x1 => show Outcomes _ s (execTenLayer x0 x1 s); unfold execTenLayer; exact .run _
  case tenStep x0 x1 => show Outcomes _ s (execTenStep x0 x1 s); unfold execTenStep; exact .run _
  case fusPropagate x0 x1 => show Outcomes _ s (execFusPropagate x0 x1 s); unfold execFusPropagate; exact .run _
  case fusCloud x0 x1 => show Outcomes _ s (execFusCloud x0 x1 s); unfold execFusCloud; exact .run _
  case fusProject x0 x1 => show Outcomes _ s (execFusProject x0 x1 s); unfold execFusProject; exact .run _
  case fusFactors x0 x1 => show Outcomes _ s (execFusFactors x0 x1 s); unfold execFusFactors; exact .run _
  case fusGate x0 x1 => show Outcomes _ s (execFusGate x0 x1 s); unfold execFusGate; exact .run _
  case prsStruct x0 x1 => show Outcomes _ s (execPrsStruct x0 x1 s); unfold execPrsStruct; exact .run _
  case prsUpdate x0 x1 => show Outcomes _ s (execPrsUpdate x0 x1 s); unfold execPrsUpdate; exact .run _
  case prsExtract x0 x1 => show Outcomes _ s (execPrsExtract x0 x1 s); unfold execPrsExtract; exact .run _
  case prsSolve x0 x1 => show Outcomes _ s (execPrsSolve x0 x1 s); unfold execPrsSolve; exact .run _
  case prsDeadlineHit x0 x1 x2 => show Outcomes _ s (execPrsDeadlineHit x0 x1 x2 s); unfold execPrsDeadlineHit; exact .run _
  case prsKernel x0 x1 => show Outcomes _ s (execPrsKernel x0 x1 s); unfold execPrsKernel; exact .run _
  case mapCreate x0 x1 => show Outcomes _ s (execMapCreate x0 x1 s); unfold execMapCreate; exact .run _
  case mapCommit x0 x1 => show Outcomes _ s (execMapCommit x0 x1 s); unfold execMapCommit; exact .run _
  case mapCompact x0 x1 => show Outcomes _ s (execMapCompact x0 x1 s); unfold execMapCompact; exact .run _
  case ldgOps x0 x1 => show Outcomes _ s (execLdgOps x0 x1 s); unfold execLdgOps; exact .run _
  case ldgScan x0 x1 => show Outcomes _ s (execLdgScan x0 x1 s); unfold execLdgScan; exact .run _
  case ldgRulebook x0 x1 => show Outcomes _ s (execLdgRulebook x0 x1 s); unfold execLdgRulebook; exact .run _
  case ldgFieldGather x0 x1 => show Outcomes _ s (execLdgFieldGather x0 x1 s); unfold execLdgFieldGather; exact .run _
  case ldgFieldScatter x0 x1 => show Outcomes _ s (execLdgFieldScatter x0 x1 s); unfold execLdgFieldScatter; exact .run _
  case srcQuery x0 x1 => show Outcomes _ s (execSrcQuery x0 x1 s); unfold execSrcQuery; exact .run _
  case srcInsert x0 x1 => show Outcomes _ s (execSrcInsert x0 x1 s); unfold execSrcInsert; exact .run _
  case srcDelete x0 x1 => show Outcomes _ s (execSrcDelete x0 x1 s); unfold execSrcDelete; exact .run _
  case srcKnn x0 x1 => show Outcomes _ s (execSrcKnn x0 x1 s); unfold execSrcKnn; exact .run _
  case schArm x0 x1 => show Outcomes _ s (execSchArm x0 x1 s); unfold execSchArm; exact .run _
  case schDisarm x0 x1 => show Outcomes _ s (execSchDisarm x0 x1 s); unfold execSchDisarm; exact .run _
  case periodFiring x0 => show Outcomes _ s (execPeriodFiring x0 s); unfold execPeriodFiring; exact .run _
  case firingComplete x0 => show Outcomes _ s (execFiringComplete x0 s); unfold execFiringComplete; exact .run _
  case schedWaitExpiry x0 => show Outcomes _ s (execSchedWaitExpiry x0 s); unfold execSchedWaitExpiry; exact .run _
  case digestFinal x0 => show Outcomes _ s (execDigestFinal x0 s); unfold execDigestFinal; exact .run _
  case mirTrack x0 x1 => show Outcomes _ s (execMirTrack x0 x1 s); unfold execMirTrack; exact .run _
  case mirResync x0 x1 => show Outcomes _ s (execMirResync x0 x1 s); unfold execMirResync; exact .run _
  case mirLink x0 x1 => show Outcomes _ s (execMirLink x0 x1 s); unfold execMirLink; exact .run _
  case mirRoleRx x0 x1 => show Outcomes _ s (execMirRoleRx x0 x1 s); unfold execMirRoleRx; exact .run _
  case mirRoleRetry x0 => show Outcomes _ s (execMirRoleRetry x0 s); unfold execMirRoleRetry; exact .run _
  case heartbeatTx => show Outcomes _ s (execHeartbeatTx s); unfold execHeartbeatTx; exact .run _
  case heartbeatRx x0 x1 => show Outcomes _ s (execHeartbeatRx x0 x1 s); unfold execHeartbeatRx; exact .run _
  case mirPeerLost => show Outcomes _ s (execMirPeerLost s); unfold execMirPeerLost; exact .run _
  case mirPlanRx x0 x1 => show Outcomes _ s (execMirPlanRx x0 x1 s); unfold execMirPlanRx; exact .run _
  case mirSchedRx x0 x1 => show Outcomes _ s (execMirSchedRx x0 x1 s); unfold execMirSchedRx; exact .run _
  case mirDigestRx x0 x1 => show Outcomes _ s (execMirDigestRx x0 x1 s); unfold execMirDigestRx; exact .run _
  case mirDeltaRx x0 x1 => show Outcomes _ s (execMirDeltaRx x0 x1 s); unfold execMirDeltaRx; exact .run _
  case mirFillRx x0 x1 x2 => show Outcomes _ s (execMirFillRx x0 x1 x2 s); unfold execMirFillRx; exact .run _
  case mirRepairWaitExpiry x0 => show Outcomes _ s (execMirRepairWaitExpiry x0 s); unfold execMirRepairWaitExpiry; exact .run _
  case mirBulkBudgetEnd x0 x1 => show Outcomes _ s (execMirBulkBudgetEnd x0 x1 s); unfold execMirBulkBudgetEnd; exact .run _
  case mirResyncRx x0 x1 => show Outcomes _ s (execMirResyncRx x0 x1 s); unfold execMirResyncRx; exact .run _
  case mirSplitRx x0 x1 => show Outcomes _ s (execMirSplitRx x0 x1 s); unfold execMirSplitRx; exact .run _
  case mirUnitRx x0 x1 => show Outcomes _ s (execMirUnitRx x0 x1 s); unfold execMirUnitRx; exact .run _
  case mirPloughRx x0 x1 => show Outcomes _ s (execMirPloughRx x0 x1 s); unfold execMirPloughRx; exact .run _
  case mirForeignPacket x0 => show Outcomes _ s (execMirForeignPacket x0 s); unfold execMirForeignPacket; exact .run _
  case mirQpReestablish x0 x1 => show Outcomes _ s (execMirQpReestablish x0 x1 s); unfold execMirQpReestablish; exact .run _
  case mirCnpRx x0 x1 => show Outcomes _ s (execMirCnpRx x0 x1 s); unfold execMirCnpRx; exact .run _
  case mirRateRestore x0 x1 => show Outcomes _ s (execMirRateRestore x0 x1 s); unfold execMirRateRestore; exact .run _
  case mirSplitEnter => show Outcomes _ s (execMirSplitEnter s); unfold execMirSplitEnter; exact .run _
  case mirSplitLeave => show Outcomes _ s (execMirSplitLeave s); unfold execMirSplitLeave; exact .run _
  case crcCheck x0 x1 => show Outcomes _ s (execCrcCheck x0 x1 s); unfold execCrcCheck; exact .run _
  case descriptorTimeout x0 => show Outcomes _ s (execDescriptorTimeout x0 s); unfold execDescriptorTimeout; exact .run _
  case moverResetHang x0 => show Outcomes _ s (execMoverResetHang x0 s); unfold execMoverResetHang; exact .run _
  case incidentDrainEnd x0 => show Outcomes _ s (execIncidentDrainEnd x0 s); unfold execIncidentDrainEnd; exact .run _
  case partitionResetDone x0 => show Outcomes _ s (execPartitionResetDone x0 s); unfold execPartitionResetDone; exact .run _
  case replayStart => show Outcomes _ s (execReplayStart s); unfold execReplayStart; exact .run _
  case replayTimeout => show Outcomes _ s (execReplayTimeout s); unfold execReplayTimeout; exact .run _
  case partitionResetHang x0 => show Outcomes _ s (execPartitionResetHang x0 s); unfold execPartitionResetHang; exact .run _
  case volumeResetHang => show Outcomes _ s (execVolumeResetHang s); unfold execVolumeResetHang; exact .run _
  case sequencerWatchdog x0 => show Outcomes _ s (execSequencerWatchdog x0 s); unfold execSequencerWatchdog; exact .run _
  case fltRestore x0 x1 => show Outcomes _ s (execFltRestore x0 x1 s); unfold execFltRestore; exact .run _
  case scrubPatrol x0 => show Outcomes _ s (execScrubPatrol x0 s); unfold execScrubPatrol; exact .run _
  case scrubHint => show Outcomes _ s (execScrubHint s); unfold execScrubHint; exact .run _
  case secInstallStageFw x0 x1 => show Outcomes _ s (execSecInstallStageFw x0 x1 s); unfold execSecInstallStageFw; exact .run _
  case firmwareStageDone => show Outcomes _ s (execFirmwareStageDone s); unfold execFirmwareStageDone; exact .alive _
  case secInstallActivate x0 x1 => show Outcomes _ s (execSecInstallActivate x0 x1 s); unfold execSecInstallActivate; exact .run _
  case secInstallCommitSvn x0 x1 => show Outcomes _ s (execSecInstallCommitSvn x0 x1 s); unfold execSecInstallCommitSvn; exact .run _
  case secInstallOwnerRecord x0 x1 => show Outcomes _ s (execSecInstallOwnerRecord x0 x1 s); unfold execSecInstallOwnerRecord; exact .run _
  case secQuote x0 x1 => show Outcomes _ s (execSecQuote x0 x1 s); unfold execSecQuote; exact .run _
  case secMapLoad x0 x1 => show Outcomes _ s (execSecMapLoad x0 x1 s); unfold execSecMapLoad; exact .run _
  case secMapExport x0 x1 => show Outcomes _ s (execSecMapExport x0 x1 s); unfold execSecMapExport; exact .run _
  case svcInfo x0 => show Outcomes _ s (execSvcInfo x0 s); unfold execSvcInfo; exact .alive _
  case svcReadReg x0 => show Outcomes _ s (execSvcReadReg x0 s); unfold execSvcReadReg; exact .alive _
  case svcDumpSheet x0 => show Outcomes _ s (execSvcDumpSheet x0 s); unfold execSvcDumpSheet; exact .alive _
  case svcStageFirmware x0 => show Outcomes _ s (execSvcStageFirmware x0 s); unfold execSvcStageFirmware; exact .alive _
  case svcStageMap x0 => show Outcomes _ s (execSvcStageMap x0 s); unfold execSvcStageMap; exact .alive _
  case svcUnlockChallenge x0 => show Outcomes _ s (execSvcUnlockChallenge x0 s); unfold execSvcUnlockChallenge; exact .alive _
  case svcUnlockResponse x0 => show Outcomes _ s (execSvcUnlockResponse x0 s); unfold execSvcUnlockResponse; exact .alive _
  case svcUndefinedOp x0 x1 => show Outcomes _ s (execSvcUndefinedOp x0 x1 s); unfold execSvcUndefinedOp; exact .alive _
  case unlockChallengeLapse => show Outcomes _ s (execUnlockChallengeLapse s); unfold execUnlockChallengeLapse; exact .alive _
  case unlockLockoutEnd => show Outcomes _ s (execUnlockLockoutEnd s); unfold execUnlockLockoutEnd; exact .alive _
  case testDebugAccess x0 x1 x2 => show Outcomes _ s (execTestDebugAccess x0 x1 x2 s); unfold execTestDebugAccess; exact .alive _
  case perstAssert => show Outcomes _ s (execPerstAssert s); unfold execPerstAssert; exact .raw _ rfl
  case perstDeassert x0 => show Outcomes _ s (execPerstDeassert x0 s); unfold execPerstDeassert; exact .raw _ rfl
  case recoveryRrsEnd => show Outcomes _ s (execRecoveryRrsEnd s); unfold execRecoveryRrsEnd; exact .alive _
  case railOutOfRange x0 x1 =>
    show Outcomes _ s (execRailOutOfRange x0 x1 s)
    unfold execRailOutOfRange
    split
    · rename_i h; exact .stop h
    · exact .raw _ rfl
  case railRecovered => show Outcomes _ s (execRailRecovered s); unfold execRailRecovered; exact .raw _ rfl
  case pmbAlert x0 => show Outcomes _ s (execPmbAlert x0 s); unfold execPmbAlert; exact .run _
  case pmbVoutPoll x0 => show Outcomes _ s (execPmbVoutPoll x0 s); unfold execPmbVoutPoll; exact .run _
  case governorStep x0 => show Outcomes _ s (execGovernorStep x0 s); unfold execGovernorStep; exact .run _
  case powerLimitTick x0 x1 x2 => show Outcomes _ s (execPowerLimitTick x0 x1 x2 s); unfold execPowerLimitTick; exact .run _
  case quireRamp x0 x1 => show Outcomes _ s (execQuireRamp x0 x1 s); unfold execQuireRamp; exact .run _
  case tempSample x0 x1 x2 => show Outcomes _ s (execTempSample x0 x1 x2 s); unfold execTempSample; exact .raw _ rfl
  case pwrTrigShort x0 => show Outcomes _ s (execPwrTrigShort x0 s); unfold execPwrTrigShort; exact .run _
  case trigShortClear x0 => show Outcomes _ s (execTrigShortClear x0 s); unfold execTrigShortClear; exact .run _
  case volumeResetDone => show Outcomes _ s (execVolumeResetDone s); unfold execVolumeResetDone; exact .run _
  case moverResetDone x0 => show Outcomes _ s (execMoverResetDone x0 s); unfold execMoverResetDone; exact .run _
  case partitionSampleDone x0 => show Outcomes _ s (execPartitionSampleDone x0 s); unfold execPartitionSampleDone; exact .run _
  case canBusOffRecovery x0 => show Outcomes _ s (execCanBusOffRecovery x0 s); unfold execCanBusOffRecovery; exact .run _
  case pcieConfigWrite x0 x1 x2 x3 => show Outcomes _ s (execPcieConfigWrite x0 x1 x2 x3 s); unfold execPcieConfigWrite; exact .alive _
  case msixVectorUnmask x0 x1 => show Outcomes _ s (execMsixVectorUnmask x0 x1 s); unfold execMsixVectorUnmask; exact .run _
  case svcLinkChange x0 => show Outcomes _ s (execSvcLinkChange x0 s); unfold execSvcLinkChange; exact .alive _
  case ptpAnnounceTimeout x0 => show Outcomes _ s (execPtpAnnounceTimeout x0 s); unfold execPtpAnnounceTimeout; exact .run _

/-! ## What each kind leaves alone -/

/-- What stays of a device under every command that does not reset it: role, ROM and board. -/
structure Keeps (s t : State) : Prop where
  pending : t.pending = s.pending
  board   : t.dev.board = s.dev.board
  verso   : t.dev.mir.verso = s.dev.mir.verso
  rom     : t.dev.vault.romDigest = s.dev.vault.romDigest
  root    : t.dev.vault.rootKey = s.dev.vault.rootKey
  debug   : t.dev.vault.debugKey = s.dev.vault.debugKey

/-- `run` answers a next state that keeps the setup, the lock and what `Keeps` says; held in reset or in recovery it is `s`. -/
theorem State.run_next (s : State) (f : Dev → Dev) :
    ∃ t, s.run f = .next t ∧ Keeps s t ∧ t.dev.setup = s.dev.setup ∧ t.dev.locked = s.dev.locked ∧ (s.dev.running = false → t = s) := by
  refine ⟨_, rfl, ?_⟩
  by_cases h : s.dev.running = true
  · simp only [h, if_true, Bool.true_eq_false, false_implies, and_true]
    exact ⟨⟨rfl, rfl, rfl, rfl, rfl, rfl⟩, rfl, rfl⟩
  · simp only [h, if_false, Bool.false_eq_true, implies_true, and_true]
    exact ⟨rfl, rfl, rfl, rfl, rfl, rfl⟩

/-- As `run_next`, for the commands that act in recovery too. -/
theorem State.runAlive_next (s : State) (f : Dev → Dev) :
    ∃ t, s.runAlive f = .next t ∧ Keeps s t ∧ t.dev.setup = s.dev.setup ∧ t.dev.locked = s.dev.locked ∧ (s.dev.alive = false → t = s) := by
  refine ⟨_, rfl, ?_⟩
  by_cases h : s.dev.alive = true
  · simp only [h, if_true, Bool.true_eq_false, false_implies, and_true]
    exact ⟨⟨rfl, rfl, rfl, rfl, rfl, rfl⟩, rfl, rfl⟩
  · simp only [h, if_false, Bool.false_eq_true, implies_true, and_true]
    exact ⟨rfl, rfl, rfl, rfl, rfl, rfl⟩

/-- `runSetup` answers a next state that keeps what `Keeps` says. -/
theorem State.runSetup_next (s : State) (f : Dev → Dev) :
    ∃ t, s.runSetup f = .next t ∧ Keeps s t ∧ (s.dev.running = true → t.dev.setup = (f s.dev).setup ∧ t.dev.locked = (f s.dev).locked) ∧
      (s.dev.running = false → t = s) := by
  refine ⟨_, rfl, ?_⟩
  by_cases h : s.dev.running = true
  · rw [if_pos h]
    exact ⟨⟨rfl, rfl, rfl, rfl, rfl, rfl⟩, fun _ => ⟨rfl, rfl⟩, fun h' => absurd (h.symm.trans h') (by decide)⟩
  · rw [if_neg h]
    exact ⟨⟨rfl, rfl, rfl, rfl, rfl, rfl⟩, fun h' => absurd h' h, fun _ => rfl⟩

/-- A device that runs is out of reset. -/
theorem Dev.alive_of_running (d : Dev) (h : d.running = true) : d.alive = true := by
  simp only [Dev.running, Bool.and_eq_true] at h
  exact h.1.1

/-- A running device goes where `run` takes it. -/
theorem State.run_goes (s : State) (f : Dev → Dev) (h : s.dev.running = true) :
    s.run f = .next { s with dev := s.dev.framed (f s.dev) } := by
  simp [State.run, h]

/-- A device out of reset goes where `runAlive` takes it. -/
theorem State.runAlive_goes (s : State) (f : Dev → Dev) (h : s.dev.alive = true) :
    s.runAlive f = .next { s with dev := s.dev.framed (f s.dev) } := by
  simp [State.runAlive, h]

/-- A device framed by itself is itself. -/
@[simp] theorem Dev.framed_self (d : Dev) : d.framed d = d := rfl

end Sys2Proof.Machine
end

