-- ==== Sys2Proof/Laws/MirrorRx.lean ====
section
/-! SUPPORT. What the receive path of a mirror queue pair does with a message it accepts (R311, R312). -/

namespace Sys2Proof.Machine

/-- A delivered message is handed on, the next sequence number expected. -/
theorem Dev.mirRx_delivers (d : Dev) (port q type : Nat) (b : Bytes) (m : Msg) (lenOk : Msg → Bool) (f : Msg → Dev → Dev)
    (h : d.delivers port q type b m (lenOk m)) : d.mirRx port q type b lenOk f = f m (d.received port q) := by
  obtain ⟨h1, h2, h3, h4, h5, h6, h7, h8, h9⟩ := h
  have e : ¬ (m.type ≠ type ∨ (¬ (d.link port).paired = true ∧ type ≠ 0x01 ∧ type ≠ 0x02)) := by
    rintro (h | ⟨ha, hb, hc⟩)
    · exact h h4
    · rcases h5 with h5 | h5 | h5
      · exact ha h5
      · exact hb h5
      · exact hc h5
  unfold Dev.mirRx
  simp only [h1, h2, h3, Bool.not_true, Bool.or_self, Bool.false_eq_true, if_false]
  rw [if_neg e, if_neg (by simp [h6]), if_neg (by simpa using h7), if_neg (by simp [h8, h9])]
  rfl

/-- A control message heard once is handed on. -/
theorem Dev.mirCtl_hears (d : Dev) (port type : Nat) (b : Bytes) (m : Msg) (slot : Msg → Nat) (f : Msg → Dev → Dev)
    (h : d.hears port type b m) : d.mirCtl port type 1 b slot f = f m (d.received port 0) := by
  obtain ⟨h1, h2, h3⟩ := h
  have hs : (d.received port 0).mir.seen = [] := h3
  rw [Dev.mirCtl, d.mirRx_delivers port 0 type b m (fun m => m.len == 1) _ h1]
  simp only [hs, List.contains_nil, Bool.false_eq_true, if_false, h2]
  rfl

end Sys2Proof.Machine
end

