-- ==== Sys2Proof/Laws/Submit.lean ====
section
/-! SUPPORT. What presenting a descriptor does (R83–R87): the three cases of `Dev.submit`, and the opcode of a presented
descriptor. -/

namespace Sys2Proof.Machine

/-! ## Contexts -/

theorem Dev.ctx_setCtx (d : Dev) (c : Nat) (x : Ctx) (h : c < 64) : (d.setCtx c x).ctx c = x := by
  simp [Dev.setCtx, Dev.ctx, Vector.getD, h]

theorem Dev.setCtx_setCtx (d : Dev) (c : Nat) (x y : Ctx) : (d.setCtx c x).setCtx c y = d.setCtx c y := by
  have h : (d.ctxs.setIfInBounds c x).setIfInBounds c y = d.ctxs.setIfInBounds c y := by
    ext i hi
    simp only [Vector.getElem_setIfInBounds]
    split <;> rfl
  simp [Dev.setCtx, h]

theorem Dev.ctx_modCtx (d : Dev) (c : Nat) (f : Ctx → Ctx) (h : c < 64) : (d.modCtx c f).ctx c = f (d.ctx c) :=
  d.ctx_setCtx c _ h

theorem Dev.modCtx_modCtx (d : Dev) (c : Nat) (f g : Ctx → Ctx) (h : c < 64) :
    (d.modCtx c f).modCtx c g = d.modCtx c (fun x => g (f x)) := by
  show (d.setCtx c _).setCtx c (g ((d.setCtx c _).ctx c)) = _
  rw [d.ctx_setCtx c _ h, d.setCtx_setCtx]
  rfl

/-! ## Rings -/

theorem dropRing_last (ring : Nat) (l : List Fetched) (w : DescWords) (h : l.filter (fun f => f.ring == ring) = []) :
    dropRing ring 1 (l ++ [{ ring := ring, w := w }]) = l := by
  induction l with
  | nil => simp [dropRing]
  | cons a t ih =>
    have ha : ¬ a.ring = ring := by
      intro e
      simp [e] at h
    have ht : t.filter (fun f => f.ring == ring) = [] := by
      simpa [List.filter_cons, ha] using h
    simp [dropRing, ha, ih ht]

theorem Dev.heldOf_queued (d : Dev) (c : Nat) (w : DescWords) (hc : c < 64) (h : d.heldOf c 0 = []) :
    (d.queued c w).heldOf c 0 = [w] := by
  have h' : ((d.ctx c).held.filter (fun f => f.ring == 0)) = [] := by simpa [Dev.heldOf] using h
  simp only [Dev.heldOf, Dev.queued, d.ctx_modCtx c _ hc, List.filter_append, h']
  rfl

/-- Dropping the entry just queued leaves one record owed. -/
theorem Dev.queued_drop (d : Dev) (c : Nat) (w : DescWords) (hc : c < 64) (h : d.heldOf c 0 = []) :
    (d.queued c w).modCtx c (fun x => { x with held := dropRing 0 1 x.held }) = d.owing c := by
  have h' : ((d.ctx c).held.filter (fun f => f.ring == 0)) = [] := by simpa [Dev.heldOf] using h
  rw [Dev.queued, d.modCtx_modCtx c _ _ hc, Dev.owing]
  simp only [Dev.modCtx, dropRing_last 0 (d.ctx c).held w h']

/-- What a context that takes a descriptor does with it: one group is judged on its ring 0. -/
theorem Dev.submit_takes (d : Dev) (c : Nat) (w : DescWords) (hc : c < 64) (h : d.takes c) :
    d.submit c w = ((d.queued c w).takeGroup c 0 true).settle := by
  obtain ⟨h1, h2, h3⟩ := h
  have ho : ((d.queued c w).ctx c).st = .opened := by rw [Dev.queued, d.ctx_modCtx c _ hc]; exact h1
  have e : d.enterRing c 0 w true = (d.queued c w).drainRing c 0 true := rfl
  have hl : ((d.queued c w).heldOf c 0).length = 1 := by rw [d.heldOf_queued c w hc h3]; rfl
  rw [Dev.submit, if_pos ⟨h1, h2⟩, e, Dev.drainRing, hl]
  simp [iter, ho]

/-- A group of one that is accepted is launched, at once or after its admission. -/
theorem Dev.takeIn_one (d : Dev) (c ring : Nat) (w : DescWords) (whole : Bool) :
    (d.takeIn c ring w whole).2.foldl (fun d id => d.launch id whole) (d.takeIn c ring w whole).1 =
      (d.accept c (.ring ring) w 0 (d.clsOf c ring) 0).1.launch (d.accept c (.ring ring) w 0 (d.clsOf c ring) 0).2 whole := by
  unfold Dev.takeIn
  dsimp only
  split <;> rfl

/-- An accepted descriptor starts. -/
theorem Dev.submit_accepted (d : Dev) (c : Nat) (w : DescWords) (hc : c < 64) (h : d.takes c)
    (hj : (d.queued c w).judge c 0 = .accepted 1) :
    d.submit c w = ((d.taken c w).1.launch (d.taken c w).2 true).settle := by
  rw [d.submit_takes c w hc h, Dev.takeGroup, hj]
  have hh := h.2.2
  dsimp only
  rw [d.queued_drop c w hc hh, d.heldOf_queued c w hc hh]
  exact congrArg Dev.settle ((d.owing c).takeIn_one c 0 w true)

/-- A refused descriptor completes with its status. -/
theorem Dev.submit_refused (d : Dev) (c : Nat) (w : DescWords) (st : Status) (r4 : DW) (hc : c < 64) (h : d.takes c)
    (hj : (d.queued c w).judge c 0 = .refused 1 st r4) :
    d.submit c w = (((d.owing c).noteRefused c w st).complete c w { st := st, r4 := r4 }).settle := by
  rw [d.submit_takes c w hc h, Dev.takeGroup, hj]
  have hh := h.2.2
  dsimp only
  rw [d.queued_drop c w hc hh, d.heldOf_queued c w hc hh]
  rfl

/-- Without an open context and room for its record nothing is presented. -/
theorem Dev.submit_none (d : Dev) (c : Nat) (w : DescWords) (h : (d.ctx c).st ≠ .opened ∨ d.cqRoom c = false) : d.submit c w = d := by
  rw [Dev.submit, if_neg]
  rintro ⟨a, b⟩
  rcases h with h | h
  · exact h a
  · simp [h] at b

/-! ## The opcode in a presented descriptor -/

/-- The words of a descriptor but the first are those presented. -/
theorem withOp_dw (w : DescWords) (n i : Nat) (h : i ≠ 0) : (w.withOp n).dw i = w.dw i := by
  simp [DescWords.withOp, DescWords.put, DescWords.dw, Vector.getD, Array.getD_eq_getD_getElem?, Ne.symm h]

/-- Its opcode is the command's. -/
theorem withOp_opc (w : DescWords) (n : Nat) (h : n < 256) : (w.withOp n).opc = n := by
  have e : (w.withOp n).dw 0 = (w.dw 0 &&& 0xFFFFFF00 ||| dwN n) := by
    simp [DescWords.withOp, DescWords.put, DescWords.dw, Vector.getD]
  rw [DescWords.opc, DescWords.f, e]
  have k : ∀ x : DW, bits (x &&& 0xFFFFFF00 ||| dwN n) 7 0 = n := by
    intro x
    simp only [bits, BitVec.toNat_or, BitVec.toNat_and, dwN, BitVec.toNat_ofNat, Nat.pow_zero, Nat.div_one, Nat.sub_zero]
    rw [Nat.or_mod_two_pow, Nat.and_mod_two_pow]
    simp
    omega
  exact k _

/-- A word of a descriptor other than word 6 is not changed by a field of word 6. -/
theorem withField_dw (w : DescWords) (m v i : Nat) (h : i ≠ 6) : (w.withField m v).dw i = w.dw i := by
  simp [DescWords.withField, DescWords.put, DescWords.dw, Vector.getD, Array.getD_eq_getD_getElem?, Ne.symm h]

end Sys2Proof.Machine
end

