-- ==== Sys2Proof/WellFormed.lean ====
section
/-! DEFINITION. Which commands are well formed: a presented descriptor carries the opcode of its command, and what an event carries fits what
the outside can deliver. The meanings are total without it. -/

namespace Sys2Proof

/-- The opcode byte of a descriptor. -/
def opcodeOk (opc : Nat) (w : DescWords) : Bool := (w.getD 0 0).toNat % 256 == opc

/-- A field of word 6 that two commands share an opcode by. -/
def fieldOk (mask v : Nat) (w : DescWords) : Bool := (w.getD 6 0).toNat % (mask + 1) == v

/-- A CSI-2 long packet carries at most 65,535 bytes. -/
def lineOk (data : Bytes) : Bool := decide (data.length < 65536)

/-- An Ethernet frame: a header, and at most 9,216 bytes (Ethernet support table). -/
def etherOk (frame : Bytes) : Bool := decide (14 ≤ frame.length ∧ frame.length ≤ 9216)

/-- A CAN frame ISO 11898-1 allows: its data length, bit-rate switch and remote only in their formats, an 11-bit identifier. -/
def canOk (f : CanFrame) : Bool :=
  (decide (f.data.length ≤ 8) || (f.fd && ([12, 16, 20, 24, 32, 48, 64] : List Nat).contains f.data.length)) && (!f.brs || f.fd) &&
    !(f.remote && f.fd) && (f.ext || decide (f.id.toNat < 2048))

/-- An SPI transaction moves 1–32 bytes. -/
def spiOk (rx : Bytes) : Bool := decide (1 ≤ rx.length ∧ rx.length ≤ 32)

/-- NumVFs is at most 31. -/
def vfsOk (n : Nat) : Bool := decide (n ≤ 31)

/-- A leaf's handle index lies below the gatherings. -/
def leafOk (leaf : BitVec 12) : Bool := decide (leaf.toNat < 0x200)

/-- An access has a length. -/
def accessOk (size : Nat) : Bool := decide (0 < size)

/-- The LENGTH of a service command is a 32-bit word (service header table). -/
def svcOk (k : SvcCmd) : Bool := decide (k.data.length < 2 ^ 32)

/-- A mirror message: a 32-byte header and whole 64-byte units, at most 1 MiB. -/
def messageOk (msg : Bytes) : Bool := decide (32 ≤ msg.length ∧ (msg.length - 32) % 64 = 0 ∧ msg.length ≤ 2 ^ 20)

/-- A command is well formed. -/
def Instr.wf : Instr → Bool
  | .barAccessInvalid _ _ _ size _ => accessOk size
  | .partFinish leaf _ => leafOk leaf
  | .nop _ w => opcodeOk 0x00 w
  | .bind _ w => opcodeOk 0x01 w
  | .unbind _ w => opcodeOk 0x02 w
  | .ctxOpen _ w => opcodeOk 0x03 w
  | .ctxTeardown _ w => opcodeOk 0x04 w
  | .unitDisable _ w => opcodeOk 0x05 w
  | .unitEnable _ w => opcodeOk 0x06 w
  | .sheetAlloc _ w => opcodeOk 0x08 w
  | .sheetFree _ w => opcodeOk 0x09 w
  | .sheetPin _ w => opcodeOk 0x0A w
  | .evict _ w => opcodeOk 0x0C w
  | .move _ w => opcodeOk 0x0B w
  | .tbTrigger _ w => opcodeOk 0x10 w
  | .tbStep _ w => opcodeOk 0x11 w
  | .csiLinePacket _ _ _ _ _ data => lineOk data
  | .ethFrameRx _ _ _ frame => etherOk frame
  | .canFrameRx _ f => canOk f
  | .spiTransactionDone _ rx => spiOk rx
  | .plgSwap _ w => opcodeOk 0x14 w
  | .visRemap _ w => opcodeOk 0x20 w
  | .visSgm _ w => opcodeOk 0x21 w
  | .visFeatures _ w => opcodeOk 0x22 w
  | .tenLayer _ w => opcodeOk 0x30 w
  | .tenStep _ w => opcodeOk 0x31 w
  | .fusPropagate _ w => opcodeOk 0x40 w
  | .fusCloud _ w => opcodeOk 0x41 w
  | .fusProject _ w => opcodeOk 0x42 w
  | .fusFactors _ w => opcodeOk 0x43 w
  | .fusGate _ w => opcodeOk 0x44 w
  | .prsStruct _ w => opcodeOk 0x50 w
  | .prsUpdate _ w => opcodeOk 0x51 w
  | .prsExtract _ w => opcodeOk 0x52 w
  | .prsSolve _ w => opcodeOk 0x53 w
  | .prsKernel _ w => opcodeOk 0x54 w
  | .mapCreate _ w => opcodeOk 0x60 w
  | .mapCommit _ w => opcodeOk 0x61 w
  | .mapCompact _ w => opcodeOk 0x62 w
  | .ldgOps _ w => opcodeOk 0x63 w
  | .ldgScan _ w => opcodeOk 0x64 w
  | .ldgRulebook _ w => opcodeOk 0x65 w
  | .ldgFieldGather _ w => opcodeOk 0x66 w && fieldOk 1 0 w
  | .ldgFieldScatter _ w => opcodeOk 0x66 w && fieldOk 1 1 w
  | .srcQuery _ w => opcodeOk 0x68 w
  | .srcInsert _ w => opcodeOk 0x69 w
  | .srcDelete _ w => opcodeOk 0x6A w
  | .srcKnn _ w => opcodeOk 0x6B w
  | .schArm _ w => opcodeOk 0x70 w
  | .schDisarm _ w => opcodeOk 0x71 w
  | .mirTrack _ w => opcodeOk 0x78 w
  | .mirResync _ w => opcodeOk 0x79 w
  | .mirRoleRx _ msg => messageOk msg
  | .heartbeatRx _ msg => messageOk msg
  | .mirPlanRx _ msg => messageOk msg
  | .mirSchedRx _ msg => messageOk msg
  | .mirDigestRx _ msg => messageOk msg
  | .mirDeltaRx _ msg => messageOk msg
  | .mirFillRx _ _ msg => messageOk msg
  | .mirResyncRx _ msg => messageOk msg
  | .mirSplitRx _ msg => messageOk msg
  | .mirUnitRx _ msg => messageOk msg
  | .mirPloughRx _ msg => messageOk msg
  | .crcCheck _ w => opcodeOk 0x7C w
  | .fltRestore _ w => opcodeOk 0x7D w
  | .secInstallStageFw _ w => opcodeOk 0x7F w && fieldOk 3 0 w
  | .secInstallActivate _ w => opcodeOk 0x7F w && fieldOk 3 1 w
  | .secInstallCommitSvn _ w => opcodeOk 0x7F w && fieldOk 3 2 w
  | .secInstallOwnerRecord _ w => opcodeOk 0x7F w && fieldOk 3 3 w
  | .secQuote _ w => opcodeOk 0x7A w
  | .secMapLoad _ w => opcodeOk 0x7E w
  | .secMapExport _ w => opcodeOk 0x7B w
  | .svcInfo k => svcOk k
  | .svcReadReg k => svcOk k
  | .svcDumpSheet k => svcOk k
  | .svcStageFirmware k => svcOk k
  | .svcStageMap k => svcOk k
  | .svcUnlockChallenge k => svcOk k
  | .svcUnlockResponse k => svcOk k
  | .svcUndefinedOp _ k => svcOk k
  | .pcieConfigWrite _ n _ _ => vfsOk n
  | .sqTailWrite _ _ _ _ | .cqHeadWrite _ _ _ | .eqHeadWrite _ _ _ | .descriptorFetch | .fenceBeforeRelease _ _ | .tokenGrant _
    | .ribbonRowGrant _ _ | .partDispatch _ | .descriptorComplete _ | .irqCoalesceExpiry _ _ | .ringDmaFault _ _ _
    | .gatheringRebindComplete _ | .teardownFinish _ | .hstCtxOpenReg _ | .hstCtxTeardownReg _ | .functionLevelReset _
    | .autoOpen _ | .unitDisableDrainExpiry _ | .hstLockWrite _ | .registerWrite _ _ _ | .tbTimeLoRead _ | .tbTrigModeWrite _ _
    | .plgCtlArmWrite _ | .visDescSeedWrite _ | .spnSnsPoolWrite _ | .sheetFreeComplete _ | .moverSegmentDone _ | .copyPresent _
    | .promotionSpaceReturned _ | .trigInstall _ | .trigEdge _ | .tbStepPpsTimeout | .ptpMessageRx _ _ | .holdoverEntry
    | .ptpMessageTx _ _ | .capEdge _ _ | .csiFrameStart _ _ _ | .csiFrameEnd _ _ | .snsCanBusOff _ | .snsLink _ _
    | .spiDrdyEdge _ _ | .selectorCloseTime _ _ | .unitRelease _ | .ploughSlot _ | .plgSwapLoad | .plgSwapIdleSwitch
    | .prsDeadlineHit _ _ _ | .periodFiring _ | .firingComplete _ | .schedWaitExpiry _ | .digestFinal _ | .mirLink _ _
    | .mirRoleRetry _ | .heartbeatTx | .mirPeerLost | .mirRepairWaitExpiry _ | .mirBulkBudgetEnd _ _ | .mirForeignPacket _
    | .mirQpReestablish _ _ | .mirCnpRx _ _ | .mirRateRestore _ _ | .mirSplitEnter | .mirSplitLeave | .descriptorTimeout _
    | .moverResetHang _ | .incidentDrainEnd _ | .partitionResetDone _ | .replayStart | .replayTimeout | .partitionResetHang _
    | .volumeResetHang | .sequencerWatchdog _ | .scrubPatrol _ | .scrubHint | .firmwareStageDone | .unlockChallengeLapse
    | .unlockLockoutEnd | .testDebugAccess _ _ _ | .perstAssert | .perstDeassert _ | .recoveryRrsEnd | .railOutOfRange _ _
    | .railRecovered | .pmbAlert _ | .pmbVoutPoll _ | .governorStep _ | .powerLimitTick _ _ _ | .quireRamp _ _ | .tempSample _ _ _
    | .pwrTrigShort _ | .trigShortClear _ | .volumeResetDone | .moverResetDone _ | .partitionSampleDone _ | .canBusOffRecovery _
    | .msixVectorUnmask _ _ | .svcLinkChange _ | .ptpAnnounceTimeout _ => true

end Sys2Proof
end

