-- ==== Sys2Proof/Tests/Slice0.lean ====
section
/-! SUPPORT. Checks of the definitions on the spec's own numbers, and for every statement with hypotheses a state and operands that meet
them. -/

namespace Sys2Proof.Tests

set_option Elab.async false

open Machine

/-! ## Small states and operands -/

/-- A state that differs from reset in its device. -/
def sv (d : Dev) : State := { State.reset with dev := d }

/-- The device at reset. -/
def d0 : Dev := State.reset.dev

/-- A context with one submission ring and rings of 16 entries. -/
def cx : Ctx :=
  { Ctx.reset with
    st := .opened
    rings := 1
    sq := Vector.replicate 4 { Ring.reset with base := 0x1000, size := 16 }
    cqBase := 0x2000
    cqSize := 16
    eqBase := 0x3000
    eqSize := 16 }

/-- Context 0 OPEN. -/
def d1 : Dev := d0.setCtx 0 cx

/-- A descriptor with the given words. -/
def dsc (l : List (Nat × Nat)) : DescWords := l.foldl (fun w p => w.setIfInBounds p.1 (BitVec.ofNat 32 p.2)) (Vector.replicate 16 0)


/-- A plan of a context with no stage, its first firing due at time 0. -/
def pl : Plan :=
  { armId := 0, ctx := 0, ctxGen := 1, tag := 0, mirrored := false, evt := false, prio := 0, stages := [], cw := [], look := 0,
    slackUs := 0, periodUs := 1000, t0 := 0, epoch := 0, records := 0, ringN := 1, waitUs := 0, next := 0, running := false, rAt := 0,
    sAt := 0, cAt := 0, debt := 0, debtIn := 0, level := 0, high := false, diverged := false, missed := false, refused := false,
    recs := [], firings := 0, stopping := false, cwDone := [], peer := [] }

/-- An accepted descriptor of context 0 that waits to run. -/
def dx : Desc :=
  { id := 7, ctx := 0, ctxGen := 1, origin := .ring 0, w := dsc [], jobs := [], gaths := [], level := 0, cls := 0, start := 0, tmoUs := 0,
    phase := .waiting, await_ := .run, parts := [], flags := 0, doom := none, copies := [], stallAt := none, sels := [], r4 := 0, r5 := 0,
    period := 0, cutAt := none }

/-- A live sheet of tier 0 with 4,096 bytes, its token SET. -/
def sh : Sheet := { Sheet.reset with live := true, gen := 1, ctxGen := 1, size := 4096, tok := .set }

/-- A dense Cholesky of one 1 × 1 block on a press leaf, from sheet 1 to sheet 2. -/
def kw : DescWords := dsc [(0, 0x54), (1, 0x6108), (7, 0x0101), (8, 1), (9, 0x01000001), (12, 0x01000002), (15, 0x1014)]

/-- Context 0 OPEN and the two sheets of that kernel: the input SET with the block 4, the output EMPTY. -/
def dK : Dev :=
  { d1 with sheets := [(1, { sh with cells := Mem.write [] 0 ({ exp := 0, rows := 1, cols := 1, m := [4] } : Bfx).bytes }), (2, { sh with tok := .empty })] }

/-- That kernel accepted; with its tokens; its part on the leaf; its part finished. -/
def dK1 : Dev := (dK.taken 0 kw).1
def dK2 : Dev := dK1.resolve 0
def kx : Desc := (dK2.desc? 0).getD dx
def dK3 : Dev := dK2.dispatchParts kx
def dK4 : Dev := (dK3.modDesc 0 (fun v => { v with parts := endParts dK3.now v.parts })).crcTake

/-- A device with one accepted descriptor. -/
def dD (x : Desc) : Dev := { d1 with descs := [x] }
/-- Device time in ns. -/
def setNow (d : Dev) (t : Nat) : Dev := { d with tb := { d.tb with time := BitVec.ofNat 64 t } }
/-- A promotion in progress of sheet 1 for context 0. -/
def cp : Copy :=
  { home := 1, tier := 0, st := .promoting, round := 0, owner := some 0, refs := [], pins := [], stamp := 0, presentAt := 0, charge := 4096, size := 4096,
    cells := [], synd := [], users := [], evicts := [], heldFor := [], mover := 0, cls := 0, order := 9 }

/-- The physical function may issue requests. -/
def dB : Dev := { d0 with pcie := { d0.pcie with bme := [0] } }

/-! ## Ill-formed commands are refused -/

theorem wf_opcode : (Instr.nop 0 (dsc [(0, 1)])).wf = false ∧ (Instr.nop 0 (dsc [(0, 0x00050000)])).wf = true := by decide
theorem wf_field : (Instr.secInstallActivate 0 (dsc [(0, 0x7F), (6, 2)])).wf = false ∧
    (Instr.ldgFieldScatter 0 (dsc [(0, 0x66), (6, 1)])).wf = true := by decide
theorem wf_line : lineOk (List.replicate 4 0) = true ∧ ∀ b : Bytes, 65536 ≤ b.length → lineOk b = false := by
  exact ⟨by decide, fun b h => by simp [lineOk]; omega⟩
theorem wf_ether : (Instr.ethFrameRx 0 true true (List.replicate 13 0)).wf = false := by decide
theorem wf_can : canOk { error := false, id := 0, ext := false, fd := false, brs := false, remote := false, data := List.replicate 9 0 } = false ∧
    canOk { error := false, id := 2048, ext := false, fd := false, brs := false, remote := false, data := [] } = false := by decide
theorem wf_spi : (Instr.spiTransactionDone 0 []).wf = false := by decide
theorem wf_vfs : (Instr.pcieConfigWrite 0 32 true true).wf = false := by decide
theorem wf_leaf : (Instr.partFinish 0x200 0).wf = false := by decide
theorem wf_access : (Instr.barAccessInvalid 0 false 0 0 true).wf = false := by decide
theorem wf_message : messageOk (List.replicate 40 0) = false ∧ messageOk (List.replicate 96 0) = true := by decide
theorem wf_svc (k : SvcCmd) (h : 2 ^ 32 ≤ k.data.length) : (Instr.svcInfo k).wf = false := by
  simp only [Instr.wf, svcOk, decide_eq_false_iff_not]; omega

/-! ## The spec's worked examples -/

/-- Chapter 01, the three handles name units of their kinds. -/
theorem ex_handles : ([0x001076, 0x00D13D, 0x00E173] : List Nat).map (fun h => (uIdx h, d0.handleForm h)) =
    [(0x076, none), (0x13D, none), (0x173, none)] := by decide +kernel
/-- Chapter 02, one packed block. -/
theorem ex_zero_pack :
    ((zpStream ([0x7F] ++ List.replicate 8 0 ++ [0x01] ++ List.replicate 245 0 ++ [0xC3])).drop 16).take 40 =
      toLe 0x2301 4 ++ [0x01, 0x02] ++ List.replicate 29 0 ++ [0x80] ++ [0x7F, 0x01, 0xC3, 0] := by decide +kernel
/-- Chapter 04, one lidar point under the rules of parser 3. -/
theorem ex_lidar_point :
    let b : Bytes := [0xD2, 0x04, 0, 0, 0x1A, 0x2B, 0x23, 0x28]
    ruleEval b 0x04000001247C0000 = some 77 ∧ ruleEval b 0x134189372E3C0004 = some 54878 ∧
      ruleEval b 0x06748229363C0006 = some 1073741766 := by decide +kernel
/-- Chapter 06, the delay of a gyro channel: five stages of 23, 23, 19, 19 and 11 taps. -/
theorem ex_gyro_delay : (List.range 2048).any (fun k =>
    let w := dwN (1 + 5 * 8 + k * 64)
    decide ((List.range 5).map (fun s => (chTaps w s).1) = [23, 23, 19, 19, 11]) && chDelay w == 221) = true := by decide +kernel
/-- Chapter 07, one stereo pixel: a row whose sums at x = 400 meet the table’s values, and whose right-view winner is 101. -/
def exLuma : Luma := { b := ((List.range 453).map (fun i => if i < 402 then 140 else 255)).toArray, w := 402, h := 1, stride := 453 }
def exSgm : Sgm :=
  { l := exLuma, r := exLuma, cl := #[], cr := #[], d0 := (List.replicate 7 36).toArray, p1 := 0, p2 := 0, grad := 0 }
def exSums : Array (Array Nat) :=
  let px (p : Nat) : List Nat := (List.range 256).map (fun e =>
    if p = 401 then 39 else if p ≠ 400 then 122
    else if e = 64 then 40 else if e = 63 then 52 else if e = 65 then 46 else if e = 144 then 58 else 122)
  ((List.range 402).map (fun p => (if p < 336 then [] else px p).toArray)).toArray
theorem ex_stereo_pixel : rdiv 0x0A48 16 = 164 ∧ exSgm.pixel exSums 250 16 10 400 0 = (0x0643, 79) := by decide +kernel
/-- Chapter 08, requantising two outputs. -/
theorem ex_requant : requant 12345 1518500250 7 (-3) (-128) 127 = (65, false) ∧
    requant 60000 1518500250 7 (-3) (-128) 127 = (127, true) := by decide +kernel
/-- Chapter 10, a pivot regularised: the block L of the singular landmark, and its one replaced pivot. -/
theorem ex_pivot :
    let h : Bfx := { exp := -20, rows := 3, cols := 3, m := [4194304, 2097152, 0, 2097152, 1048576, 0, 0, 0, 9437184] }
    let r := factorBlock { tau := 20, lambda := 16, lm := false, pcg := false } none h [] none (-24)
    (r.1.b.exp, r.1.b.m, r.1.sat, r.2) = (-24, [33554432, 0, 0, 16777216, 202659, 0, 0, 0, 50331648], false, [1]) := by decide +kernel
/-- Chapter 12, catching up: the debts after firings 1, 2 and 3 of the table. -/
theorem ex_debt : ([(0, 62000), (12000, 44000), (6000, 46500)] : List (Nat × Nat)).map (fun q =>
    { pl with debt := q.1, rAt := 7000, cAt := 7000 + 1000 * q.2, periodUs := 50000 }.debtAfter) = [12000, 6000, 2500] := by decide +kernel
/-- Chapter 14, the check values of "123456789". -/
theorem ex_crc : (List.range 4).map (fun k => crcOf (k + 1) (asciiOf "123456789")) = [0xE3069283, 0xCBF43926, 0x29B1, 0x4B] := by
  decide +kernel
/-- Chapter 16, the balls of TRIG2 and of CSI3_D0_N. -/
theorem ex_balls : ballNet 49 52 = .sig "TRIG2" ∧ rowName 49 = "BM" ∧ ballNet 23 52 = .sig "CSI3_D0_N" ∧ rowName 23 = "AE" := by
  decide +kernel
/-- Chapter 17, the addressing example: a reserved entry and a present one. -/
theorem ex_addresses : rwlAt .bl6440 0x7830 = [] ∧ rwlAt .bl6440 0x14120 = [] ∧ rwlAt .bl6480 0x14120 ≠ [] := by decide +kernel

/-! ## Witnesses: states and operands that meet the hypotheses of the statements -/

/-- PERST_N asserted; the setup locked. -/
def dRst : Dev := { d0 with pwr := { d0.pwr with perst := true } }
def dLk : Dev := { d0 with locked := true }

theorem wit_StepRunsFrontCommand : ({ State.reset with pending := [.replayStart, .heartbeatTx] }).pending = .replayStart :: [.heartbeatTx] :=
  rfl
theorem wit_EmptyQueueTicks : State.reset.pending = [] ∧ State.reset.dev.alive = true ∧ (sv dRst).pending = [] ∧ dRst.alive = false ∧
    { d0 with sec := { d0.sec with recovery := true } }.alive = true ∧
    { d0 with sec := { d0.sec with recovery := true } }.running = false := by decide +kernel
theorem wit_StepKeepsSetupCanonical : SetupCanonical { d0 with setup := [(0x4200, 1), (0x14000, 7)] } := by
  unfold SetupCanonical; decide +kernel
theorem wit_LockFreezesSetup : (d0.running = true ∧ d0.locked = false ∧ bitOf 1 0 = true ∧ d0.measFull = false ∧ bitOf 2 0 = false) ∧
    { d0 with sec := { d0.sec with log := List.replicate 256 (d0.sec.log.headD (logEntry 0 0 0 0)) } }.measFull = true ∧
    (dLk.running = true ∧ dLk.locked = true ∧ (Instr.hstLockWrite 1).resets = false ∧ (0x14000 : BitVec 20).toNat % 4 = 0 ∧
      (0x14000 : BitVec 20).toNat ≠ 0x1010 ∧ (0x14000 : BitVec 20).toNat ≠ 0x1014 ∧ (0x14000 : BitVec 20).toNat ≠ 0x8004 ∧
      (0x14000 : BitVec 20).toNat ≠ 0x18090) := by decide +kernel
theorem wit_RoleHoldsUntilPerst : (dRst.pwr.perst = true ∧ dRst.railsIn = true ∧ dRst.pwr.brown = false ∧ dRst.pwr.therm = false) ∧
    ∀ v, Instr.nop 0 (dsc []) ≠ .perstDeassert v := by
  exact ⟨by decide +kernel, fun v h => by cases h⟩
theorem wit_OnlyOverstressStops : Overstress (.railOutOfRange 0 951) ∧ ¬ Overstress (.railOutOfRange 0 950) ∧ ¬ Overstress .replayStart := by
  refine ⟨?_, ?_, ?_⟩ <;> simp [Overstress, railMax]
theorem wit_HeldInResetNothingRuns : dRst.alive = false ∧ Instr.replayStart.resets = false := by decide +kernel
theorem wit_OpcodeRowsRun : (Instr.nop 0 (dsc [])).presented = some (0, (dsc []).withOp 0) ∧ d1.running = true ∧ d1.takes 0 ∧
    (d1.queued 0 ((dsc []).withOp 0)).judge 0 0 = .accepted 1 := by
  unfold Machine.Dev.takes; decide +kernel
theorem wit_OpcodeRowsRefusedByCheck : (Instr.nop 0 (dsc [(6, 1)])).presented = some (0, (dsc [(6, 1)]).withOp 0) ∧ d1.running = true ∧
    d1.takes 0 ∧ (d1.queued 0 ((dsc [(6, 1)]).withOp 0)).judge 0 0 = .refused 1 .refusedMalformed 0 := by
  unfold Machine.Dev.takes; decide +kernel
theorem wit_OpcodeRowsNeedAnOpenContext : (d0.ctx 0).st ≠ .opened ∧ (d0.setCtx 0 { cx with owed := 16 }).cqRoom 0 = false ∧
    (d0.setCtx 0 { cx with owed := 15 }).cqRoom 0 = true := by decide +kernel

/-- One entry written, the tails at 1. -/
def d2 : Dev :=
  d0.setCtx 0 { cx with sq := cx.sq.setIfInBounds 0 { cx.sq.getD 0 Ring.reset with tail := 1 }, cqTail := 1, eqTail := 1 }

theorem wit_DoorbellWrites : d2.running = true ∧ d2.pageLive 0 0 = true ∧
    (let x := d2.ctx 0
     let ok (ring : Nat) (v : DW) : Prop :=
       x.st = .opened ∧ ring < x.rings ∧ (v - (x.sq.getD ring Ring.reset).head).toNat ≤ (x.sq.getD ring Ring.reset).size ∧
         (v - (x.sq.getD ring Ring.reset).tail).toNat ≤ (x.sq.getD ring Ring.reset).size
     ok 0 1 ∧ ok 0 16 ∧ ¬ ok 0 17 ∧ ¬ ok 0 0 ∧ ¬ ok 1 1 ∧
       (x.st = .opened ∧ ((1 : DW) - x.cqHead).toNat ≤ (x.cqTail - x.cqHead).toNat) ∧ ¬ ((2 : DW) - x.cqHead).toNat ≤ (x.cqTail - x.cqHead).toNat ∧
       (x.st = .opened ∧ ((1 : DW) - x.eqHead).toNat ≤ (x.eqTail - x.eqHead).toNat) ∧
       ¬ ((2 : DW) - x.eqHead).toNat ≤ (x.eqTail - x.eqHead).toNat) := by decide +kernel
theorem wit_ForeignPagesIgnoreWrites : d0.running = true ∧ (3 : Func).val ≠ 0 ∧ d0.func 5 ≠ (3 : Func).val ∧
    (0x5008 : BitVec 20).toNat / 4096 = 5 := by decide +kernel
theorem wit_OtherAccessesReadZero : (((2 : Nat) ≠ 4 ∧ (2 : Nat) ≠ 8) ∨ (0x1000 : BitVec 20).toNat % 2 ≠ 0) ∧
    (((4 : Nat) ≠ 4 ∧ (4 : Nat) ≠ 8) ∨ (0x1002 : BitVec 20).toNat % 4 ≠ 0) ∧ (((8 : Nat) = 4 ∨ (8 : Nat) = 8) ∧ (0x1008 : BitVec 20).toNat % 8 = 0 ∧
      (0x1008 : BitVec 20).toNat < 0x40000 ∧ d0.pageLive 0 ((0x1008 : BitVec 20).toNat / 4096) = true) ∧
    (0x1004 : BitVec 20).toNat % (if true then 8 else 4) ≠ 0 ∧ (0x1002 : BitVec 20).toNat % (if false then 8 else 4) ≠ 0 := by decide +kernel

/-- Vector 3 of the physical function with an open window, unmasked and masked. -/
def dV (m : Bool) : Dev := { d0 with vecs := [(3, { masked := m, pending := m, window := some 0 })] }

theorem wit_InterruptsComplete : (dV false).running = true ∧ (Tab.getD (dV false).vecs 3 Vec.reset).window = some 0 ∧ 0 ≤ (dV false).now ∧
    (Tab.getD (dV false).vecs 3 Vec.reset).masked = false ∧ (Tab.getD (dV true).vecs 3 Vec.reset).masked = true ∧
    (Tab.getD { d0 with vecs := [(3, { Vec.reset with window := some 10 })] }.vecs 3 Vec.reset).window = some 10 ∧ d0.now < 10 := by
  decide +kernel
theorem wit_RecordsAreWhereTheySay : (d1.ctx 0).st = .opened ∧ (d1.ctx 0).tear = none := by decide +kernel
theorem wit_EventsLandInTheirRing : (let e : Ev := { code := 0x08, ctx := some 0 }; d1.evDest e = 0 ∧ (d1.ctx 0).st = .opened ∧
      ((d1.ctx 0).eqTail - (d1.ctx 0).eqHead).toNat < (d1.ctx 0).eqSize) ∧
    (let d := d0.setCtx 0 { cx with eqTail := 16 }
     d.evDest { code := 0x08, ctx := some 0 } = 0 ∧ (d.ctx 0).st = .opened ∧ (d.ctx 0).eqSize ≤ ((d.ctx 0).eqTail - (d.ctx 0).eqHead).toNat) ∧
    (d0.ctx (d0.evDest { code := 0x08, ctx := some 0 })).st ≠ .opened := by decide +kernel
theorem wit_LatenessField : (dsc [(4, 5000)]).deadline ≠ 0 ∧ (dsc []).deadline = 0 ∧
    1000 * ((2 : Int) - 1) < (6001 : Nat) - ((dsc [(4, 5000)]).deadline : Int) ∧
    ((6001 : Nat) : Int) - (dsc [(4, 5000)]).deadline ≤ 1000 * 2 := by decide +kernel

theorem wit_LeafOperationsConclude : (Instr.prsKernel 0 kw).presented = some (0, kw.withOp 0x54) ∧ kw.withOp 0x54 = kw ∧
    dK.running = true ∧ dK.takes 0 ∧ (dK.queued 0 kw).judge 0 0 = .accepted 1 ∧ (dK.taken 0 kw).2 = 0 ∧ dK1.desc? 0 ≠ none ∧
    (opDefOf ((dK1.desc? 0).getD dx).w).isSome = true ∧ dK2.desc? 0 = some kx ∧ dK2.doomOf kx = none ∧ dK2.readyToRun kx = true ∧
    kx.phase = .waiting ∧ dK2.copyShort kx = false ∧ dK2.runsNow kx = true ∧
    (let z := (dK4.desc? 0).getD dx
     dK4.desc? 0 ≠ none ∧ (opDefOf z.w).isSome = true ∧ dK4.copyShort z = false ∧ z.dissents = [] ∧ z.stage? = none) := by
  unfold Machine.Dev.takes; decide +kernel

/-- Context 0 OPEN and the primary context, with an entry to fetch. -/
def d3 : Dev := { d2 with setup := [(0x1000, 0x40)] }
/-- A NOP held for ring 0 of context 0. -/
def dF : Dev := d1.queued 0 ((dsc []).withOp 0)
/-- The kernel’s sheets as ribbons of 64-byte rows: one written row to pass, one row to take. -/
def dR : Dev := (dK3.modSheet 1 (fun z => { z with ribbon := true, rows := 4, rowBytes := 64, rowsDone := 1 })).modSheet 2
  (fun z => { z with ribbon := true, rows := 4, rowBytes := 16 })
/-- Only the output of that kernel as a ribbon. -/
def dW : Dev := dK3.modSheet 2 (fun z => { z with ribbon := true, rows := 4, rowBytes := 16 })

theorem wit_FetchAndTokensComplete :
    (d3.running = true ∧ (d3.primary.bind (fun c => (d3.nextRing c).map (fun n => (c, n)))) = some (0, 0) ∧ d3.groupReady 0 0 = false) ∧
    (d2.primary.bind (fun c => (d2.nextRing c).map (fun n => (c, n))) = none ∧
      ((List.range 64).map (fun k => (d2.rr + 1 + k) % 64)).findSome? (fun c => (d2.nextRing c).map (fun n => (c, n))) = some (0, 0) ∧
      ({ d2 with rr := 0 } : Dev).groupReady 0 0 = false) ∧
    (dF.nextHeld = some (0, 0) ∧ dF.nextHeld ≠ some (1, 0)) ∧
    (dR.running = true ∧ (dR.sheet (shIdx ((0x000001 : BitVec 22).zeroExtend 32))).ribbon = true ∧
      ((dR.sheet 1).q.find? (fun r => r.desc == 0 && r.st == .granted)) = some { desc := 0, write := false, st := .granted, matched := 0 } ∧
      dR.desc? 0 = some ((dK3.desc? 0).getD dx) ∧ Tab.getD (dR.sheet 1).rowRel 0 0 < (dR.sheet 1).rowsDone ∧
      dW.desc? 0 = some ((dK3.desc? 0).getD dx) ∧
      ((dW.sheet 2).q.find? (fun r => r.desc == 0 && r.st == .granted)) = some { desc := 0, write := true, st := .granted, matched := 0 } ∧
      (dW.sheet 2).ribbon = true ∧ (dW.sheet 2).rowsDone < dW.frameRows ((dK3.desc? 0).getD dx) 2 ∧ dW.rowFormed ((dK3.desc? 0).getD dx) 2 (dW.sheet 2).rowsDone = true ∧
      dW.mayWriteRow 2 0 (dW.sheet 2).rowsDone = true) ∧
    (dK1.running = true ∧ (∃ x, dK1.desc? 0 = some x ∧ (opDefOf x.w).isSome = true ∧ x.phase = .waiting) ∧ (dK1.resolve 0).desc? 0 = some kx ∧
      (dK1.resolve 0).doomOf kx = none ∧ (dK1.resolve 0).readyToRun kx = true ∧ (dK1.resolve 0).copyShort kx = false) ∧
    (let x := (dK3.desc? 0).getD dx
     dK3.descs.find? (fun x => x.live && x.parts.any (fun p => p.leaf == (0x108 : BitVec 12).toNat && p.st == .running)) = some x ∧
       x.uses.any (fun u => dK3.stalled (shIdx u.h)) = false) ∧
    (let x := (dK4.desc? 0).getD dx
     dK4.desc? 0 = some x ∧ x.phase = .dispatched ∧ x.allFinished = true ∧ dK4.ribbonsOk x = true ∧ dK4.heldBack 0 = false ∧
       (x.compares && (dK4.crcUnit 0).isNone) = false) := by
  refine ⟨by decide +kernel, by decide +kernel, by decide +kernel, by decide +kernel, ⟨by decide +kernel, ?_, by decide +kernel⟩,
    by decide +kernel, by decide +kernel⟩
  exact ⟨(dK1.desc? 0).getD dx, by decide +kernel⟩
theorem wit_TokenGrantGrants :
    (d1.running = true ∧ d1.sec.mapWait = none ∧ (∀ r ∈ (d1.sheet 1).q, ∀ st, r.st ≠ .doomed st) ∧ (d1.sheet 1).nextGrant = none) ∧
    (dK1.running = true ∧ dK1.sec.mapWait = none ∧ (dK1.sheet 1).q = [{ desc := 0, write := false, st := .ready, matched := 0 }] ∧
      (let r : Req := { desc := 0, write := false, st := .ready, matched := 0 }
       let e := dK1.grantReq 1 r
       let x := (e.desc? 0).getD dx
       (dK1.sheet 1).nextGrant = some r ∧ e.desc? 0 = some x ∧ (opDefOf x.w).isSome = true ∧
         ((e.resolve x.id).desc? x.id).bind (fun y => y.doom) = none ∧ (e.resolve x.id).sec.mapWait = none)) := by
  refine ⟨⟨by decide +kernel, by decide +kernel, ?_, by decide +kernel⟩, by decide +kernel⟩
  have h : (d1.sheet 1).q = [] := by decide +kernel
  simp [h]
theorem wit_ContextEventsComplete :
    (dB.running = true ∧ dB.locked = false ∧ (dB.ctx 0).st = .closed ∧ dB.funcOn (dB.func 0) = true) ∧ ((d1.ctx 0).st = .opened ∧ d1.locked = false) ∧
    (let d := d0.setCtx 0 { cx with st := .tearing, tear := some { cause := 1, owner := none, silent := false } }
     d.running = true ∧ (d.ctx 0).st = .tearing ∧ d.silent 0 = false ∧ (d.ctx 0).tear.isSome = true ∧ d.tearDone 0 = true) ∧
    (let d := dB.setCtx 0 { Ctx.reset with reopen := true }
     (d.ctx 0).reopen = true ∧ (d.ctx 0).st = .closed ∧ d.funcOn (d.func 0) = true) ∧ d0.sec.rrs = false ∧
    (let d := { d1 with setup := [(0x1400, 0x103)] }
     (3 : Func).val ≠ 0 ∧ (List.range 64).filter (fun k => (3 : Func).val == 0 || d.func k == (3 : Func).val) = [0] ∧ (d.ctx 0).st = .opened) := by
  decide +kernel
theorem wit_RegisterWritesComplete :
    (d0.running = true ∧ d0.locked = false) ∧
    (let o := (0x14000 : BitVec 20).toNat
     o % 4 = 0 ∧ o ≠ 0x1004 ∧ o ≠ 0x1010 ∧ o ≠ 0x1014 ∧ o ≠ 0x8004 ∧ o ≠ 0x18090 ∧ o ≠ 0x300C ∧ ownWord o = false ∧ rwlAt d0.board.variant o ≠ []) ∧
    (∃ t, exec (.registerWrite 0x14000 false 7) (sv d0) = .next t) ∧ (1 : DW) ≠ 0 ∧
    (bits (64 : DW) 7 0 ≤ t1Mib d0.board.variant / 2 ∧ d0.regF 0x300C 7 0 < bits (64 : DW) 7 0 ∧
      (bits (64 : DW) 7 0 - d0.regF 0x300C 7 0) * 256 ≤ d0.tierFree 0) ∧
    schedBad d0.now { mode := 0, low := false, start := 0, period := 0, width := 0 } = false ∧
    schedBad d0.now { mode := 3, low := false, start := 0, period := 0, width := 0 } = true ∧ bitOf 1 0 = true ∧ d0.plg.swap = none := by
  refine ⟨by decide +kernel, by decide +kernel, ⟨_, rfl⟩, by decide +kernel, by decide +kernel, by decide +kernel⟩
theorem wit_TimeLowLatches : d0.running = true ∧ d0.alive = true ∧ d0.svcBusy = false ∧ d0.sec.dead = false ∧
    (let a : QW := 0x8000000000 + 0x18000
     4 ≤ a.toNat / 2 ^ 32 % 2 ^ 16 ∧ a.toNat / 2 ^ 32 % 2 ^ 16 ≤ 4096 ∧ a.toNat / 2 ^ 48 = 0 ∧
       a.toNat % 2 ^ 32 + a.toNat / 2 ^ 32 % 2 ^ 16 ≤ 0x100000) := by decide +kernel

/-- Mover 0 with one job, of a descriptor and of a copy. -/
def dM (own : MoveOf) (n : Nat) (op : Nat := 0x0B) : Dev :=
  { dD { dx with phase := .dispatched, w := dsc [(0, op)] } with
    movers := d0.movers.setIfInBounds 0 { Mover.reset with jobs := [{ own := own, cls := 0, order := 0, segs := n, running := true }] } }
/-- A copy of sheet 1 of tier 1 in a state. -/
def dC (c : Copy) : Dev := { d1 with sheets := [(1, { sh with tier := 1, size := 64 })], copies := [(0, c)] }

/-- That copy of a ZERO-PACK home of zeros, some words not clean; of a plain home past one tile on the smaller variant. -/
def dZ (l : Tab Byte) : Dev := { dC cp with sheets := [(1, { sh with tier := 1, size := 64, zp := true, synd := l })] }
def dL : Dev := { dC cp with sheets := [(1, { sh with tier := 1, size := 65537 })], board := { d0.board with variant := .bl6440 } }

theorem wit_UnitAndSheetEventsComplete :
    (let d := dD { dx with await_ := .rebind [] }
     d.running = true ∧ d.desc? 7 = some { dx with await_ := .rebind [] }) ∧
    (let r : Drain := { owner := 9, index := 4, until_ := 0, waits := [], aborted := 0 }
     let d := { dD { dx with phase := .dispatched } with drains := [r] }
     d.drains.find? (fun r => r.owner == 9) = some r ∧ r.until_ ≤ d.now ∧ r.waits = []) ∧
    (let r : Drain := { owner := 9, index := 4, until_ := 0, waits := [7], aborted := 0 }
     let d := { dD { dx with phase := .dispatched } with drains := [r] }
     d.drains.find? (fun r => r.owner == 9) = some r ∧ r.until_ ≤ d.now ∧ r.waits = [7] ∧ d.desc? 7 = some { dx with phase := .dispatched }) ∧
    (let x := { dx with await_ := .free 1 [] }
     let d := { dD x with sheets := [(1, { sh with freeing := true })] }
     d.desc? 7 = some x ∧ d.freeable 1 = true) ∧
    (let j (o : MoveOf) (n : Nat) : MoveJob := { own := o, cls := 0, order := 0, segs := n, running := true }
     let ok (o : MoveOf) (n : Nat) : Prop := ((dM o n).mover 0).jobs = [j o n] ∧ ((dM o n).mover 0).resetAt = none ∧
       ((dM o n).mover 0).oos = false ∧ (dM o n).jobStalled (j o n) = false
     ok (.desc 7) 2 ∧ ok (.desc 7) 1 ∧ ok (.copy 0) 1 ∧
       (let e (op : Nat) : Dev := (dM (.desc 7) 1 op).modMover 0 (fun x => { x with jobs := [] })
        ((e 0x7C).desc? 7).map (fun x => x.w.opc) = some 0x7C ∧ ((e 0x0B).desc? 7).map (fun x => x.w.opc) = some 0x0B)) ∧
    (let d := dC cp
     let f := (d.decodeHome 1 0 none).1.flagCopy 0 [] 0
     d.running = true ∧ d.copy? 0 = some cp ∧ cp.st = .promoting ∧ d.movers.toList.any (fun m => m.jobs.any (fun j => j.own == .copy 0)) = false ∧
       (d.decodeHome 1 0 none).2.2 = false ∧ f.homePlain 1 = some (List.replicate 64 0) ∧ f.pastTile (f.sheet 1).tier cp.tier 64 = false ∧
       cp.users = [] ∧ cp.evicts = [] ∧ d.desc? cp.order = none ∧ f.descs.any (fun x => x.await_ == .copy 0 false) = false ∧
       (f.sheet 1).freeing = false) ∧
    (dZ [(0, 0xFF)] |>.decodeHome 1 0 none).2.2 = true ∧
    ((dZ [] |>.decodeHome 1 0 none).2.2 = false ∧ (dZ []).homePlain 1 = none) ∧
    ((∃ b, dL.homePlain 1 = some b ∧ b.length = 65537) ∧ dL.pastTile (dL.sheet 1).tier 0 65537 = true) ∧
    { dC { cp with st := .waiting } with setup := [(0x3100, 0x100000)] }.canStart 0 = true := by
  refine ⟨?_, ?_, ?_, ?_, ?_, ?_, ?_, ?_, ⟨⟨_, rfl, ?_⟩, ?_⟩, ?_⟩
  case refine_9 => exact Mem.read_length _ _ _
  all_goals decide +kernel

/-- Output 0 with a schedule waiting; with a pulse; with an edge due. -/
def dT (t : Trig) : Dev := setNow (d0.setTrig 0 t) 10000
def sd : Sched := { mode := 2, low := false, start := 0, period := 1000, width := 100 }
def tr : Trig := { cur := sd, next := none, pulse := none, level := false, queue := [] }

theorem wit_TimebaseEventsComplete :
    (let t := { tr with queue := [{ owner := none, sched := sd, at_ := 2000 }] }
     (dT t).running = true ∧ (dT t).trig 0 = t ∧ 2000 ≤ (dT t).now ∧ t.pulse = none ∧ sd.mode = 2) ∧
    (let t := { tr with pulse := some 9998 }
     (dT t).trig 0 = t ∧ 9998 ≤ (dT t).now ∧ (dT t).now < 9998 + 4) ∧
    (let t := { tr with next := some 10000 }
     (dT t).trig 0 = t ∧ 10000 ≤ (dT t).now ∧ (dT t).now < 10000 + 4 ∧ (dT t).now < 10000 + t.cur.width) ∧
    (let x := { dx with await_ := .pps 5 0 }
     (dD x).descs.filter (dD x).ppsLate = [x]) ∧
    (let d := { d0 with setup := [(0x8080, 0x7F01)] }
     let c := d.tb.caps.getD 0 Cap.reset
     d.regF 0x8080 1 0 = 1 ∧ c.any = false ∧ ownSensor (d.regF 0x8080 15 8) = false ∧ bitOf (d.reg 0x8080) 2 = false) ∧
    (let d := { d0 with setup := [(0x8080, 0x7F02)] }
     d.regF 0x8080 1 0 = 2 ∧ ownSensor (d.regF 0x8080 15 8) = false ∧ bitOf (d.reg 0x8080) 2 = false) ∧
    (let d := setNow { d0 with setup := [(0x8000, 2)], tb := { d0.tb with ppsLast := 0 } } 1500000000
     d.tbSource = 2 ∧ d.tb.ppsLast + 1500000000 ≤ d.now ∧ d.tb.holdover = false) := by
  refine ⟨?_, ?_, ?_, ?_, ?_, ?_, ?_⟩ <;> decide +kernel

/-- Port 0 with PTP in a state. -/
def dP (x : PtpPort) : Dev := setNow ({ d0 with setup := [(0x8040, 1)] }.setPtp 0 x) 3000000001
def pp : PtpPort := d0.ptp 0
def pm (b : PtpBody) : PtpMsg := { domain := BitVec.ofNat 8 ((dP pp).regF 0x8034 7 0), seq := 4, source := { clock := 1, port := 1 }, body := b }
def an : PtpPrio := { priority1 := 1, quality := 0, priority2 := 0, gmClock := 0, steps := 0 }

theorem wit_PtpEventsComplete :
    (d0.running = true ∧ d0.ptpOn 0 = false) ∧
    ((dP pp).running = true ∧ (dP pp).ptpOn 0 = true ∧ (pm (.sync false 0 0)).domain.toNat = (dP pp).regF 0x8034 7 0) ∧
    ((dP { pp with st := .slave }).ptp 0).st = .slave ∧
    (let x := { pp with st := .slave, sync := some (4, 5, 0) }
     ((dP x).ptp 0).sync = some ((pm (.followUp 0 0)).seq, 5, 0) ∧ ((dP x).ptp 0).st = .slave) ∧
    (let x := { pp with reqSeq := 4, t1 := some 3 }
     (pm (.pdelayResp 0 ((dP x).portId 0))).seq = ((dP x).ptp 0).reqSeq ∧ ((dP x).ptp 0).t1.isSome = true) ∧
    ((dP pp).ptp 0).best = none ∧
    (let d := dP { pp with st := .master }
     d.ptpOn 0 = true ∧ (d.ptp 0).st = .master ∧ d.tb.txq.length < 64 ∧ d.due (d.ptp 0).syncAt (d.syncNs 0) = true ∧
       d.due (d.ptp 0).annAt (10 ^ 9) = true) ∧
    (let d := dP { pp with best := some (an, { clock := 1, port := 1 }, 0) }
     (d.ptp 0).best = some (an, { clock := 1, port := 1 }, 0) ∧ 0 + 3000000000 ≤ d.now) := by
  refine ⟨?_, ?_, ?_, ?_, ?_, ?_, ?_, ?_⟩ <;> decide +kernel
theorem wit_TxStampQueueHolds64 : d0.tb.txq.length < 64 ∧
    64 ≤ { d0 with tb := { d0.tb with txq := List.replicate 64 (0, 0, 0) } }.tb.txq.length ∧
    { d0 with tb := { d0.tb with txq := List.replicate 64 (0, 0, 0) } }.tb.txq.length ≤ 64 := by decide +kernel
theorem wit_ServoBounds : (0 : Int) < 1000000000 ∧ -(slewLim 100) ≤ Tb.freq d0.tb ∧ Tb.freq d0.tb ≤ slewLim 100 ∧
    (servo (slewLim 100) 1000 5 1000000000 d0.tb).sat = false ∧ (1000 : Nat) ≠ 0 := by decide +kernel

/-- Camera 0 on port 0, channel 0: RAW8, 16 × 2. -/
def dCam : Dev := { d0 with setup := [(0x4100, 0x2A00), (0x4104, 0x00020010), (0x7000, 0x101)] }
def fr : Frame := { cam := 0, dropped := false, sheet := 0, number := 0, lines := 0, trunc := false, crcBad := false, emb := [] }
def lu (sh : Nat) : LUnit :=
  { sensor := 0, seq := 0, record := Vector.replicate 16 0, mapped := 0, bad := false, suspect := false, sheet := sh, slot := 0, held := [] }

theorem wit_CameraEventsComplete :
    (d0.running = true ∧ d0.camsOf 0 0 = []) ∧
    (dCam.running = true ∧ dCam.camsOf 0 0 = [0] ∧ dCam.frame? 0 = none ∧ dCam.slotHeld 0 = false ∧
      (dCam.takeLanding (dCam.camLine 0 * dCam.camH 0)).isSome = true) ∧
    (let d := { dCam with sns := { dCam.sns with units := [(0, lu 1)] } }
     d.camsOf 0 0 = [0] ∧ d.frame? 0 = none ∧ d.slotHeld 0 = true) ∧
    (let d := dCam.setFrame 0 (some fr)
     d.camsOf 0 0 = [0] ∧ d.frame? 0 = some fr ∧ (0x2A : BitVec 6).toNat ≠ 0x12 ∧ d.camDt 0 = (0x2A : BitVec 6).toNat ∧ fr.dropped = false ∧
       fr.lines < d.camH 0 ∧ (List.replicate 16 (0 : Byte)).length ≤ d.camLine 0 ∧ d.camLine 0 < (List.replicate 17 (0 : Byte)).length) := by
  refine ⟨?_, ?_, ?_, ?_⟩ <;> decide +kernel

/-- Ethernet port 0, a raw filter for lidar 0x20, CAN port 0 with a pass-all filter. -/
def dEth : Dev :=
  { d0 with setup := [(0x4200, 1), (0x4300, 0x41), (0x4304, 0x188B5), (0x430C, 0x20), (0x6000, 1), (0x6100, 0x40000000), (0x7200, 0x101), (0x7400, 0x101)] }
def eth (t : List Byte) : Bytes := List.replicate 12 0 ++ t ++ [1, 2, 3, 4]
def can : CanFrame := { error := false, id := 5, ext := false, fd := false, brs := false, remote := false, data := [1] }

theorem wit_PacketPortsComplete :
    bitOf (d0.reg 0x4200) 0 = false ∧ (dEth.running = true ∧ bitOf (dEth.reg 0x4200) 0 = true) ∧ (ethParse (eth [0x88, 0xF7])).etype = 0x88F7 ∧
    ((ethParse (eth [0x88, 0xB5])).etype ≠ 0x88F7 ∧ dEth.macFor 0 ((eth [0x88, 0xB5]).set 1 1) = false) ∧
    (let f := eth [0x88, 0xB5]
     (ethParse f).frag = false ∧ f.length ≤ 9216 ∧ dEth.macFor 0 f = true ∧
       (List.range 16).findSome? (fun k => (dEth.filterHit k 0 (ethParse f)).map (fun b => (k, b))) = some (0, (ethParse f).body) ∧
       dEth.snsOn (dEth.regF (0x430C + 16 * 0) 7 0) = true ∧ 0x20 ≤ dEth.regF (0x430C + 16 * 0) 7 0) ∧
    (let e := ethParse (eth [0x88, 0xB5])
     let q := dEth.parserOf 0x20
     e.bad = false ∧ (dEth.ioDecode 8).2 = false ∧ dEth.parserCheck q e.body ≠ some false ∧
       (dEth.parse q true (fun _ => 0) e.body).dead = false ∧ ({ dEth with flt := { dEth.flt with ioBuf := [(8, [0xFF])] } }.ioDecode 8).2 = true ∧
       ({ dEth with setup := dEth.setup.filter (fun p => p.1 != 0x430C) }.regF 0x430C 7 0 < 0x20)) ∧
    (let d := { dEth with setup := Tab.set dEth.setup 0x5008 1 }
     d.parserCheck (d.parserOf 0x20) (ethParse (eth [0x88, 0xB5])).body = some false) ∧
    (let d := { dEth with setup := Tab.set dEth.setup 0x5010 0x081C0064 }
     d.parserCheck (d.parserOf 0x20) (ethParse (eth [0x88, 0xB5])).body ≠ some false ∧
       (d.parse (d.parserOf 0x20) true (fun _ => 0) (ethParse (eth [0x88, 0xB5])).body).dead = true) ∧
    (bitOf (dEth.reg 0x6000) 0 = true ∧ Tab.get? dEth.sns.canStart 0 = none ∧ can.error = false ∧ can.remote = false ∧ dEth.snsOn (0x40 + 0) = true ∧
      (!bitOf (dEth.reg 0x6000) 1) = true ∧ (!bitOf ((0x3 : DW)) 1) = false ∧ Tab.get? { dEth.sns with canStart := [(0, 5)] }.canStart 0 ≠ none ∧
      (List.range 32).any (fun k =>
        let w := dEth.reg (0x6000 + 0x100 + 8 * k)
        let m := dEth.regF (0x6000 + 0x104 + 8 * k) 28 0
        bitOf w 30 && bitOf w 29 == can.ext && (bits w 28 0 &&& m) == (can.id.toNat &&& m)) = true) ∧
    (true ≠ bitOf (d0.reg 0x6800) 2 ∧ (d0.spi 0).running = none) ∧
    (let d := d0.setSpi 0 { Spi.reset with running := some 5 }
     (d.spi 0).running = some 5 ∧ d.snsOn (0x30 + 0) = false ∧ d.parserCheck (d.parserOf (0x30 + 0)) (bslice [1, 2] 0 (d.spiLen 0)) = none) := by
  refine ⟨?_, ?_, ?_, ?_, ?_, ?_, ?_, ?_⟩ <;> decide +kernel

/-- An open selector on camera 0. -/
def sl : SelMatch :=
  { sensor := 0, plough := false, latest := false, max := 4, start := 0, stop := 1000, waitUs := 2, closed := false, units := [] }
/-- A landed unit of camera 0, long past its retention, alone in sheet 1. -/
def dU (now : Nat) : Dev := setNow { d0 with setup := [(0x7000, 0x00050101)], sns := { d0.sns with units := [(0, lu 1)] } } now

theorem wit_SelectorsAndUnitsComplete :
    (let d := setNow (dD { dx with sels := [sl] }) 3000
     d.running = true ∧ d.desc? 7 = some { dx with sels := [sl] } ∧ [sl][0]? = some sl ∧ sl.stop + sl.waitUs * 1000 ≤ d.now) ∧
    (setNow (dD { dx with sels := [sl] }) 2999).now < sl.stop + sl.waitUs * 1000 ∧
    (Tab.get? (dU 5000000).sns.units 0 = some (lu 1) ∧ (dU 5000000).now ≤ (lu 1).mapped + (dU 5000000).retainNs 0 ∧
      ({ lu 1 with bad := true } : LUnit).bad = true) ∧
    (let d := dU 5000001
     (lu 1).mapped + d.retainNs 0 < d.now ∧ (lu 1).held = [] ∧ d.mayMatch 0 false 0 = false ∧ (d.landing 0).sheet ≠ some 1 ∧
       ((Tab.del d.sns.units 0).any (fun p => p.2.sheet == 1) || d.mir.rx.any (fun p => !p.2.dropped && p.2.sheet == 1)) = false ∧
       ((d.setLanding 0 { d.landing 0 with sheet := some 1 }).landing 0).sheet = some 1) ∧
    (let d := { dU 5000001 with sns := { d0.sns with units := [(0, lu 1), (1, lu 1)] } }
     Tab.get? d.sns.units 0 = some (lu 1) ∧ (Tab.del d.sns.units 0).any (fun p => p.2.sheet == 1) = true) := by
  refine ⟨?_, ?_, ?_, ?_, ?_⟩ <;> decide +kernel

/-- Channel 0 with a sample, enabled or not, while the engine runs. -/
def dPl (cfg : DW) : Dev :=
  ({ d0 with plg := { d0.plg with en := true } }.setPch 0
    { d0.pch 0 with cfg := cfg, pend := [{ value := some 5, stamp := 1000, cause := 0 }] })
def sw : PlgSwap := { owner := none, at_ := 0, applyCh := false, chans := [], switchedOn := 0 }
/-- A PLG_SWAP accepted that waits to load an image of zeros from sheet 1. -/
def pw : DescWords := dsc [(0, 0x14), (1, hPlough), (6, 0x01000001), (10, 10000000)]
def dSw : Dev := { d1 with sheets := [(1, sh)] }
def dSw1 : Dev := (exec (.plgSwap 0 pw) (sv dSw)) |> fun o => match o with | .next t => t.dev | _ => d0

theorem wit_PloughEventsComplete :
    ((dPl 1).running = true ∧ ((dPl 1).pch 0).pend = [{ value := some 5, stamp := 1000, cause := 0 }] ∧ (dPl 1).plg.en = true ∧
      (dPl 1).plg.swap = none ∧ chEn ((dPl 1).pch 0).cfg = true ∧ chEn ((dPl 0).pch 0).cfg = false) ∧
    (let d := setNow { d0 with plg := { d0.plg with swap := some sw } } 10000000
     d.running = true ∧ d.plg.swap = some sw ∧ sw.at_ + 10000000 ≤ d.now) ∧
    (let d := dSw1
     let e := d.grantFor 0
     let x := (e.desc? 0).getD dx
     let n := 320
     let b := e.rd x (x.w.dw 6) (x.w.dw 7).toNat n
     d.running = true ∧ d.plg.swap = none ∧ d.plg.waiting = [0] ∧ e.desc? 0 = some x ∧ bitOf (x.w.dw 8) 0 = false ∧ e.tokens 0 = (none, true) ∧
       (e.eccDecodeReads x [(x.w.dw 6, (x.w.dw 7).toNat, n)]) = (e, 0, false) ∧ imageOk b false = true) := by
  refine ⟨?_, ?_, ?_⟩ <;> decide +kernel
theorem wit_PloughStampsRise :
    (let d := d0.setPch 0 { d0.pch 0 with lastRec := some 10 }
     (d.pch 0).lastRec = some 10 ∧ 10 ≤ 10) ∧
    (let d := { d0 with plg := { d0.plg with logs := d0.plg.logs.setIfInBounds 0 { d0.plog 0 with live := true, sheet := 0x01000001 } },
                        sheets := [(1, sh)] }
     ((d.plgRecord 0 5 1 false false false false).plog (0 / 8)).count ≠ (d.plog (0 / 8)).count) := by
  refine ⟨?_, ?_⟩ <;> decide +kernel

/-- The record of a descriptor accepted from context 0. -/
def acc (d : Dev) (w : DescWords) : Desc := ((d.taken 0 w).1.desc? (d.taken 0 w).2).getD dx
/-- Contexts 0 and 1 OPEN, context 5 CLOSED, both functions’ requests on, quotas of 1 MiB, sheets 1 to 4 SET: of T1, T2, host and T1. -/
def dO : Dev :=
  { (dB.setCtx 0 cx).setCtx 1 cx with
    setup := [(0x3100, 0x100000), (0x3104, 0x100000)]
    sheets := [(1, sh), (2, { sh with tier := 1 }), (3, { sh with tier := 3, host := 0x100000, size := 65536 }), (4, { sh with tok := .empty, size := 65536 })] }
def bw_ : DescWords := dsc [(1, 0x200), (6, 0x100), (7, 0x0100), (8, 0x001000)]
def dG : Dev := dO.bindSlot bw_
def dOos : Dev := { dO with flt := { dO.flt with partOos := [0] } }
def ps : Nat → DescWords := fun n => dsc [(1, 0x9180), (6, 0x01400002), (7, 0x00010000 + n)]
def dCp (p : List Nat) : Dev := { dO with copies := [(0, { cp with home := 2, st := .present, pins := p })] }

theorem wit_ContextAndGatheringRowsComplete : dO.running = true ∧ dO.starts 0 ((dsc []).withOp 0x00) (acc dO ((dsc []).withOp 0x00)) ∧
    dO.starts 0 ((dsc [(6, 5)]).withOp 0x03) (acc dO ((dsc [(6, 5)]).withOp 0x03)) ∧
    dO.starts 0 ((dsc [(6, 0x101)]).withOp 0x04) (acc dO ((dsc [(6, 0x101)]).withOp 0x04)) ∧
    dO.starts 0 (bw_.withOp 0x01) (acc dO (bw_.withOp 0x01)) ∧
    dG.starts 0 ((dsc [(1, 0x020200)]).withOp 0x02) (acc dG ((dsc [(1, 0x020200)]).withOp 0x02)) := by
  unfold Machine.Dev.starts Machine.Dev.takes; decide +kernel
theorem wit_UnitEnableRow :
    (let w := (dsc [(1, 0x1000)]).withOp 0x06
     let d := { dO with disabled := [0] }
     (d.running = true ∧ d.starts 0 w (acc d w) ∧ uIdx w.target ∈ (d.taken 0 w).1.disabled) ∧
       (dO.starts 0 w (acc dO w) ∧ ¬ uIdx w.target ∈ (dO.taken 0 w).1.disabled) ∧
       (dOos.takes 0 ∧ unitPart (uIdx w.target) = some 0 ∧ dOos.partState 0 = 4 ∧ mayDisable w.target = true ∧ dOos.owner 0 = true ∧
         dOos.flt.devOos = false ∧ w.chain = false ∧ headForm w .ring = true ∧ w.zero 6 15 = true ∧ dOos.checkTarget w.target = none)) := by
  unfold Machine.Dev.starts Machine.Dev.takes; decide +kernel
theorem wit_UnitDisableAndRestoreRows :
    (let w := (dsc [(1, 0x1000)]).withOp 0x05
     let d := { dO with disabled := [0] }
     (dO.starts 0 w (acc dO w) ∧ ¬ uIdx w.target ∈ (dO.taken 0 w).1.disabled) ∧
       (d.starts 0 w (acc d w) ∧ uIdx w.target ∈ (d.taken 0 w).1.disabled ∧
         (d.taken 0 w).1.drains.filter (fun r => r.index == uIdx w.target) = []) ∧
       (let z := { dO with disabled := [0], drains := [{ owner := 9, index := 0, until_ := 0, waits := [], aborted := 0 }] }
        z.starts 0 w (acc z w) ∧ uIdx w.target ∈ (z.taken 0 w).1.disabled ∧
          (z.taken 0 w).1.drains.filter (fun r => r.index == uIdx w.target) ≠ [])) ∧
    (let w := (dsc [(1, 0xE170)]).withOp 0x7D
     (dO.starts 0 w (acc dO w) ∧ ¬ (uIdx w.target - 0x170) ∈ (dO.taken 0 w).1.flt.partOos) ∧
       (dOos.starts 0 w (acc dOos w) ∧ (uIdx w.target - 0x170) ∈ (dOos.taken 0 w).1.flt.partOos)) := by
  unfold Machine.Dev.starts Machine.Dev.takes; decide +kernel
theorem wit_SheetRowsComplete_simple :
    (let w := (dsc [(1, 0x9180), (7, 0x100), (8, 4096)]).withOp 0x08
     dO.starts 0 w (acc dO w)) ∧
    (let w := (dsc [(1, 0x9180), (6, 0x01000001)]).withOp 0x09
     dO.starts 0 w (acc dO w)) ∧
    (let w := (ps 1).withOp 0x0A
     dO.starts 0 w (acc dO w) ∧ (dO.taken 0 w).1.copyOf (shIdx (w.dw 6)) (w.f 7 2 1) = none) ∧
    (let w := (ps 0).withOp 0x0C
     dO.starts 0 w (acc dO w) ∧ (dO.taken 0 w).1.copyOf (shIdx (w.dw 6)) (w.f 7 2 1) = none) := by
  unfold Machine.Dev.starts Machine.Dev.takes; decide +kernel
theorem wit_SheetRowsComplete_copies :
    (let w := (ps 1).withOp 0x0A
     let d := dCp []
     let y := ((d.taken 0 w).1.copy? 0).getD cp
     d.starts 0 w (acc d w) ∧ (d.taken 0 w).1.copyOf (shIdx (w.dw 6)) (w.f 7 2 1) = some 0 ∧ (d.taken 0 w).1.copy? 0 = some y ∧
       (y.owner = some (w.f 7 13 8) ∨ y.hasRef (w.f 7 13 8) = true) ∧ bitOf (w.dw 7) 0 = true ∧ ¬ w.f 7 13 8 ∈ y.pins) ∧
    (let w := (ps 0).withOp 0x0A
     let d := dCp [0]
     let y := ((d.taken 0 w).1.copy? 0).getD cp
     d.starts 0 w (acc d w) ∧ (d.taken 0 w).1.copyOf (shIdx (w.dw 6)) (w.f 7 2 1) = some 0 ∧ (d.taken 0 w).1.copy? 0 = some y ∧
       (y.owner = some (w.f 7 13 8) ∨ y.hasRef (w.f 7 13 8) = true) ∧ bitOf (w.dw 7) 0 = false ∧ w.f 7 13 8 ∈ y.pins) ∧
    (let w := (ps 0).withOp 0x0C
     let d := dCp []
     let y := ((d.taken 0 w).1.copy? 0).getD cp
     d.starts 0 w (acc d w) ∧ (d.taken 0 w).1.copyOf (shIdx (w.dw 6)) (w.f 7 2 1) = some 0 ∧ (d.taken 0 w).1.copy? 0 = some y ∧
       y.st = .present ∧ (y.owner = some (w.f 7 13 8) ∨ y.hasRef (w.f 7 13 8) = true)) := by
  unfold Machine.Dev.starts Machine.Dev.takes; decide +kernel
theorem wit_SheetRowsComplete_movers :
    (let w := (dsc [(1, 0x9180), (6, 0x01000001), (7, 0x01000004)]).withOp 0x0B
     let e := (dO.taken 0 w).1.grantFor (acc dO w).id
     dO.holds 0 w (acc dO w) ∧ w.dw 7 ≠ 0 ∧ (e.mover (moverOf w.target)).jobs = [] ∧ (e.mover (moverOf w.target)).resetAt = none ∧
       e.stalled (shIdx (w.dw 6)) = false ∧ e.stalled (shIdx (w.dw 7)) = false) ∧
    (let w := (dsc [(1, 0x9180), (6, 0x01400002), (9, 0x0100)]).withOp 0x0B
     dO.holds 0 w (acc dO w) ∧ w.dw 7 = 0) ∧
    (let w := (dsc [(1, 0x9180), (6, 9), (7, 0x01000001), (10, 4)]).withOp 0x7C
     dO.holds 0 w (acc dO w) ∧ bitOf (w.dw 6) 3 = true) ∧
    (let w := (dsc [(1, 0x9180), (6, 1), (7, 0x01000001), (10, 4)]).withOp 0x7C
     let e := (dO.taken 0 w).1.grantFor (acc dO w).id
     dO.holds 0 w (acc dO w) ∧ e.crcFree = some 6 ∧ (e.mover (moverOf w.target)).jobs = [] ∧ (e.mover (moverOf w.target)).resetAt = none ∧
       e.descs.any (fun y => y.asksCrc && (e.crcUnit y.id).isNone) = false ∧ bitOf (w.dw 6) 3 = false ∧ bitOf (w.dw 6) 4 = false ∧
       crcOf (w.f 6 2 0) (e.rd (acc dO w) (w.dw 7) (w.q 8) (w.q 10)) ≠ w.dw 12) ∧
    (let w := (dsc [(1, 0x9180), (6, 1), (7, 0x01000001), (10, 4)]).withOp 0x7C
     let d := { dO with flt := { dO.flt with crcBusy := (List.range 10).map (fun k => (6 + k, 100 + k)) } }
     d.holds 0 w (acc d w) ∧ ((d.taken 0 w).1.grantFor (acc d w).id).crcFree = none) := by
  unfold Machine.Dev.holds Machine.Dev.starts Machine.Dev.takes
  refine ⟨?_, ?_, ?_, ?_, ?_⟩ <;> decide +kernel

/-- A plan image of one stage, a NOP, in sheet 1; a mirrored plan armed in slot 1 and the pair in step. -/
def dArm : Dev :=
  { dO with sheets := (1, { sh with cells := Mem.write [] 0 (leWords ([0x504C4E31, 0, 1, 1, 64] ++ List.replicate 11 0 ++ [0x10000])) }) :: dO.sheets.drop 1 }
def dMir : Dev := { dO with plans := [(1, { pl with mirrored := true })], mir := { dO.mir with state := 1 } }
def st (d : Dev) (op : Nat) (l : List (Nat × Nat)) : Prop := d.starts 0 ((dsc l).withOp op) (acc d ((dsc l).withOp op))

theorem wit_PlanAndTimebaseRowsComplete :
    st dO 0x10 [(1, hTimebase)] ∧ (st dO 0x11 [(1, hTimebase), (6, 100000)] ∧ bitOf ((dsc [(1, hTimebase), (6, 100000)]).dw 8) 0 = false) ∧
    (st { dO with setup := [(0x8000, 2)] } 0x11 [(1, hTimebase), (6, 1000000000), (8, 1)] ∧
      bitOf ((dsc [(1, hTimebase), (6, 1000000000), (8, 1)]).dw 8) 0 = true) ∧
    st dO 0x14 [(1, hPlough), (6, 0x01000001)] ∧
    st dArm 0x70 [(0, 0x800), (1, hTimebase), (7, 0x01000001), (9, 5000), (10, 1000000), (14, 0x01C00003), (15, 1)] ∧
    (st dO 0x71 [(1, hTimebase)] ∧ Tab.get? (dO.taken 0 ((dsc [(1, hTimebase)]).withOp 0x71)).1.plans 0 = none) ∧
    (st { dO with plans := [(0, pl)] } 0x71 [(1, hTimebase)] ∧
      Tab.get? (({ dO with plans := [(0, pl)] } : Dev).taken 0 ((dsc [(1, hTimebase)]).withOp 0x71)).1.plans 0 = some pl) ∧
    st dO 0x78 [(1, 0xC18A), (6, 1), (7, 0x01000001)] ∧
    (st dMir 0x79 [(1, 0xC18A), (6, 0x11)] ∧ (dsc [(1, 0xC18A), (6, 0x11)]).f 6 5 4 = 1) ∧
    (st dMir 0x79 [(1, 0xC18A), (6, 0x21)] ∧ (dsc [(1, 0xC18A), (6, 0x21)]).f 6 5 4 = 2 ∧
      (dMir.taken 0 ((dsc [(1, 0xC18A), (6, 0x21)]).withOp 0x79)).1.mplan 1 ≠ none ∧
      ((dMir.taken 0 ((dsc [(1, 0xC18A), (6, 0x21)]).withOp 0x79)).1.mslot 1).sync ≠ .unpaired) ∧
    (let d := dMir.modSlot 1 (fun m => { m with sync := .unpaired })
     st d 0x79 [(1, 0xC18A), (6, 0x21)] ∧ (d.taken 0 ((dsc [(1, 0xC18A), (6, 0x21)]).withOp 0x79)).1.mplan 1 ≠ none ∧
       ((d.taken 0 ((dsc [(1, 0xC18A), (6, 0x21)]).withOp 0x79)).1.mslot 1).sync = .unpaired) := by
  unfold st Machine.Dev.starts Machine.Dev.takes
  refine ⟨?_, ?_, ?_, ?_, ?_, ?_, ?_, ?_, ?_, ?_, ?_⟩ <;> decide +kernel

/-- A firmware image that lacks only what the vendor signs: MAGIC, version, SVN 3, all variants, no payload. -/
def fwCells : Mem := Mem.write [] 0 (leWords [0x4A465731, 1, 3, 7])
def fw : Bytes := Mem.read fwCells 0 5517
/-- The verifier takes the image. -/
def fwSigned : Prop := Config.mldsaVerify (bslice fw 256 1952) (fwMeas fw) (asciiOf "JGR-FW") (bslice fw (256 + 1952) 3309) = true
theorem fw_good (h : fwSigned) (v : Variant) (w : Vault) (hr : w.rootKey = sha3 (bslice fw 256 1952)) (hb : w.rollback = 0) :
    fwBad w v fw = none := by
  have e1 : bnat fw 16 4 = 0 := by decide +kernel
  have e2 : fw.length = 5517 := Mem.read_length _ _ _
  have e3 : bw fw 0 = 0x4A465731 := by decide +kernel
  have e4 : bw fw 1 = 1 := by decide +kernel
  have e5 : bw fw 3 = 7 := by decide +kernel
  have e6 : zeroWords fw (upTo 5 8 ++ upTo 16 64) = true := by decide +kernel
  have e9 : bitOf (7#32) v.fwBit = true := by cases v <;> decide
  unfold fwSigned at h
  simp [fwBad, fwBytes, e1, e2, e3, e4, e5, e6, e9, h, hr, hb, bits]
/-- An owner record that lacks only the owner’s signature: MAGIC, SVN 1; its signer is the new key. -/
def owCells : Mem := Mem.write [] 0 (leWords [0x4F574E31, 1])
def ow : Bytes := Mem.read owCells 0 5300
def owSigned : Prop :=
  Config.mldsaVerify (bslice ow 1568 1312) (sha3 (ow.take 2880)) (asciiOf "JGR-OWN") (bslice ow 2880 2420) = true
theorem ow_good (h : owSigned) (w : Vault) (e7 : w.installed = none) (e8 : w.ownerKey = none ∧ w.openClaim = true) :
    ownerBad w ow = none := by
  have e2 : ow.length = 5300 := Mem.read_length _ _ _
  have e3 : bw ow 0 = 0x4F574E31 := by decide +kernel
  have e4 : bslice ow 1568 1312 = bslice ow 256 1312 := by decide +kernel
  have e5 : bw ow 3 = 0 := by decide +kernel
  have e6 : zeroWords ow (upTo 4 8 ++ upTo 16 64) = true := by decide +kernel
  unfold owSigned at h
  rw [e4] at h
  simp [ownerBad, e2, e3, e4, e5, e6, e7, e8.1, e8.2, h, bits]

/-- Sheet 1 holds an image of 8 KiB, flash slot A the good one; sheet 4 is empty and large. -/
def dSec (c : Mem) : Dev :=
  { dO with
    vault := { dO.vault with rootKey := sha3 (bslice fw 256 1952), flashA := fw }
    sheets := (1, { sh with size := 8192, cells := c }) :: dO.sheets.drop 1 }
/-- SEC_INSTALL from sheet 1. -/
def iw (a n : Nat) : DescWords :=
  ((dsc (if n = 0 then [] else [(7, 0x01000001), (10, n)])).withOp 0x7F).withField 3 a
def heldAt (d : Dev) (w : DescWords) : Dev := (d.taken 0 w).1.grantFor (acc d w).id
/-- What the installation reads of sheet 1. -/
def img (c : Mem) (a n : Nat) : Bytes := (heldAt (dSec c) (iw a n)).rd (acc (dSec c) (iw a n)) 0x01000001 0 n

theorem rd_plain (d : Dev) (x : Desc) (h : DW) (off n : Nat) (h1 : x.copies = []) (h2 : (d.sheet (shIdx h)).synd = []) (h3 : d.maps = [])
    (h4 : (d.sheet (shIdx h)).tier = 0) : d.rd x h off n = Mem.read (d.sheet (shIdx h)).cells off n := by
  simp [Machine.Dev.rd, Machine.Dev.viewSynd, Machine.Dev.viaCopy, Machine.Dev.view, Machine.Dev.rawRead, Machine.Dev.regionOf, eccFix, h1, h2, h3, h4]
theorem img_fw : img fwCells 0 5517 = fw := by
  unfold img
  rw [rd_plain _ _ _ _ _ (by decide +kernel) (by decide +kernel) (by decide +kernel) (by decide +kernel)]
  have e : ((heldAt (dSec fwCells) (iw 0 5517)).sheet (shIdx 0x01000001)).cells = fwCells := by decide +kernel
  rw [e]; rfl
theorem key_fw : (heldAt (dSec fwCells) (iw 0 5517)).vault.rootKey = sha3 (bslice fw 256 1952) := by rfl

theorem wit_SecurityRowsComplete_quote :
    dO.holds 0 ((dsc [(7, 0x01000001), (8, 0x01000004)]).withOp 0x7A) (acc dO ((dsc [(7, 0x01000001), (8, 0x01000004)]).withOp 0x7A)) := by
  unfold Machine.Dev.holds Machine.Dev.starts Machine.Dev.takes; decide +kernel
theorem wit_SecurityRowsComplete_stage :
    (dSec []).holds 0 (iw 0 4096) (acc (dSec []) (iw 0 4096)) ∧ (heldAt (dSec []) (iw 0 4096)).sec.staging = none ∧
      ((heldAt (dSec []) (iw 0 4096)).eccDecodeReads (acc (dSec []) (iw 0 4096)) [(0x01000001, 0, 4096)]).2.2 = false ∧
      fwBad (heldAt (dSec []) (iw 0 4096)).vault .bl6480 (img [] 0 4096) = some 0 := by
  unfold Machine.Dev.holds Machine.Dev.starts Machine.Dev.takes; decide +kernel
theorem wit_SecurityRowsComplete_stage_good (h : fwSigned) :
    (dSec fwCells).holds 0 (iw 0 5517) (acc (dSec fwCells) (iw 0 5517)) ∧ (heldAt (dSec fwCells) (iw 0 5517)).sec.staging = none ∧
      ((heldAt (dSec fwCells) (iw 0 5517)).eccDecodeReads (acc (dSec fwCells) (iw 0 5517)) [(0x01000001, 0, 5517)]).2.2 = false ∧
      fwBad (heldAt (dSec fwCells) (iw 0 5517)).vault .bl6480 (img fwCells 0 5517) = none := by
  refine ⟨by unfold Machine.Dev.holds Machine.Dev.starts Machine.Dev.takes; decide +kernel, by decide +kernel, by decide +kernel, ?_⟩
  rw [img_fw]; exact fw_good h _ _ key_fw (by decide +kernel)
theorem wit_SecurityRowsComplete_activate (h : fwSigned) :
    (dSec []).holds 0 (iw 1 0) (acc (dSec []) (iw 1 0)) ∧ fwBad (heldAt (dSec []) (iw 1 0)).vault .bl6480 fw = none ∧
      (heldAt (dSec []) (iw 1 0)).vault.slot false = fw ∧
      dO.holds 0 (iw 1 0) (acc dO (iw 1 0)) ∧ fwBad (heldAt dO (iw 1 0)).vault .bl6480 ((heldAt dO (iw 1 0)).vault.slot false) ≠ none := by
  refine ⟨by unfold Machine.Dev.holds Machine.Dev.starts Machine.Dev.takes; decide +kernel,
    fw_good h _ _ (by rfl) (by decide +kernel), by rfl,
    by unfold Machine.Dev.holds Machine.Dev.starts Machine.Dev.takes; decide +kernel, by decide +kernel⟩
theorem wit_SecurityRowsComplete_svn : dO.holds 0 (iw 2 0) (acc dO (iw 2 0)) := by
  unfold Machine.Dev.holds Machine.Dev.starts Machine.Dev.takes; decide +kernel
theorem wit_SecurityRowsComplete_owner :
    (dSec []).holds 0 (iw 3 4096) (acc (dSec []) (iw 3 4096)) ∧ ownerBad (heldAt (dSec []) (iw 3 4096)).vault (img [] 3 4096) = some 0 := by
  unfold Machine.Dev.holds Machine.Dev.starts Machine.Dev.takes; decide +kernel
theorem img_ow : img owCells 3 5300 = ow := by
  unfold img
  rw [rd_plain _ _ _ _ _ (by decide +kernel) (by decide +kernel) (by decide +kernel) (by decide +kernel)]
  have e : ((heldAt (dSec owCells) (iw 3 5300)).sheet (shIdx 0x01000001)).cells = owCells := by decide +kernel
  rw [e]; rfl
theorem wit_SecurityRowsComplete_owner_good (h : owSigned) :
    (dSec owCells).holds 0 (iw 3 5300) (acc (dSec owCells) (iw 3 5300)) ∧
      ownerBad (heldAt (dSec owCells) (iw 3 5300)).vault (img owCells 3 5300) = none := by
  refine ⟨by unfold Machine.Dev.holds Machine.Dev.starts Machine.Dev.takes; decide +kernel, ?_⟩
  rw [img_ow]; exact ow_good h _ (by decide +kernel) (by decide +kernel)

/-- A plan armed in slot 0. -/
def dPn (p : Plan) : Dev := { d1 with plans := [(0, p)] }
/-- A solve on a press leaf, past its DEADLINE. -/
def dSol : Dev := setNow (dD { dx with w := dsc [(0, 0x53), (4, 1000)], phase := .dispatched }) 1000

theorem wit_PlanEventsComplete :
    ((dPn pl).running = true ∧ Tab.get? (dPn pl).plans 0 = some pl ∧ (dPn pl).mayFire 0 = some 0 ∧ (dPn pl).schedLate pl = false ∧
      (List.range 16).all (fun k => ((dPn pl).mayFire k).all (fun u => decide (0 < u ∨ (0 = u ∧ 0 ≤ k)))) = true) ∧
    (let d := { dPn pl with plans := [(0, pl), (1, pl)] }
     Tab.get? d.plans 1 = some pl ∧ d.mayFire 1 = some 0 ∧ d.mayFire 0 = some 0) ∧ d1.mayFire 0 = none ∧
    (let p := { pl with running := true }
     Tab.get? (dPn p).plans 0 = some p ∧ p.running = true ∧ p.stages.length ≤ p.recs.length) ∧
    (let p := { pl with mirrored := true, next := 1 }
     let d := setNow (dPn p) 1000000
     Tab.get? d.plans 0 = some p ∧ d.mayFire 0 = some 1000000 ∧ d.schedLate p = true ∧
       (List.range 16).all (fun k => (d.mayFire k).all (fun u => decide (1000000 < u ∨ (1000000 = u ∧ 0 ≤ k)))) = true) ∧
    (let p := { pl with mirrored := true }
     let d := (dPn p).modSlot 0 (fun m => { m with unsent := some (3, false) })
     d.mplan 0 = some p ∧ (d.mslot 0).unsent = some (3, false) ∧ d.mirUp = false ∧ { d with mir := { d.mir with state := 1 } }.mirUp = true) ∧
    (let x := { dx with w := dsc [(0, 0x53), (4, 1000)], phase := .dispatched }
     dSol.running = true ∧ dSol.desc? 7 = some x ∧ x.w.opc = 0x53 ∧ x.w.deadline ≠ 0 ∧ tbReached dSol.now x.w.deadline = true ∧ x.cutAt = none) := by
  refine ⟨?_, ?_, ?_, ?_, ?_, ?_, ?_⟩ <;> decide +kernel

/-- Mirror port 0 enabled, its link in a state. -/
def dLn (l : Link) : Dev := ({ d1 with setup := [(0x14100, 1)] }).modLink 0 (fun _ => l)
/-- A link that is up; one that is paired. -/
def lUp : Link := { Link.reset with up := true }
def lPair : Link := { lUp with paired := true }
/-- A message of a type with a payload, the first on its queue pair. -/
def ms (type epoch : Nat) (pay : Bytes) : Bytes := mirHeader type 0 ((padTo 64 pay).length / 64) epoch [] ++ padTo 64 pay
def mOf (b : Bytes) : Msg := (Msg.parse b).getD { type := 0, seq := 0, len := 0, epoch := 0, ver := 0, dlo := [], pay := [] }

theorem parse_mOf (b : Bytes) (h : (Msg.parse b).isSome = true) : Msg.parse b = some (mOf b) := by
  unfold mOf; cases e : Msg.parse b with
  | none => simp [e] at h
  | some m => rfl
theorem delivers_of (d : Dev) (p q t : Nat) (b : Bytes) (ok : Bool) (h : (Msg.parse b).isSome = true)
    (g : d.mirOn p = true ∧ (d.link p).up = true ∧ (mOf b).type = t ∧ ((d.link p).paired = true ∨ t = 0x01 ∨ t = 0x02) ∧
      ((d.link p).qps.getD q QPair.reset).err = false ∧ (mOf b).seq = ((d.link p).qps.getD q QPair.reset).rx ∧
      (mOf b).pay.length = 64 * (mOf b).len ∧ ok = true) : d.delivers p q t b (mOf b) ok :=
  ⟨g.1, g.2.1, parse_mOf b h, g.2.2⟩

/-- A ROLE as a partner would send it: side, the same COLOPHON and measurement, a CONFIG digest. -/
def roleHead (v : Nat) : Bytes := mirHeader 2 0 2 0 [] ++ leWords [dwN v, d1.colophon] ++ Digest.bytes d1.sec.meas
def role (v : Nat) (x : Digest) : Bytes := roleHead v ++ (Digest.bytes x ++ List.replicate 56 0)
theorem role_field (v : Nat) (x : Digest) (o n : Nat) (h : 32 + o + n ≤ (roleHead v).length) :
    bnat ((role v x).drop 32) o n = bnat (roleHead v) (32 + o) n := by
  simp only [bnat, role, List.drop_drop]
  rw [List.drop_append_of_le_length (by omega), List.take_append_of_le_length (by simp; omega)]

theorem wit_MirrorLinkEventsComplete_links :
    ((dLn Link.reset).running = true ∧ (dLn Link.reset).mirOn 0 = true ∧ ((dLn Link.reset).link 0).up = false) ∧ ((dLn lUp).link 0).up = true ∧
    (let d := setNow (dLn lUp) 100000000
     (d.link 0).up = true ∧ (d.link 0).paired = false ∧ (d.link 0).sentAt + 100000000 ≤ d.now) ∧
    (d0.mir.hbDue ≤ d0.now ∧ d0.flt.devOos = false) ∧
    (let d (h : Option Nat) : Dev := setNow { dLn lPair with mir := { (dLn lPair).mir with state := 1, upAt := some 0, lastHb := h } } 600000000
     let ok (h : Option Nat) : Prop := (d h).mir.state ≠ 3 ∧ (d h).mir.upAt = some 0 ∧ (d h).mir.lastHb = h ∧
       Nat.max 0 ((d h).mir.lastHb.getD 0) + (d h).regF 0x14000 8 0 * 1000000 ≤ (d h).now
     ok (some 5) ∧ ok none) ∧
    (let d := dLn { lUp with qps := lUp.qps.setIfInBounds 0 { QPair.reset with err := true } }
     (d.link 0).up = true ∧ ((d.link 0).qps.getD 0 QPair.reset).err = true ∧ ((dLn Link.reset).link 0).up = false) := by
  refine ⟨?_, ?_, ?_, ?_, ?_, ?_⟩ <;> decide +kernel
/-- What the role message says, as MIR_ROLE_RX reads it. -/
def roleOf (b : Bytes) : PeerRole :=
  let p := (mOf b).pay
  let dg (k : Nat) : Digest := BitVec.ofNat 256 (bnat p (4 * k) 32)
  { verso := bitOf (bw p 0) 0, colophon := bw p 1, meas := dg 2, config := dg 10, ident := dg 18, rkey := bw p 26,
    base := BitVec.ofNat 64 (bnat p 108 8), bytes := bw p 29 }
theorem leNat_toLe (v n : Nat) : leNat (toLe v n) = v % 256 ^ n := by
  induction n generalizing v with
  | zero => simp [toLe, leNat, Nat.mod_one]
  | succ n ih =>
    rw [Nat.pow_succ, Nat.mul_comm, Nat.mod_mul]
    simp [toLe, leNat, ih, BitVec.toNat_ofNat]
theorem role_config (v : Nat) (x : Digest) : (roleOf (role v x)).config = x := by
  have e : bnat (mOf (role v x)).pay 40 32 = leNat (toLe x.toNat 32) := by rfl
  have h := x.isLt
  show BitVec.ofNat 256 (bnat (mOf (role v x)).pay 40 32) = x
  rw [e, leNat_toLe]
  apply BitVec.eq_of_toNat_eq
  simp only [BitVec.toNat_ofNat]
  omega
theorem wit_MirrorLinkEventsComplete_role_bad :
    (dLn lUp).delivers 0 0 0x02 (role 0 0) (mOf (role 0 0)) ((mOf (role 0 0)).len == 2) ∧
      ((dLn lUp).received 0 0).roleReason 0 (mOf (role 0 0)).ver (roleOf (role 0 0)) ≠ 0 :=
  ⟨delivers_of _ _ _ _ _ _ (by decide +kernel) (by decide +kernel), by decide +kernel⟩
/-- The device with that role taken on link 0. -/
def dRole (x : Digest) : Dev :=
  (((dLn lUp).received 0 0).modLink 0 (fun l => { l with peer := some (roleOf (role 1 x)), reason := 0, paired := true })).clearSeen
theorem config_eq (d e : Dev) (h1 : d.setup = e.setup) (h2 : d.board = e.board) : d.configDigest = e.configDigest := by
  have h : d.reg = e.reg := by funext o; simp [Machine.Dev.reg, h1, h2]
  simp only [Machine.Dev.configDigest, h, h2]
theorem role_up (x : Digest) : (dRole x).tryUp = (dRole x).pairUp := by
  have h : (!(dRole x).mirUp && !(dRole x).pairedLinks.isEmpty &&
    (match (dRole x).mir.lostAt, (dRole x).mir.lastHb with
      | some l, some h => decide (l < h)
      | some _, none => false
      | none, _ => true)) = true := by rfl
  rw [Machine.Dev.tryUp]; exact if_pos h
theorem role_keeps (x : Digest) : (dRole x).pairUp.setup = (dLn lUp).setup ∧ (dRole x).pairUp.board = (dLn lUp).board ∧
    (dRole x).pairUp.mir.configDiff = false := by
  have h1 : (dRole x).plans = [] := by rfl
  have h2 : (dRole x).setup = (dLn lUp).setup := by rfl
  have h3 : (dRole x).board = (dLn lUp).board := by rfl
  have h4 : (dRole x).mir.configDiff = false := by rfl
  simp [Machine.Dev.pairUp, Machine.Dev.mirSlots, h1, h2, h3, h4]
theorem config_step (c : Digest) : c + 1 ≠ c := by simp
theorem wit_MirrorLinkEventsComplete_role_good (x : Digest) :
    (dLn lUp).delivers 0 0 0x02 (role 1 x) (mOf (role 1 x)) ((mOf (role 1 x)).len == 2) ∧
      ((dLn lUp).received 0 0).roleReason 0 (mOf (role 1 x)).ver (roleOf (role 1 x)) = 0 ∧
      (((dLn lUp).received 0 0).link 0).paired = false ∧ (roleOf (role 1 x)).config = x ∧
      (dRole x).mirUp = false ∧ (dRole x).pairedLinks ≠ [] ∧ (dRole x).mir.lostAt = none ∧ (dRole x).tryUp.mir.configDiff = false ∧
      (dRole x).pairUp.configDigest = (dLn lUp).configDigest ∧ (dRole x).tryUp.configDigest = (dLn lUp).configDigest := by
  refine ⟨delivers_of _ _ _ _ _ _ rfl ⟨by decide +kernel, by decide +kernel, by rfl, .inr (.inr rfl), by decide +kernel, by rfl, by rfl, by rfl⟩,
    ?_, by decide +kernel, role_config 1 x, by rfl, (fun h => by cases h), by rfl, by rw [role_up]; exact (role_keeps x).2.2,
    config_eq _ _ (role_keeps x).1 (role_keeps x).2.1, by rw [role_up]; exact config_eq _ _ (role_keeps x).1 (role_keeps x).2.1⟩
  have hl : (roleHead 1).length = 72 := by decide +kernel
  have e1 : (roleOf (role 1 x)).verso = true := by
    show bitOf (BitVec.ofNat 32 (bnat ((role 1 x).drop 32) 0 4)) 0 = true
    rw [role_field _ _ _ _ (by omega)]; decide +kernel
  have e2 : (roleOf (role 1 x)).colophon = d1.colophon := by
    show BitVec.ofNat 32 (bnat ((role 1 x).drop 32) 4 4) = d1.colophon
    rw [role_field _ _ _ _ (by omega)]; decide +kernel
  have e3 : (roleOf (role 1 x)).meas = d1.sec.meas := by
    show BitVec.ofNat 256 (bnat ((role 1 x).drop 32) 8 32) = d1.sec.meas
    rw [role_field _ _ _ _ (by omega)]; decide +kernel
  have e4 : (mOf (role 1 x)).ver = 1 := by rfl
  have f1 : ((dLn lUp).received 0 0).mir.verso = false := by decide +kernel
  have f2 : ((dLn lUp).received 0 0).colophon = d1.colophon := by decide +kernel
  have f3 : ((dLn lUp).received 0 0).sec.meas = d1.sec.meas := by decide +kernel
  have f4 : (((dLn lUp).received 0 0).link 1).up = false := by decide +kernel
  simp [Machine.Dev.roleReason, e1, e2, e3, e4, f1, f2, f3, f4]
theorem wit_MirrorLinkEventsComplete_heartbeat :
    let b := ms 0x01 0 [3]
    (dLn lUp).delivers 0 0 0x01 b (mOf b) ((mOf b).len == 1) :=
  delivers_of _ _ _ _ _ _ (by decide +kernel) (by decide +kernel)

/-- The pair up over link 0, a mirrored plan in slot 0, the partner’s plan known or not. -/
def dS (known : Bool) : Dev :=
  ({ dLn lPair with plans := [(0, { pl with mirrored := true, next := 2 })], mir := { (dLn lPair).mir with state := 1 } }).modSlot 0 (fun m =>
    { m with peer := if known then some { armed := true, ctx := 0, gen := 1, ident := 0 } else none })
theorem hears_of (d : Dev) (t : Nat) (b : Bytes) (h : (Msg.parse b).isSome = true)
    (g : d.mirOn 0 = true ∧ (d.link 0).up = true ∧ (mOf b).type = t ∧ ((d.link 0).paired = true ∨ t = 0x01 ∨ t = 0x02) ∧
      ((d.link 0).qps.getD 0 QPair.reset).err = false ∧ (mOf b).seq = ((d.link 0).qps.getD 0 QPair.reset).rx ∧
      (mOf b).pay.length = 64 * (mOf b).len ∧ ((mOf b).len == 1) = true)
    (k : (d.received 0 0).pairedLinks.length = 1 ∧ d.mir.seen = []) : d.hears 0 t b (mOf b) :=
  ⟨delivers_of _ _ _ _ _ _ h g, k⟩
/-- A slot message of slot 0: the slot word, and a period number. -/
def sm (type epoch w : Nat) : Bytes := ms type epoch (toLe w 4)

theorem wit_MirrorSlotMessagesComplete_plan : (dS false).running = true ∧ (dS false).hears 0 0x03 (sm 3 0 0x10010) (mOf (sm 3 0 0x10010)) ∧
    (dS true).hears 0 0x03 (sm 3 0 0x10010) (mOf (sm 3 0 0x10010)) ∧ (dS false).hears 0 0x03 (sm 3 0 0x10011) (mOf (sm 3 0 0x10011)) :=
  ⟨by decide +kernel, hears_of _ _ _ (by decide +kernel) (by decide +kernel) (by decide +kernel),
    hears_of _ _ _ (by decide +kernel) (by decide +kernel) (by decide +kernel), hears_of _ _ _ (by decide +kernel) (by decide +kernel) (by decide +kernel)⟩
theorem wit_MirrorSlotMessagesComplete_plan_same :
    (let e := (dS true).received 0 0
     let m := mOf (sm 3 0 0x10010)
     m.slot = 0 ∧ (e.mslot 0).peer.map (fun o => (o.ctx, o.gen)) = some (bits (bw m.pay 0) 13 8, BitVec.ofNat 8 (bits (bw m.pay 0) 23 16))) ∧
    (let e := (dS false).received 0 0
     (e.mslot 0).peer = none ∧ (Tab.get? e.plans 0).isSome = true ∧ (mOf (sm 3 0 0x10011)).slot = 1 ∧ (e.mslot 1).peer = none ∧
       Tab.get? e.plans 1 = none) := by decide +kernel
theorem wit_MirrorSlotMessagesComplete_stale :
    (∀ t, (t = 4 ∨ t = 5 ∨ t = 7) → (dS false).hears 0 t (sm t 1 0x10000) (mOf (sm t 1 0x10000))) ∧
      (∀ t, (t = 4 ∨ t = 5 ∨ t = 7) → ((dS false).received 0 0).fromPeer (mOf (sm t 1 0x10000)).slot (bw (mOf (sm t 1 0x10000)).pay 0) = false) := by
  constructor <;> intro t h <;> obtain rfl | rfl | rfl := h
  · exact hears_of _ _ _ (by decide +kernel) (by decide +kernel) (by decide +kernel)
  · exact hears_of _ _ _ (by decide +kernel) (by decide +kernel) (by decide +kernel)
  · exact hears_of _ _ _ (by decide +kernel) (by decide +kernel) (by decide +kernel)
  all_goals decide +kernel
/-- What the clauses on a known partner ask of a message. -/
def knows (b : Bytes) : Prop :=
  ((dS true).received 0 0).fromPeer (mOf b).slot (bw (mOf b).pay 0) = true ∧
    ((dS true).received 0 0).mplan (mOf b).slot = some { pl with mirrored := true, next := 2 }
theorem wit_MirrorSlotMessagesComplete_known :
    ((dS true).hears 0 4 (sm 4 0 0x10000) (mOf (sm 4 0 0x10000)) ∧ knows (sm 4 0 0x10000) ∧ (mOf (sm 4 0 0x10000)).epoch.toNat + 1 < (0 : QW).toNat + 2) ∧
    ((dS true).hears 0 4 (sm 4 1 0x10000) (mOf (sm 4 1 0x10000)) ∧ knows (sm 4 1 0x10000) ∧ (0 : QW).toNat + 2 ≤ (mOf (sm 4 1 0x10000)).epoch.toNat + 1) ∧
    ((dS true).hears 0 5 (sm 5 1 0x10000) (mOf (sm 5 1 0x10000)) ∧ knows (sm 5 1 0x10000)) ∧
    ((dS true).hears 0 7 (sm 7 1 0x10050) (mOf (sm 7 1 0x10050)) ∧ knows (sm 7 1 0x10050) ∧ (((dS true).received 0 0).mslot 0).sync ≠ .unpaired ∧
      bitOf (bw (mOf (sm 7 1 0x10050)).pay 0) 6 = true ∧ (((dS true).received 0 0).mslot 0).bulk = none) := by
  unfold knows
  refine ⟨⟨hears_of _ _ _ ?_ ?_ ?_, ?_⟩, ⟨hears_of _ _ _ ?_ ?_ ?_, ?_⟩, ⟨hears_of _ _ _ ?_ ?_ ?_, ?_⟩, ⟨hears_of _ _ _ ?_ ?_ ?_, ?_⟩⟩ <;> decide +kernel
theorem wit_MirrorSlotMessagesComplete_second :
    let d := { dS true with mir := { (dS true).mir with seen := [(0x04, 1, 0 + 16 * (1 - 0))] } }
    d.delivers 0 0 0x04 (sm 4 1 0x10000) (mOf (sm 4 1 0x10000)) ((mOf (sm 4 1 0x10000)).len == 1) ∧
      (0x04, (mOf (sm 4 1 0x10000)).epoch, (mOf (sm 4 1 0x10000)).slot + 16 * (1 - 0)) ∈ (d.received 0 0).mir.seen :=
  ⟨delivers_of _ _ _ _ _ _ (by decide +kernel) (by decide +kernel), by decide +kernel⟩
/-- A DELTA without records: slot word, period, no count, a CRC. -/
def dl (crc : Nat) : Bytes := ms 0x20 0 (toLe 0x10000 4 ++ List.replicate 16 0 ++ toLe crc 4)
theorem wit_MirrorSlotMessagesComplete_delta :
    (∀ k, (dS k).delivers 0 2 0x20 (dl 0) (mOf (dl 0)) (decide (1 ≤ (mOf (dl 0)).len) && (mOf (dl 0)).len == 1 + cdiv (80 * (bw (mOf (dl 0)).pay 4).toNat) 64)) ∧
      ((dS false).received 0 2).fromPeer 0 (bw (mOf (dl 0)).pay 0) = false ∧ ((dS true).received 0 2).fromPeer 0 (bw (mOf (dl 0)).pay 0) = true ∧
      crc32c [] = bw (mOf (dl 0)).pay 5 ∧ (bw (mOf (dl 0)).pay 3).toNat = 0 ∧
      (dS true).delivers 0 2 0x20 (dl 1) (mOf (dl 1)) (decide (1 ≤ (mOf (dl 1)).len) && (mOf (dl 1)).len == 1 + cdiv (80 * (bw (mOf (dl 1)).pay 4).toNat) 64) ∧
      ((dS true).received 0 2).fromPeer 0 (bw (mOf (dl 1)).pay 0) = true ∧ crc32c [] ≠ bw (mOf (dl 1)).pay 5 := by
  refine ⟨fun k => ?_, by decide +kernel, by decide +kernel, by decide +kernel, by decide +kernel, ?_, by decide +kernel, by decide +kernel⟩
  · cases k <;> exact delivers_of _ _ _ _ _ _ (by decide +kernel) (by decide +kernel)
  · exact delivers_of _ _ _ _ _ _ (by decide +kernel) (by decide +kernel)
/-- A FILL of one line of sheet 1, for a period. -/
def fl (k : Nat) : Bytes := ms 0x30 k (DeltaRec.bytes { sheet := 0x01000001, stage := 0, offset := 0, data := List.replicate 64 0 })
/-- Slot 0 of the pair with that sheet tracked, in a state of its synchronisation. -/
def dFl (track run : Bool) (y : Sync) (f : Option (BitVec 64)) (fin : Bool) : Dev :=
  { ((dS true).modSlot 0 (fun m => { m with
      sync := y, adopt := true, tracked := if track then [0x01000001] else [], fillFor := f, fillEnd := fin })) with
    plans := [(0, { pl with mirrored := true, next := 2, running := run })] }
theorem wit_MirrorSlotMessagesComplete_fill :
    (∀ d ∈ [dFl false false .repair none false, dFl true false .repair none false, dFl true false .repair (some 5) false,
        dFl true false .repair (some 6) true, dFl true false .repair (some 5) true, dFl true false .bulk (some 5) true,
        dFl true true .bulk (some 5) true],
      d.delivers 0 3 0x30 (fl 5) (mOf (fl 5))
        (decide ((mOf (fl 5)).len ≤ 16384) && (mOf (fl 5)).len == cdiv (80 * (64 * (mOf (fl 5)).len / 80)) 64)) ∧
    (let rs := parseRecs (mOf (fl 5)).pay ((mOf (fl 5)).pay.length / 80)
     let g (d : Dev) : Dev := { d.received 0 3 with mir := { (d.received 0 3).mir with staging := Mem.write (d.received 0 3).mir.staging 0 (fl 5) } }
     let tk (d : Dev) : Option Nat := (List.range 16).find? ((g d).fillTakes rs)
     (mOf (fl 5)).epoch.toNat = 5 ∧ tk (dFl false false .repair none false) = none ∧
       (tk (dFl true false .repair none false) = some 0 ∧ ((g (dFl true false .repair none false)).mslot 0).fillFor = none) ∧
       (tk (dFl true false .repair (some 5) false) = some 0 ∧ ((g (dFl true false .repair (some 5) false)).mslot 0).fillEnd = false) ∧
       (tk (dFl true false .repair (some 6) true) = some 0 ∧ 5 < (6 : BitVec 64).toNat) ∧
       (tk (dFl true false .repair (some 5) true) = some 0 ∧ ((g (dFl true false .repair (some 5) true)).mslot 0).sync ≠ .bulk) ∧
       (tk (dFl true false .bulk (some 5) true) = some 0 ∧
         (((g (dFl true false .bulk (some 5) true)).mplan 0).map (fun q => q.running)).getD false = false) ∧
       (tk (dFl true true .bulk (some 5) true) = some 0 ∧
         (((g (dFl true true .bulk (some 5) true)).mplan 0).map (fun q => q.running)).getD false = true)) := by
  refine ⟨fun d h => ?_, by decide +kernel⟩
  simp only [List.mem_cons, List.not_mem_nil, or_false] at h
  rcases h with rfl | rfl | rfl | rfl | rfl | rfl | rfl <;> exact delivers_of _ _ _ _ _ _ (by decide +kernel) (by decide +kernel)
/-- A place past the staging window whatever its size; one in it where it is large enough. -/
theorem wit_MirrorSlotMessagesComplete_window (h : (fl 5).length ≤ Sys2Proof.Config.stagingBytes.toNat) :
    Sys2Proof.Config.stagingBytes.toNat < 64 * (0xFFFFFFFF : DW).toNat + (fl 5).length ∧
      64 * (0 : DW).toNat + (fl 5).length ≤ Sys2Proof.Config.stagingBytes.toNat := by
  refine ⟨?_, by simpa using h⟩
  have := Sys2Proof.Config.stagingBytes.isLt
  simp; omega

/-- A forwarded unit of 4 bytes of lidar 0x20 in one fragment. -/
def un (own crc : Nat) (total : Nat := 4) (off : Nat := 0) : Bytes :=
  ms 0x10 0 (toLe own 4 ++ toLe total 4 ++ toLe off 4 ++ toLe crc 4 ++ List.replicate 112 0 ++ [1, 2, 3, 4])
/-- The forwarded lidar enabled, room for it in the pool. -/
def dFw : Dev := { dLn lPair with setup := [(0x7200, 0x101), (0x14100, 1)] }
theorem wit_MirrorForwardAndRepairComplete_split :
    (let d := setNow { d0 with mir := { d0.mir with state := 1, fwd := [{ unit := 0, since := 0 }] } } 1000000000
     d.running = true ∧ d.mir.fwd = [{ unit := 0, since := 0 }] ∧ d.mir.state = 1 ∧ 0 + d.regF 0x14000 25 16 * 1000000 < d.now) ∧
    (let d := setNow { d0 with mir := { d0.mir with state := 2, quiet := some 0 } } 1000000000
     d.mir.quiet = some 0 ∧ d.mir.state = 2 ∧ 0 + 10 ^ 9 ≤ d.now) ∧
    ((dS true).hears 0 6 (ms 6 0 [1]) (mOf (ms 6 0 [1])) ∧ bitOf (bw (mOf (ms 6 0 [1])).pay 0) 0 = true ∧ ((dS true).received 0 0).mir.state = 1) ∧
    (let d := { dS true with mir := { (dS true).mir with state := 2 } }
     d.hears 0 6 (ms 6 0 [2]) (mOf (ms 6 0 [2])) ∧ bitOf (bw (mOf (ms 6 0 [2])).pay 0) 0 = false ∧ (d.received 0 0).mir.state = 2) := by
  refine ⟨by decide +kernel, by decide +kernel, ⟨hears_of _ _ _ ?_ ?_ ?_, ?_⟩, ⟨hears_of _ _ _ ?_ ?_ ?_, ?_⟩⟩ <;> decide +kernel
/-- The data and the fragment test of MIR_UNIT_RX on a message. -/
def unN (m : Msg) : Nat := Nat.min (64 * m.len - 128) ((bw m.pay 1).toNat - (bw m.pay 2).toNat)
def unOk (m : Msg) : Bool := decide (2 ≤ m.len ∧ m.len ≤ 16384) && m.len == 2 + cdiv (unN m) 64
/-- Such a fragment is delivered. -/
def unIn (d : Dev) (b : Bytes) : Prop := d.delivers 0 1 0x10 b (mOf b) (unOk (mOf b))
/-- The landing that a first fragment opens. -/
def unG (d : Dev) (b : Bytes) : Dev := (d.received 0 1).openRx (bits (bw (mOf b).pay 0) 7 0) (bw (mOf b).pay 1).toNat (bslice (mOf b).pay 64 64)
def unU (d : Dev) (b : Bytes) : RxUnit :=
  (Tab.get? (unG d b).mir.rx 0x20).getD { sensor := 0, record := [], total := 0, data := [], dropped := false, sheet := 0, off := 0 }
/-- What the clauses on an opened landing ask of a fragment of lidar 0x20. -/
def unHit (d : Dev) (b : Bytes) (dropped : Bool) : Prop :=
  bits (bw (mOf b).pay 0) 7 0 = 0x20 ∧ (d.received 0 1).snsOn (0x20 + 128) = true ∧ (bw (mOf b).pay 2).toNat = 0 ∧
    Tab.get? (unG d b).mir.rx 0x20 = some (unU d b) ∧ (unU d b).data = [] ∧ (unU d b).total = (bw (mOf b).pay 1).toNat ∧
    (unU d b).dropped = dropped
def unData (b : Bytes) : Bytes := ((mOf b).pay.drop 128).take (unN (mOf b))
/-- The slot of its next unit still held. -/
def dFwFull : Dev := { dFw with sns := { dFw.sns with units := [(0, { lu 1 with sensor := 0xA0 })] } }

theorem wit_MirrorForwardAndRepairComplete_unit :
    (unIn dFw (un 0x60 0) ∧ ownSensor (bits (bw (mOf (un 0x60 0)).pay 0) 7 0) = false) ∧
    (unIn dFw (un 0x21 0) ∧ ownSensor 0x21 = true ∧ (dFw.received 0 1).snsOn (0x21 + 128) = false ∧ (bw (mOf (un 0x21 0)).pay 2).toNat = 0) ∧
    (unIn dFw (un 0x21 0 8 4) ∧ (bw (mOf (un 0x21 0 8 4)).pay 2).toNat ≠ 0 ∧ Tab.get? (dFw.received 0 1).mir.rx 0x21 = none) := by
  refine ⟨⟨delivers_of _ _ _ _ _ _ ?_ ?_, ?_⟩, ⟨delivers_of _ _ _ _ _ _ ?_ ?_, ?_⟩, ⟨delivers_of _ _ _ _ _ _ ?_ ?_, ?_⟩⟩ <;> decide +kernel
theorem wit_MirrorForwardAndRepairComplete_landing :
    (let b := un 0x20 691047668
     unIn dFw b ∧ unHit dFw b false ∧ crc32c (unData b) = bw (mOf b).pay 3 ∧ (unData b).length = (bw (mOf b).pay 1).toNat) ∧
    (let b := un 0x20 691047668
     unIn dFwFull b ∧ unHit dFwFull b true) ∧
    (let b := un 0x20 (crc32c ([1, 2, 3, 4] ++ List.replicate 60 0)).toNat 200
     unIn dFw b ∧ unHit dFw b false ∧ crc32c (unData b) = bw (mOf b).pay 3 ∧ (unData b).length < (bw (mOf b).pay 1).toNat) ∧
    (let b := un 0x20 1
     unIn dFw b ∧ unHit dFw b false ∧ crc32c (unData b) ≠ bw (mOf b).pay 3) := by
  unfold unHit
  refine ⟨⟨delivers_of _ _ _ _ _ _ ?_ ?_, ?_⟩, ⟨delivers_of _ _ _ _ _ _ ?_ ?_, ?_⟩, ⟨delivers_of _ _ _ _ _ _ ?_ ?_, ?_⟩,
    ⟨delivers_of _ _ _ _ _ _ ?_ ?_, ?_⟩⟩ <;> decide +kernel
theorem wit_MirrorForwardAndRepairComplete_plough :
    let b := ms 0x11 0 (toLe 0 4 ++ toLe 1 4 ++ List.replicate 72 0)
    (dS true).delivers 0 1 0x11 b (mOf b) (decide (1 ≤ (mOf b).len) && (mOf b).len == 1 + cdiv (16 * (bw (mOf b).pay 1).toNat) 64) :=
  delivers_of _ _ _ _ _ _ (by decide +kernel) (by decide +kernel)
/-- A slot in repair past its bound, its plan in a state; a slot in bulk resync whose partner has sent its lines. -/
def dRep (p : Plan) : Dev :=
  setNow ({ (dS true).modSlot 0 (fun m => { m with sync := .repair }) with plans := [(0, p)] }) 1000000000
def mp : Plan := { pl with mirrored := true, next := 2 }
def dBulk : Dev :=
  (dS true).modSlot 0 (fun m => { m with
    sync := .bulk, bulk := some { since := 1, done := none, pos := 0, lines := 0, doneSending := false, owner := none, overridden := false }, fillFor := some 1, fillEnd := true })
theorem wit_MirrorForwardAndRepairComplete_repair :
    (let ok (p : Plan) : Prop := (dRep p).running = true ∧ (dRep p).mplan 0 = some p ∧ p.running = false ∧ (dRep p).syncReady 0 = false ∧
       p.readyAt + (dRep p).regF 0x14008 15 0 * 1000 ≤ (dRep p).now ∧ Tab.get? ((dRep p).repairExpire 0).plans 0 = some p
     let e (p : Plan) : Dev := (dRep p).repairExpire 0
     (ok { mp with ctx := 1 } ∧ (e { mp with ctx := 1 }).firingTurn 0 = false) ∧
       (ok { mp with peer := [(1, 5)] } ∧ (e { mp with peer := [(1, 5)] }).firingTurn 0 = true) ∧ (ok mp ∧ (e mp).firingTurn 0 = true)) ∧
    (let m := dBulk.mslot 0
     dBulk.running = true ∧ dBulk.mplan 0 = some mp ∧ m.bulk.isSome = true ∧ m.fillFor = some 1 ∧ m.sync = .bulk ∧
       m.adopt = false ∧ m.fillEnd = true ∧ mp.running = false ∧ dBulk.mirUp = true ∧ m.bulk.map (fun b => b.done) ≠ some (some 1)) := by
  refine ⟨⟨?_, ?_, ?_⟩, ?_⟩ <;> decide +kernel

/-- The kernel with a timeout of 1 µs, run out: waiting, and on its leaf. -/
def late (d : Dev) : Dev := setNow (d.modDesc 0 (fun x => { x with tmoUs := 1, start := 0 })) 1000
/-- What every clause on an expired timeout asks. -/
def expired (d : Dev) (id : Nat) (x : Desc) : Prop :=
  d.running = true ∧ d.desc? id = some x ∧ x.tmoUs ≠ 0 ∧ x.start + x.tmoUs * 1000 ≤ d.now ∧ x.phase ≠ .held ∧ x.phase ≠ .replaying ∧
    d.heldBack id = false ∧ x.await_ = .run
theorem wit_TimeoutAndResetEventsComplete_timeout :
    (let x := ((late dK3).desc? 0).getD dx
     expired (late dK3) 0 x ∧ (opDefOf x.w).isSome = true ∧ x.phase = .dispatched ∧ x.openParts ≠ []) ∧
    (let x := ((late dK1).desc? 0).getD dx
     expired (late dK1) 0 x ∧ (opDefOf x.w).isSome = true ∧ x.phase = .waiting) ∧
    (let x := { dx with tmoUs := 1 }
     let d := setNow (dD x) 1000
     expired d 7 x ∧ (opDefOf x.w).isSome = false ∧ x.w.opc ≠ 0x0B ∧ x.w.opc ≠ 0x7C) ∧
    (let x := { dx with tmoUs := 1, w := dsc [(0, 0x7C)] }
     let d := setNow (dD x) 1000
     expired d 7 x ∧ (opDefOf x.w).isSome = false ∧ x.w.opc = 0x7C ∧ d.moverAt (.desc 7) = none) ∧
    (let x := { dx with tmoUs := 1, w := dsc [(0, 0x0B)] }
     let d := setNow ({ dM (.desc 7) 2 with descs := [x] }) 1000
     expired d 7 x ∧ (opDefOf x.w).isSome = false ∧ x.w.opc = 0x0B ∧ d.moverAt (.desc 7) = some (0, true)) := by
  unfold expired
  refine ⟨?_, ?_, ?_, ?_, ?_⟩ <;> decide +kernel

/-- An incident of quire QT0 in a phase. -/
def inc (ph : PartPhase) : Incident :=
  { parts := [(0, ph)], watch := [], marks := [], t0 := 0, held := [], replay := none, front := none, guilty := [], replayed := 0, timedOut := false }
def dInc (n : Incident) (now : Nat) : Dev := setNow { d1 with flt := { d1.flt with incidents := [n] } } now
theorem wit_TimeoutAndResetEventsComplete_resets :
    (let d (t : Nat) : Dev := setNow { d0 with movers := d0.movers.setIfInBounds 0 { Mover.reset with resetAt := some 0 } } t
     (d 1).running = true ∧ ((d 1).mover 0).resetAt = some 0 ∧ (d 1).now ≤ 0 + 100000 ∧ 0 + 100000 ≤ (d 100000).now ∧ ((d 100000).mover 0).jobs = []) ∧
    (let n := inc (.draining 0)
     (dInc n 1000000).incOf 0 = some n ∧ n.parts.find? (fun q => q.1 == 0) = some (0, .draining 0) ∧ 0 + 1000000 ≤ (dInc n 1000000).now ∧
       (dInc n 5).partRuns 0 = false) ∧
    (let n := inc .sampling
     (dInc n 5).incOf 0 = some n ∧ n.parts.find? (fun q => q.1 == 0) = some (0, .sampling)) ∧
    (let n := inc (.resetting 0)
     (dInc n 5).incOf 0 = some n ∧ (dInc n 5).flt.restores.find? (fun r => r.1 == 0) = none ∧
       n.parts.find? (fun q => q.1 == 0) = some (0, .resetting 0) ∧ (dInc n 5).now ≤ 0 + 2000000 ∧ 0 + 2000000 ≤ (dInc n 2000000).now) ∧
    (let d (t : Nat) : Dev := setNow { d0 with flt := { d0.flt with restores := [(0, 0, 7)] } } t
     (d 5).running = true ∧ (d 5).flt.restores.find? (fun r => r.1 == 0) = some (0, 0, 7) ∧ (d 5).now ≤ 0 + 2000000 ∧ 0 + 2000000 ≤ (d 2000000).now) := by
  refine ⟨?_, ?_, ?_, ?_, ?_⟩ <;> decide +kernel

/-- The kernel held after the reset of its quire, its token still granted. -/
def dHeld : Dev :=
  let d := dK2.modDesc 0 (fun x => { x with phase := .held })
  { d with flt := { d.flt with incidents := [{ inc .ready with held := [0] }] } }
theorem wit_ReplayEscalationAndScrubComplete :
    (let e := dHeld.endIncidents
     let n := { inc .ready with held := [0] }
     let x := (dHeld.desc? 0).getD dx
     let g := (e.mapInc (fun m => if m = n then { m with replay := some x.id, front := if m.front = some x.id then none else m.front } else m)).modDesc
       x.id (fun y => { y with phase := .replaying, start := e.now })
     dHeld.running = true ∧ e.flt.incidents.find? (fun n => n.settled && n.replay.isNone && (e.nextReplay n).isSome) = some n ∧
       e.nextReplay n = some x ∧ (g.desc? x.id).isSome = true ∧ (g.dispatchParts ((g.desc? x.id).getD dx)).desc? x.id ≠ none) ∧
    (let n := { inc .ready with held := [7], replay := some 7 }
     let x := { dx with tmoUs := 1, phase := .replaying }
     let d := { dInc n 1000 with descs := [x] }
     d.running = true ∧ d.flt.incidents = [n] ∧ n.replay = some 7 ∧ d.desc? 7 = some x ∧ x.tmoUs ≠ 0 ∧ x.start + x.tmoUs * 1000 ≤ d.now) ∧
    (let d (t : Nat) : Dev := setNow { d0 with flt := { d0.flt with volAt := some 0 } } t
     (d 5).running = true ∧ (d 5).flt.volAt = some 0 ∧ (d 5).now ≤ 0 + 20000000 ∧ 0 + 20000000 ≤ (d 20000000).now) ∧
    (partPresent d0.board.variant 0 = true ∧ d0.partState 0 = 0) ∧
    (let d := { dSw with flt := { dSw.flt with patrol := [(0, (.sheet 1, 0))] } }
     d.scrubPlaces 0 ≠ [] ∧ d.flt.hints = [] ∧ Tab.get? d.flt.skipped 0 = none ∧ Tab.get? d.flt.patrol 0 = some (.sheet 1, 0) ∧
       d.scrubStopped 0 (placeAfter (d.scrubPlaces 0) (.sheet 1, 0) 1) = false) ∧
    (let d := { dSw with flt := { dSw.flt with skipped := [(0, (.sheet 1, 7))] } }
     Tab.get? d.flt.skipped 0 = some (.sheet 1, 7) ∧ d.scrubStopped 0 (.sheet 1, 7) = false) ∧
    { dSw.flt with hints := [(.sheet 1, 2)] }.hints ≠ [] ∧
    (let bad (l : List (CtlWord × Byte)) (r : EccRes) : Bool := { d0.flt with ctl := l }.ctl.any (fun p => (eccSynd 0 p.2).1 == r)
     (bad [(.sheet 1, 0xFF)] .corrected = false ∧ bad [(.sheet 1, 0xFF)] .poison = true) ∧
       (bad [(.handle 2, 1)] .uncorrectable = false ∧ bad [(.handle 2, 1)] .poison = false ∧ bad [(.handle 2, 1)] .corrected = true)) := by
  refine ⟨?_, ?_, ?_, ?_, ?_, ?_, ?_, ?_⟩ <;> decide +kernel

/-- A service command with an argument and data. -/
def sc (a : QW) (b : Bytes) : SvcCmd := { reserved := 0, tag := 1, arg := a, data := b }
/-- The staging sheet of maps named; a staging in progress, of the service port or of a descriptor. -/
def dMap (q : List Req) : Dev := { dSw with sheets := [(1, { sh with tok := .empty, q := q })], regs := [(0x17010, 0x01000001)] }
def dStg (o : Option Nat) : Dev := { dD dx with sec := { d1.sec with staging := some { slotB := true, image := [], owner := o, tag := 2 } } }
theorem wit_ServiceCommandsComplete :
    (d0.alive = true ∧ d0.svcBusy = false ∧ d0.sec.dead = false ∧ d0.sec.recovery = false ∧ (sc 0 []).reserved = 0 ∧ (sc 0 []).arg = 0 ∧
      (sc 1 []).arg ≠ 0) ∧
    (let h := dwN (sc 0x01000001 []).arg.toNat
     (sc 0x01000001 []).arg.toNat < 2 ^ 32 ∧ dSw.handleStatus h = none ∧ isLanding (shIdx h) = false ∧ (dSw.sheet (shIdx h)).access ≠ 2 ∧
       dSw.own 0x15004 ≠ h ∧ dSw.sec.unlocked = false ∧ { dSw with regs := [(0x15004, h)] }.own 0x15004 = h ∧
       { dSw with regs := [(0x15004, h)] }.handleStatus h = none) ∧
    (d0.sec.staging = none ∧ fwBad d0.vault d0.board.variant (sc 0 []).data = some 0) ∧ d0.sheetOf (d0.own 0x17010) = none ∧
    (let d := dMap []
     d.svcBusy = false ∧ d.sheetOf (d.own 0x17010) = some { sh with tok := .empty } ∧ (sc 0 [1]).data.length ≤ sh.size ∧
       (let e := (d.freshId.2.modSheet 1 (fun y => y.addWrite d.freshId.1))
        let g := { e with sec := { e.sec with mapWait := some (d.freshId.1, 1, [1]) } }
        ((g.sheet 1).q.find? (fun r => r.desc == d.freshId.1)).map (g.sheet 1).grantable = some true)) ∧
    (let d := dMap [{ desc := 3, write := false, st := .granted, matched := 0 }]
     d.svcBusy = false ∧ (d.sheetOf (d.own 0x17010)).isSome = true ∧
       (let e := (d.freshId.2.modSheet 1 (fun y => y.addWrite d.freshId.1))
        let g := { e with sec := { e.sec with mapWait := some (d.freshId.1, 1, [1]) } }
        ((g.sheet 1).q.find? (fun r => r.desc == d.freshId.1)).map (g.sheet 1).grantable = some false)) ∧
    (((0 : Byte).toNat = 0 ∨ 7 < (0 : Byte).toNat) ∧ ((8 : Byte).toNat = 0 ∨ 7 < (8 : Byte).toNat)) ∧
    ((dStg none).sec.staging.isSome = true ∧ ((dStg none).sec.staging.map (·.owner)) = some none) ∧
    ((dStg (some 7)).sec.staging.map (·.owner) = some (some 7) ∧ (dStg (some 7)).desc? 7 = some dx ∧ (dStg (some 7)).svcBusy = false) := by
  refine ⟨?_, ?_, ?_, ?_, ?_, ?_, ?_, ?_, ?_⟩ <;> decide +kernel

theorem wit_ServiceCommandsComplete_good (h : fwSigned) :
    let d := { d0 with vault := { d0.vault with rootKey := sha3 (bslice fw 256 1952) } }
    d.alive = true ∧ d.sec.staging = none ∧ fwBad d.vault d.board.variant (sc 0 fw).data = none :=
  ⟨by decide +kernel, by decide +kernel, fw_good h _ _ rfl (by decide +kernel)⟩

/-- A debug response; a device whose vendor debug key is its key, with a challenge open. -/
def resp : Bytes := List.replicate 5261 0
def dDbg : Dev :=
  { d0 with
    vault := { d0.vault with
      debugKey := sha3 (resp.take 1952), owner := some { svn := 0, minMap := 0, vendorDebug := true, debugKey := 0, digest := 0 } }
    sec := { d0.sec with challenge := some ([1], 0) } }
theorem wit_UnlockCommandsComplete :
    (d0.alive = true ∧ d0.svcBusy = false ∧ d0.sec.dead = false ∧ d0.sec.recovery = false ∧ d0.sec.lockedTo = none ∧ d0.openChallenge = none) ∧
    (let d (t : Nat) : Dev := setNow { d0 with sec := { d0.sec with lockedTo := some 100 } } t
     (d 5).sec.lockedTo = some 100 ∧ (d 5).now < 100 ∧ 100 ≤ (d 100).now) ∧
    (let d := setNow { d0 with sec := { d0.sec with challenge := some ([1], 0) } } 60000000000
     d.sec.challenge = some ([1], 0) ∧ 0 + 60 * 10 ^ 9 ≤ d.now) ∧
    d0.sec.unlocked = false ∧ { d0 with sec := { d0.sec with unlocked := true } }.sec.unlocked = true := by
  refine ⟨?_, ?_, ?_, ?_, ?_⟩ <;> decide +kernel
theorem wit_UnlockCommandsComplete_right
    (h : Config.mldsaVerify (resp.take 1952) (sha3 [1]) (asciiOf "JGR-DBG") (resp.drop 1952) = true) :
    dDbg.openChallenge = some [1] ∧ dDbg.debugKind ((sc 0 resp).data.take 1952) = some 1 ∧ (sc 0 resp).data.length = 5261 ∧
      Config.mldsaVerify ((sc 0 resp).data.take 1952) (sha3 [1]) (asciiOf "JGR-DBG") ((sc 0 resp).data.drop 1952) = true ∧
      dDbg.measFull = false ∧ dDbg.alive = true ∧ dDbg.svcBusy = false := by
  refine ⟨by decide +kernel, ?_, List.length_replicate, h, by decide +kernel, by decide +kernel, by decide +kernel⟩
  have e : dDbg.vault.debugKey = sha3 ((sc 0 resp).data.take 1952) := by rfl
  have o : dDbg.vault.owner = some { svn := 0, minMap := 0, vendorDebug := true, debugKey := 0, digest := 0 } := by rfl
  simp [Machine.Dev.debugKind, o, e]

theorem wit_ResetAndRailEventsComplete :
    (dRst.pwr.perst = true ∧ dRst.railsIn = true ∧ dRst.pwr.brown = false ∧ dRst.pwr.therm = false ∧
      { dRst with pwr := { dRst.pwr with brown := true } }.pwr.brown = true) ∧ (dRst.alive = false ∧ d0.alive = true) ∧
    (let d := { dRst with pwr := { dRst.pwr with rails := dRst.pwr.rails.setIfInBounds 0 0 } }
     d.pwr.perst = true ∧ d.railsIn = false) ∧ d0.pwr.perst = false ∧
    (720 ≤ railMax 0 ∧ railIn d0.pwr.setMv 0 720 = true ∧ railIn d0.pwr.setMv 0 0 = false) ∧
    (let d (t : Nat) : Dev := setNow { d0 with sec := { d0.sec with recovery := true, rrs := true } } t
     (d 5).alive = true ∧ (d 5).sec.recovery = true ∧ (d 5).sec.rrs = true ∧ (d 1000000000).sec.bootAt + 10 ^ 9 ≤ (d 1000000000).now ∧
       (d 5).now < (d 5).sec.bootAt + 10 ^ 9) := by
  refine ⟨?_, ?_, ?_, ?_, ?_, ?_⟩ <;> decide +kernel
/-- The vault a boot checks its slots with. -/
def booted (v : Vault) : Vault := v.boot d0.free
def vA : Vault := { d0.vault with vendorOk := true, rootKey := sha3 (bslice fw 256 1952), flashA := fw }
def vB : Vault := vA.update (fun r => { r with preferred := true })
theorem wit_BootChoosesTheSlot : { d0.vault with vendorOk := false }.vendorOk = false ∧ d0.vault.vendorOk = true ∧
    ¬ (d0.vault.stateA = none ∧ d0.vault.stateB = none) ∧ d0.vault.record.seq.toNat + 1 < 2 ^ 32 ∧
    (let w := { d0.vault with stateA := none, stateB := none }
     w.vendorOk = true ∧ w.stateA = none ∧ w.stateB = none) ∧
    fwBad (booted d0.vault) d0.board.variant (d0.vault.slot (booted d0.vault).preferred) ≠ none ∧
    fwBad (booted d0.vault) d0.board.variant (d0.vault.slot (!(booted d0.vault).preferred)) ≠ none := by decide +kernel
theorem wit_BootChoosesTheSlot_good (h : fwSigned) :
    (vA.vendorOk = true ∧ ¬ (vA.stateA = none ∧ vA.stateB = none) ∧
      fwBad (booted vA) d0.board.variant (vA.slot (booted vA).preferred) = none) ∧
    (vB.vendorOk = true ∧ ¬ (vB.stateA = none ∧ vB.stateB = none) ∧
      fwBad (booted vB) d0.board.variant (vB.slot (booted vB).preferred) ≠ none ∧
      fwBad (booted vB) d0.board.variant (vB.slot (!(booted vB).preferred)) = none) := by
  have a1 : vA.slot (booted vA).preferred = fw := by
    have e : (booted vA).preferred = false := by decide +kernel
    rw [e]; rfl
  have b1 : vB.slot (!(booted vB).preferred) = fw := by
    have e : (booted vB).preferred = true := by decide +kernel
    rw [e]; rfl
  exact ⟨⟨rfl, by decide +kernel, by rw [a1]; exact fw_good h _ _ (by rfl) (by decide +kernel)⟩,
    by decide +kernel, by decide +kernel, by decide +kernel, by rw [b1]; exact fw_good h _ _ (by rfl) (by decide +kernel)⟩

/-- A plan armed, and VDD_C at a level the monitor confirms. -/
def dPw (mv : Nat) (p : Tab Plan) : Dev := { d1 with setup := [(0x18000, 3)], plans := p, pwr := { d1.pwr with setMv := mv, measMv := mv } }
theorem wit_GovernorAndSensorEventsComplete_governor :
    (let d := dPw 720 []
     d.running = true ∧ d.pwr.pmbFault = false ∧ d.govSettled = true ∧ d.pwr.setMv ≠ d.govTarget ∧ govNext d.pwr.setMv d.govTarget < 720) ∧
    (let d := dPw 720 [(0, pl)]
     d.pwr.pmbFault = false ∧ d.govSettled = true ∧ d.pwr.setMv ≠ d.govTarget ∧ 720 ≤ govNext d.pwr.setMv d.govTarget) ∧
    (710 ≤ (710 : BitVec 16).toNat ∧ d0.planArmed = false) ∧
    ((709 : BitVec 16).toNat < 710 ∧ (dPw 720 [(0, pl)]).planArmed = true ∧ (dPw 720 [(0, pl)]).pwr.lowVout = false) := by
  refine ⟨?_, ?_, ?_, ?_⟩ <;> decide +kernel
theorem wit_GovernorAndSensorEventsComplete_power :
    (let c : DW := dwN (d0.limitMw + 1)
     let e := ({ d0 with pwr := { d0.pwr with mw := #v[c, 0, 0] } } : Dev).setCap d0.capNow
     d0.running = true ∧ d0.limitMw < c.toNat ∧ e.capFloor < e.pwr.cap) ∧
    (let c : DW := dwN d0.limitMw
     c.toNat ≤ d0.limitMw ∧ d0.limitMw * 9 < c.toNat * 10) ∧
    (partPresent d0.board.variant 0 = true ∧ (d0.rampTick.pwr.ramps.any (fun r => r.1 == 0)) = false ∧
      (d0.rampTick.pwr.rampQ.any (fun r => r.1 == 0)) = false ∧ d0.rampTick.pwr.ramps.length < 3 ∧ d0.rampTick.pwr.rampQ = []) ∧
    (let d := { d0 with pwr := { d0.pwr with ramps := [(1, 0, true), (2, 0, true), (3, 0, true)] } }
     3 ≤ d.rampTick.pwr.ramps.length ∧ (d.rampTick.pwr.ramps.any (fun r => r.1 == 0)) = false ∧
       (d.rampTick.pwr.rampQ.any (fun r => r.1 == 0)) = false) ∧
    (125 * 16 ≤ max (max (BitVec.toInt (2000 : BitVec 16)) (BitVec.toInt (0 : BitVec 16))) (BitVec.toInt (0 : BitVec 16)) ∧
      max (max (BitVec.toInt (1999 : BitVec 16)) (BitVec.toInt (0 : BitVec 16))) (BitVec.toInt (0 : BitVec 16)) < 125 * 16) ∧
    (d0.pwr.short.contains 2 = false ∧ { d0 with pwr := { d0.pwr with short := [2] } }.pwr.short.contains 2 = true) := by
  refine ⟨?_, ?_, ?_, ?_, ?_, ?_⟩ <;> decide +kernel
theorem wit_GovernorBounds :
    ((720 : Nat) ≤ 820 ∧ (720 : Nat) ≤ 725 + 10 ∧ (725 : Nat) ≤ 720 + 10) ∧ (dPw 720 []).govTarget = 660 ∧ (dPw 720 [(0, pl)]).govTarget = 820 ∧
    d0.capFloor ≤ d0.capNow := by
  refine ⟨?_, ?_, ?_, ?_⟩ <;> decide +kernel

theorem wit_ZeroPackRoundTrip : ([0, 7, 0] : Bytes) ≠ [] ∧ ([0, 7, 0] : Bytes).length < 2 ^ 32 := by decide
theorem wit_VoxelKeysRoundTrip : vinside (-262144) = true ∧ vinside 262143 = true ∧ vinside 262144 = false := by decide
theorem wit_RequantiseRoundsAndClamps : (0 < 4 ∧ 2 * (6 - rdiv 6 4 * 4) = -4 ∧ 2 * (2 - rdiv 2 4 * 4) = 4) ∧
    (let y := rdiv (12345 * 1518500250) (2 ^ 38) + (-3)
     (-128 : Int) ≤ y ∧ y ≤ 127) ∧ rdiv (-60000 * 1518500250) (2 ^ 38) + (-3) < -128 ∧ 127 < rdiv (60000 * 1518500250) (2 ^ 38) + (-3) := by
  decide
/-- Sums at x = 400 alone. -/
def at400 (l : List Nat) : Array (Array Nat) := ((List.range 402).map (fun p => (if p = 400 then l else []).toArray)).toArray
theorem wit_DisparityConfidence : exSgm.win 400 0 ≤ 3839 ∧ 0xFFFA ≤ (exSgm.pixel exSums 130 16 10 400 0).1 ∧
    (exSgm.pixel (at400 [5, 0]) 250 0 10 400 0).1 < 0xFFFA ∧ (exSgm.pixel (at400 [5, 0]) 250 0 10 400 0).2 = 255 ∧ (exSgm.pixel (at400 [5, 0, 1, 0]) 250 0 10 400 0).1 < 0xFFFA ∧
    (exSgm.pixel exSums 250 16 10 400 0).1 < 0xFFFA := by decide +kernel
theorem wit_IntegrityCodeCorrectsAndDetects : (63 : Nat) < 64 ∧ (0 : Nat) < 63 ∧ (7 : Nat) < 8 ∧ (0 : Nat) < 7 := by decide

/-! ## One step of some commands, with results by hand from the spec -/

/-- The device after one command. -/
def after (i : Instr) (d : Dev) : Dev := match step { sv d with pending := [i] } with | .next t => t.dev | _ => d0

/-- An empty queue: 4 ns pass. -/
theorem test_idle : (match step State.reset with | .next t => t.dev.tb.time == 4 | _ => false) = true := by decide +kernel
/-- NOP: the record of count 0 has PHASE 1 and SEQ 0 (R92), status DONE. -/
theorem test_nop : bw (Mem.read (after (.nop 0 (dsc [])) d1).host 0x2000 32) 7 = 1 ∧ bw (Mem.read (after (.nop 0 (dsc [])) d1).host 0x2000 32) 0 = 0 ∧
    ((after (.nop 0 (dsc [])) d1).ctx 0).cqTail = 1 := by decide +kernel
/-- SHEET_ALLOC: the lowest free index, generation 1, tier T1 (R48, R49). -/
theorem test_sheet_alloc : bw (Mem.read (after (.sheetAlloc 0 (dsc [(1, 0x9180), (7, 0x100), (8, 4096)])) { dO with sheets := [] }).host 0x2000 32) 4 = 0x01000000 := by
  decide +kernel
/-- PRS_KERNEL Cholesky of [4]: L = [2] (R264). -/
theorem test_prs_kernel : Mem.read ((after (.prsKernel 0 kw) dK).sheet 2).cells 0 64 = ({ exp := 0, rows := 1, cols := 1, m := [2] } : Bfx).bytes := by
  decide +kernel
/-- CRC_CHECK in compute mode of the nine digits (table of chapter 14). -/
theorem test_crc_check : bw (Mem.read (after (.crcCheck 0 (dsc [(1, 0x9180), (6, 9), (7, 0x01000001), (10, 9)]))
    { dO with sheets := [(1, { sh with cells := Mem.write [] 0 (asciiOf "123456789") })] }).host 0x2000 32) 4 = 0xE3069283 := by decide +kernel
/-- MOVE of the block between two sheets of T1. -/
theorem test_move : Mem.read ((after (.move 0 (dsc [(1, 0x9180), (6, 0x01000001), (7, 0x01000002), (14, 64)]))
    { dK with sheets := mapIf (fun p => p.1 == 2) (fun p => (2, { p.2 with tok := .empty })) dK.sheets }).sheet 2).cells 0 8 =
      Mem.read (dK.sheet 1).cells 0 8 := by decide +kernel
/-- TB_TIME_LO at time 2^32 + 5: the high word is latched (R398). -/
theorem test_time_low : (after (.tbTimeLoRead false) (setNow d0 (2 ^ 32 + 5))).tb.hiLatch = 1 ∧
    (after (.tbTimeLoRead false) (setNow d0 (2 ^ 32 + 5))).out = [.readData 5] := by decide +kernel
/-- A rail beyond its absolute maximum (R375). -/
theorem test_overstress : (match step { State.reset with pending := [.railOutOfRange 0 951] } with | .fault .overstress => true | _ => false) = true := by
  decide +kernel
/-- A line packet of a camera lands in its frame's row 0 (R115, R116). -/
theorem test_csi_line : (match (after (.csiLinePacket 0 0 0x2A true true (List.replicate 16 7))
    (after (.csiFrameStart 0 0 1) dCam)).frame? 0 with | some f => f.lines == 1 && !f.trunc | none => false) = true := by decide +kernel
/-- A second lock write has no effect on the measurement log (R100). -/
theorem test_lock_twice : (after (.hstLockWrite 1) dLk).sec.log = dLk.sec.log := by decide +kernel

end Sys2Proof.Tests
end

section
/-! Setup words (R9, R396): what every command can do to them, and that every step keeps their canonical form. -/

namespace Sys2Proof.Machine

/-! ## Reading a setup word back -/

/-- Putting a key leaves every other key as it was, whatever the default. -/
theorem Tab.get?_put_ne {α : Type} [DecidableEq α] (d : α) (t : Tab α) {k j : Nat} (v : α) (h : j ≠ k) :
    Tab.get? (Tab.put d t k v) j = Tab.get? t j := by
  unfold Tab.put
  split
  · rw [Tab.get?_del, if_neg h]
  · rw [Tab.get?_set, if_neg h]

@[simp] theorem Dev.reg_setReg_same (d : Dev) (off : Nat) (w : DW) : (d.setReg off w).reg off = w := by
  simp only [Dev.reg, Dev.setReg_setup, Dev.setReg_board, Tab.getD_put, if_true]

theorem Dev.reg_setReg_ne (d : Dev) {off p : Nat} (w : DW) (h : p ≠ off) : (d.setReg off w).reg p = d.reg p := by
  simp only [Dev.reg, Dev.setReg_setup, Dev.setReg_board, Tab.getD, Tab.get?_put_ne _ _ _ h]

/-! ## Devices with the same setup -/

/-- The two devices have the same board and the same setup words. -/
structure SameSetup (d e : Dev) : Prop where
  board : e.board = d.board
  setup : e.setup = d.setup

theorem SameSetup.refl (d : Dev) : SameSetup d d := ⟨rfl, rfl⟩

theorem SameSetup.of_eq {d e : Dev} (h : e = d) : SameSetup d e := h ▸ .refl d

theorem SameSetup.trans {d e f : Dev} (h : SameSetup d e) (g : SameSetup e f) : SameSetup d f :=
  ⟨g.board.trans h.board, g.setup.trans h.setup⟩

theorem SameSetup.framed (d e : Dev) : SameSetup d (d.framed e) := ⟨rfl, rfl⟩

theorem SameSetup.event {d e : Dev} (h : SameSetup d e) (x : Ev) : SameSetup d (e.event x) :=
  ⟨(e.event_board x).trans h.board, (e.event_setup x).trans h.setup⟩

theorem SameSetup.setPwr {d e : Dev} (h : SameSetup d e) (p : Pwr) : SameSetup d { e with pwr := p } := ⟨h.board, h.setup⟩

theorem SameSetup.reg {d e : Dev} (h : SameSetup d e) (p : Nat) : e.reg p = d.reg p := by
  rw [Dev.reg, Dev.reg, h.setup, h.board]

/-- An idle step only lets time pass: it is framed as a command that writes no register. -/
theorem State.tick_sameSetup (s : State) : SameSetup s.dev s.tick.dev := by
  unfold State.tick
  split
  · exact .refl _
  · exact .framed _ _

/-- Commands that neither write setup registers nor reset the device keep board and setup words. -/
theorem exec_sameSetup (i : Instr) (s : State) (hw : setsUp i = false) (hr : i.resets = false) :
    IfNext (fun t => SameSetup s.dev t.dev) (exec i s) := by
  have ho := exec_outcomes i s
  generalize exec i s = o at ho ⊢
  cases ho with
  | run f =>
    obtain ⟨t, ht, hk, hsetup, -⟩ := s.run_next f
    rw [ht]
    exact ⟨hk.board, hsetup⟩
  | alive f =>
    obtain ⟨t, ht, hk, hsetup, -⟩ := s.runAlive_next f
    rw [ht]
    exact ⟨hk.board, hsetup⟩
  | setup f h => simp [h] at hw
  | raw f h => simp [h] at hr
  | stop h => trivial

/-! ## Pins, rails and PERST_N: the setup words are lost or kept (R376, R378, R385) -/

/-- A reset of the device has emptied the setup words, or board and setup words are kept. -/
def ClearsOrKeepsSetup (d e : Dev) : Prop := e.setup = [] ∨ SameSetup d e

/-- What pins and rails do after a reset of the device leaves the setup words empty. -/
theorem ClearsOrKeepsSetup.cleared {d e f : Dev} (h : e.setup = []) (g : SameSetup e f) : ClearsOrKeepsSetup d f :=
  .inl (g.setup.trans h)

theorem Dev.wipe_setup (d : Dev) (f : Pwr → Pwr) : (d.wipe f).setup = [] := rfl

theorem Dev.pinsSafe_sameSetup (d : Dev) : SameSetup d d.pinsSafe := by
  unfold Dev.pinsSafe
  induction resetLevels generalizing d with
  | nil => exact .refl d
  | cons p l ih =>
    have hp : SameSetup d (d.emitOut (.pin p.1 p.2)) := ⟨rfl, rfl⟩
    exact hp.trans (ih _)

theorem Dev.setFaultN_sameSetup (d : Dev) (on : Bool) : SameSetup d (d.setFaultN on) := by
  unfold Dev.setFaultN
  split <;> exact ⟨rfl, rfl⟩

theorem Dev.setTherm_sameSetup (d : Dev) (on : Bool) : SameSetup d (d.setTherm on) := by
  unfold Dev.setTherm
  split <;> exact ⟨rfl, rfl⟩

theorem Dev.releasePins_sameSetup (d : Dev) : SameSetup d d.releasePins := by
  unfold Dev.releasePins
  extract_lets cool e
  have he : SameSetup d e := by
    unfold e
    split
    · exact d.setTherm_sameSetup false
    · exact .refl d
  split
  · exact he
  · exact he.trans (e.setFaultN_sameSetup false)

theorem Dev.tempStates_sameSetup (d : Dev) (tj : Int) : SameSetup d (d.tempStates tj) := by
  unfold Dev.tempStates
  extract_lets p wc d5 wl hl d1 p1 d2 p2
  have h1 : SameSetup d d1 := ⟨rfl, rfl⟩
  have h2 : SameSetup d d2 := by
    unfold d2
    split
    · exact (h1.setPwr _).event _
    · split
      · exact h1.setPwr _
      · exact h1
  split
  · exact (h2.setPwr _).event _
  · split
    · exact (h2.setPwr _).event _
    · exact h2

theorem Dev.boot_setup (d : Dev) (verso : Bool) : (d.boot verso).setup = [] := by
  unfold Dev.boot
  extract_lets v lost e sec ok start
  split
  · exact (Dev.setFaultN_sameSetup _ _).setup
  · split
    · exact (Dev.setFaultN_sameSetup _ _).setup
    · split
      · rfl
      · split
        · rfl
        · exact (Dev.setFaultN_sameSetup _ _).setup

theorem perstAssert_setup (d : Dev) : (perstAssert d).setup = [] :=
  ((Dev.pinsSafe_sameSetup _).trans (Dev.releasePins_sameSetup _)).setup

theorem perstDeassert_setup (verso : Bool) (d : Dev) : ClearsOrKeepsSetup d (perstDeassert verso d) := by
  unfold perstDeassert
  split
  · exact .inr (.refl d)
  · split
    · exact .inr ⟨rfl, rfl⟩
    · exact .inl (d.boot_setup verso)

theorem railOutOfRange_setup (r mv : Nat) (d : Dev) : ClearsOrKeepsSetup d (railOutOfRange r mv d) := by
  unfold railOutOfRange
  extract_lets p e
  split
  · exact .inr ⟨rfl, rfl⟩
  · exact .cleared (e.wipe_setup _) ((Dev.pinsSafe_sameSetup _).trans (Dev.setFaultN_sameSetup _ true))

theorem railRecovered_sameSetup (d : Dev) : SameSetup d (railRecovered d) := by
  unfold railRecovered
  split
  · exact .refl d
  · extract_lets p e
    have he : SameSetup d e := ⟨rfl, rfl⟩
    split
    · exact he
    · exact he.trans (e.setFaultN_sameSetup false)

theorem tempSample_setup (c s i : BitVec 16) (d : Dev) : ClearsOrKeepsSetup d (tempSample c s i d) := by
  unfold tempSample
  extract_lets t tj alive p e
  have he : SameSetup d e := ⟨rfl, rfl⟩
  split
  · split
    · exact .inr (he.trans e.releasePins_sameSetup)
    · exact .inr he
  · split
    · exact .cleared (e.wipe_setup _)
        (((Dev.pinsSafe_sameSetup _).trans (Dev.setFaultN_sameSetup _ true)).trans (Dev.setTherm_sameSetup _ true))
    · split
      · exact .inr (he.trans (e.tempStates_sameSetup tj))
      · exact .inr he

/-- A command that may reset the device empties the setup words or keeps them with the board. -/
theorem exec_resets_setup (i : Instr) (s : State) (hr : i.resets = true) :
    IfNext (fun t => ClearsOrKeepsSetup s.dev t.dev) (exec i s) := by
  unfold Instr.resets at hr
  split at hr
  case h_1 => exact .inl (perstAssert_setup s.dev)
  case h_2 verso => exact perstDeassert_setup verso s.dev
  case h_3 r mv =>
    show IfNext _ (execRailOutOfRange r mv s)
    unfold execRailOutOfRange
    split
    · trivial
    · exact railOutOfRange_setup r.val mv s.dev
  case h_4 => exact .inr (railRecovered_sameSetup s.dev)
  case h_5 c m o => exact tempSample_setup c m o s.dev
  case h_6 => exact absurd hr Bool.false_ne_true

/-! ## Register writes: one word is set or none (R9, R396) -/

/-- At most one setup word is set, and the board stays. -/
def SetsOneWord (d e : Dev) : Prop := SameSetup d e ∨ ∃ off w, SameSetup (d.setReg off w) e

theorem Dev.writeW1c_sameSetup (d : Dev) (off : Nat) (v : DW) : SameSetup d (d.writeW1c off v) := by
  unfold Dev.writeW1c
  split
  · exact ⟨rfl, rfl⟩
  · split
    · split <;> exact ⟨rfl, rfl⟩
    · split <;> exact ⟨rfl, rfl⟩

theorem hstLockWrite_sameSetup (v : DW) (d : Dev) : SameSetup d (hstLockWrite v d) := by
  unfold hstLockWrite
  split
  · exact .refl d
  · exact ⟨rfl, rfl⟩

theorem visDescSeedWrite_sets (v : DW) (d : Dev) : SetsOneWord d (visDescSeedWrite v d) := by
  unfold visDescSeedWrite
  split
  · exact .inl (.refl d)
  · exact .inr ⟨0xA000, v, .refl _⟩

theorem spnSnsPoolWrite_sets (v : DW) (d : Dev) : SetsOneWord d (spnSnsPoolWrite v d) := by
  have hset : SetsOneWord d (d.setReg 0x300C (dwN (bits v 7 0))) := .inr ⟨_, _, .refl _⟩
  have hkeep : SetsOneWord d d := .inl (.refl d)
  unfold spnSnsPoolWrite
  extract_lets new old
  split
  · exact hkeep
  · split
    · split
      · exact hset
      · exact hkeep
    · split
      · exact hset
      · exact hkeep

/-- A word other than SPN_SNS_POOL is written field by field; what follows the write leaves the setup words alone. -/
theorem Dev.writeSet_sameSetup (d : Dev) (off : Nat) (v : DW) (h : off ≠ 0x300C) :
    SameSetup (d.setReg off (fldWrite (rwlAt d.board.variant off) (d.reg off) v)) (d.writeSet off v) := by
  rw [Dev.writeSet, if_neg h]
  exact .framed _ _

theorem Dev.writeSet_sets (d : Dev) (off : Nat) (v : DW) : SetsOneWord d (d.writeSet off v) := by
  by_cases h : off = 0x300C
  · rw [Dev.writeSet, if_pos h]
    exact spnSnsPoolWrite_sets v d
  · exact .inr ⟨_, _, d.writeSet_sameSetup off v h⟩

theorem Dev.writeWord_sets (d : Dev) (off : Nat) (v : DW) : SetsOneWord d (d.writeWord off v) := by
  unfold Dev.writeWord
  split
  · exact .inl (d.writeW1c_sameSetup off v)
  · split
    · exact .inl (.refl d)
    · split
      · exact .inl (hstLockWrite_sameSetup v d)
      · split
        · exact .inl (.framed _ _)
        · exact d.writeSet_sets off v

end Sys2Proof.Machine

namespace Sys2Proof

open Machine

/-! ## The canonical form of the setup words -/

theorem SetupCanonical.of_sameSetup {d e : Dev} (hd : SetupCanonical d) (h : SameSetup d e) : SetupCanonical e := by
  rw [SetupCanonical, h.setup, h.board]
  exact hd

theorem SetupCanonical.of_setup_nil {d : Dev} (h : d.setup = []) : SetupCanonical d := by
  rw [SetupCanonical, h]
  exact ⟨rfl, by simp⟩

theorem SetupCanonical.setReg {d : Dev} (hd : SetupCanonical d) (off : Nat) (w : DW) : SetupCanonical (d.setReg off w) :=
  ⟨Tab.wf_put _ _ _ _ hd.1, Tab.put_listed (resetWord d.board.variant) d.setup off w hd.2⟩

theorem SetupCanonical.of_clearsOrKeeps {d e : Dev} (hd : SetupCanonical d) (h : ClearsOrKeepsSetup d e) : SetupCanonical e :=
  h.elim .of_setup_nil hd.of_sameSetup

/-- The board stays, and so does the canonical form of the setup words. -/
structure KeepsCanonical (d e : Dev) : Prop where
  board     : e.board = d.board
  canonical : SetupCanonical d → SetupCanonical e

theorem KeepsCanonical.trans {d e f : Dev} (h : KeepsCanonical d e) (g : KeepsCanonical e f) : KeepsCanonical d f :=
  ⟨g.board.trans h.board, fun hd => g.canonical (h.canonical hd)⟩

theorem KeepsCanonical.of_sameSetup {d e : Dev} (h : SameSetup d e) : KeepsCanonical d e := ⟨h.board, fun hd => hd.of_sameSetup h⟩

theorem KeepsCanonical.of_setsOneWord {d e : Dev} (h : SetsOneWord d e) : KeepsCanonical d e := by
  obtain h | ⟨off, w, h⟩ := h
  · exact .of_sameSetup h
  · exact ⟨h.board, fun hd => (hd.setReg off w).of_sameSetup h⟩

/-- A 64-bit write is two writes of one word each (R77, R396). -/
theorem registerWrite_keepsCanonical (off : Nat) (wide : Bool) (v : QW) (d : Dev) : KeepsCanonical d (registerWrite off wide v d) := by
  unfold registerWrite
  extract_lets e f
  have he : KeepsCanonical d e := .of_setsOneWord (d.writeWord_sets off _)
  have hf : KeepsCanonical d f :=
    iteInduction (fun _ => he.trans (.of_setsOneWord (e.writeWord_sets (off + 4) _))) (fun _ => he)
  exact iteInduction (fun _ => .of_sameSetup ⟨rfl, rfl⟩) (fun _ => hf.trans (.of_sameSetup (.framed _ _)))

theorem SetupCanonical.runSetup {s : State} (hd : SetupCanonical s.dev) {f : Dev → Dev} (h : KeepsCanonical s.dev (f s.dev)) :
    IfNext (fun t => SetupCanonical t.dev) (s.runSetup f) := by
  obtain ⟨t, ht, hk, hset, hsame⟩ := s.runSetup_next f
  rw [ht]
  show SetupCanonical t.dev
  cases hr : s.dev.running with
  | true => exact (h.canonical hd).of_sameSetup ⟨hk.board.trans h.board.symm, (hset hr).1⟩
  | false => rw [hsame hr]; exact hd

/-- A command that writes setup registers keeps the canonical form. -/
theorem exec_setsUp_canonical (i : Instr) (s : State) (hw : setsUp i = true) (hd : SetupCanonical s.dev) :
    IfNext (fun t => SetupCanonical t.dev) (exec i s) := by
  unfold setsUp at hw
  split at hw
  case h_1 v => exact hd.runSetup (.of_sameSetup (hstLockWrite_sameSetup v s.dev))
  case h_2 off wide v => exact hd.runSetup (registerWrite_keepsCanonical off.toNat wide v s.dev)
  case h_3 v => exact hd.runSetup (.of_setsOneWord (visDescSeedWrite_sets v s.dev))
  case h_4 v => exact hd.runSetup (.of_setsOneWord (spnSnsPoolWrite_sets v s.dev))
  case h_5 => exact absurd hw Bool.false_ne_true

theorem IfNext.mono {P Q : State → Prop} (h : ∀ t, P t → Q t) {o : Host.Outcome State Fault Refusal} (ho : IfNext P o) : IfNext Q o := by
  cases o with
  | next t => exact h t ho
  | fault r => trivial
  | refused r => trivial

/-- Every command keeps the canonical form: it sets setup words, may reset the device, or does neither. -/
theorem exec_keeps_setupCanonical (i : Instr) (s : State) (hd : SetupCanonical s.dev) :
    IfNext (fun t => SetupCanonical t.dev) (exec i s) := by
  cases hw : setsUp i with
  | true => exact exec_setsUp_canonical i s hw hd
  | false =>
    cases hr : i.resets with
    | true => exact (exec_resets_setup i s hr).mono (fun _ => hd.of_clearsOrKeeps)
    | false => exact (exec_sameSetup i s hw hr).mono (fun _ => hd.of_sameSetup)

/-- Settles O5: time passing keeps board and setup words, and every command keeps the form. -/
theorem stepKeepsSetupCanonical : Obligations.StepKeepsSetupCanonical := by
  unfold Obligations.StepKeepsSetupCanonical
  intro s hd
  unfold step
  split
  · exact hd.of_sameSetup s.tick_sameSetup
  · next c rest _ => exact exec_keeps_setupCanonical c { s with pending := rest } hd

end Sys2Proof
end

section
/-! Register writes before the lock (R9, R73, R142, R161, R187, R396): what each leaves. -/

namespace Sys2Proof.Machine

/-! ## Field by field (R396) -/

/-- A value of a field's width, shifted to its place, has no bit outside the field. -/
theorem dwN_field_getLsbD {lo w x k : Nat} (hx : x < 2 ^ w) (hk : k < lo ∨ lo + w ≤ k) : (dwN (x * 2 ^ lo)).getLsbD k = false := by
  rw [dwN, BitVec.getLsbD_ofNat, Nat.testBit_mul_two_pow]
  obtain hk | hk := hk
  · simp [Nat.not_le.2 hk]
  · have hxk : x < 2 ^ (k - lo) := Nat.lt_of_lt_of_le hx (Nat.pow_le_pow_right (by decide) (by omega))
    simp [Nat.testBit_lt_two_pow hxk]

/-- A bit that lies in no field written keeps its value. -/
theorem fldWrite_getLsbD_outside (l : List Fld) (old new : DW) {k : Nat} (hk : k < 32) (h : ∀ f ∈ l, k < f.lo ∨ f.lo + f.w ≤ k) :
    (fldWrite l old new).getLsbD k = old.getLsbD k := by
  unfold fldWrite
  induction l generalizing old with
  | nil => rfl
  | cons f l ih =>
    rw [List.foldl_cons, ih _ (fun g hg => h g (List.mem_cons_of_mem _ hg))]
    have hf := h f List.mem_cons_self
    have hmask := dwN_field_getLsbD (Nat.sub_lt (Nat.two_pow_pos f.w) Nat.one_pos) hf
    have hval := dwN_field_getLsbD (Nat.mod_lt (new.toNat / 2 ^ f.lo) (Nat.two_pow_pos f.w)) hf
    dsimp only
    split
    · simp only [BitVec.getLsbD_or, BitVec.getLsbD_and, BitVec.getLsbD_not, hmask, hval]
      simp [hk]
    · rfl

/-! ## Outcomes of register writes -/

/-- A running device after a register write has the setup words and the lock the write leaves; the rest is framed. -/
theorem State.runSetup_goes (s : State) (f : Dev → Dev) (h : s.dev.running = true) :
    s.runSetup f = .next { s with dev := { s.dev.framed (f s.dev) with setup := (f s.dev).setup, locked := (f s.dev).locked } } := by
  simp [State.runSetup, h]

/-- A plain setup word written before the lock goes through `Dev.writeSet`. -/
theorem Dev.writeWord_plain (d : Dev) (o : Nat) (v : DW) (hlock : d.locked = false) (h1 : o ≠ 0x1004)
    (h2 : ¬ (o = 0x1010 ∨ o = 0x1014 ∨ o = 0x8004 ∨ o = 0x18090)) (hown : ownWord o = false) (hl : rwlAt d.board.variant o ≠ []) :
    d.writeWord o v = d.writeSet o v := by
  have hfree : ¬ (d.locked = true ∨ (rwlAt d.board.variant o).isEmpty = true) := by simp [hlock, hl]
  rw [Dev.writeWord, if_neg h2, if_neg hfree, if_neg h1, if_neg (by simp [hown])]

theorem Dev.writeSet_locked (d : Dev) (o : Nat) (v : DW) (h : o ≠ 0x300C) : (d.writeSet o v).locked = d.locked := by
  rw [Dev.writeSet, if_neg h]
  rfl

/-- An aligned 32-bit write is the write of its word, framed: what settles after it touches no setup word and no lock. -/
theorem registerWrite_narrow (o : Nat) (v : QW) (d : Dev) (h : o % 4 = 0) :
    registerWrite o false v d = (d.writeWord o (dwN v.toNat)).framed (d.writeWord o (dwN v.toNat)).settle :=
  if_neg (not_not.2 h)

/-- A 32-bit write of a plain setup word leaves exactly that word written field by field (R9, R396). -/
theorem registerWrite_plain (o : Nat) (v : QW) (d : Dev) (ha : o % 4 = 0) (hlock : d.locked = false) (h1 : o ≠ 0x1004)
    (h2 : ¬ (o = 0x1010 ∨ o = 0x1014 ∨ o = 0x8004 ∨ o = 0x18090)) (h3 : o ≠ 0x300C) (hown : ownWord o = false)
    (hl : rwlAt d.board.variant o ≠ []) :
    SameSetup (d.setReg o (fldWrite (rwlAt d.board.variant o) (d.reg o) (dwN v.toNat))) (registerWrite o false v d) ∧
      (registerWrite o false v d).locked = false := by
  rw [registerWrite_narrow o v d ha, d.writeWord_plain o _ hlock h1 h2 hown hl]
  exact ⟨(d.writeSet_sameSetup o _ h3).trans (.framed _ _), (d.writeSet_locked o _ h3).trans hlock⟩

/-- A write that sets one setup word and leaves the lock open: that word reads as written, every other one as before. -/
theorem State.runSetup_setReg (s : State) {f : Dev → Dev} {o : Nat} {w : DW} (hrun : s.dev.running = true)
    (h : SameSetup (s.dev.setReg o w) (f s.dev)) (hlock : (f s.dev).locked = false) :
    ∃ t, s.runSetup f = .next t ∧ t.dev.reg o = w ∧ (∀ p, p ≠ o → t.dev.reg p = s.dev.reg p) ∧ t.dev.locked = false ∧
      t.dev.sheets = (f s.dev).sheets ∧ t.dev.host = (f s.dev).host := by
  have hs : SameSetup (s.dev.setReg o w) { s.dev.framed (f s.dev) with setup := (f s.dev).setup, locked := (f s.dev).locked } :=
    ⟨rfl, h.setup⟩
  exact ⟨_, s.runSetup_goes f hrun, (hs.reg o).trans (s.dev.reg_setReg_same o w),
    fun p hp => (hs.reg p).trans (s.dev.reg_setReg_ne w hp), hlock, rfl, rfl⟩

/-- A write that does nothing else leaves sheets and host memory too. -/
theorem State.runSetup_eq_setReg (s : State) {f : Dev → Dev} {o : Nat} {w : DW} (hrun : s.dev.running = true) (hlock : s.dev.locked = false)
    (he : f s.dev = s.dev.setReg o w) :
    ∃ t, s.runSetup f = .next t ∧ t.dev.reg o = w ∧ (∀ p, p ≠ o → t.dev.reg p = s.dev.reg p) ∧ t.dev.locked = false ∧
      t.dev.sheets = s.dev.sheets ∧ t.dev.host = s.dev.host := by
  have h := s.runSetup_setReg hrun (.of_eq he) ((congrArg Dev.locked he).trans hlock)
  rwa [he] at h

/-- A command of a running device that acts through `run` goes where its effect leads. -/
theorem goes_of_run {i : Instr} {s : State} {f : Dev → Dev} {e : Dev} (hrun : s.dev.running = true) (hx : exec i s = s.run f)
    (he : f s.dev = e) : Goes i s e := by
  rw [Goes, hx, s.run_goes f hrun, he]

/-! ## The writes with a row of their own, before the lock -/

/-- A non-zero seed is taken (R187). -/
theorem visDescSeedWrite_eq (v : DW) (d : Dev) (hlock : d.locked = false) (hv : v ≠ 0) : visDescSeedWrite v d = d.setReg 0xA000 v :=
  if_neg (not_or.2 ⟨by simp [hlock], hv⟩)

/-- A larger pool is taken when free T1 holds the increase (R73). -/
theorem spnSnsPoolWrite_grows (v : DW) (d : Dev) (hlock : d.locked = false) (hmax : bits v 7 0 ≤ t1Mib d.board.variant / 2)
    (hgrow : d.regF 0x300C 7 0 < bits v 7 0) (hfree : (bits v 7 0 - d.regF 0x300C 7 0) * 256 ≤ d.tierFree 0) :
    spnSnsPoolWrite v d = d.setReg 0x300C (dwN (bits v 7 0)) := by
  have hopen : ¬ (d.locked = true ∨ t1Mib d.board.variant / 2 < bits v 7 0) := by simp [hlock, hmax]
  unfold spnSnsPoolWrite
  dsimp only
  rw [if_neg hopen, if_pos hgrow, if_pos hfree]

end Sys2Proof.Machine

namespace Sys2Proof

open Machine

/-- Settles O26: each write sets its one word, or acts as its row says; the clauses go through `runSetup` and `run`. -/
theorem registerWritesComplete : Obligations.RegisterWritesComplete := by
  unfold Obligations.RegisterWritesComplete
  intro s hrun hlock d
  have hopen : ¬ d.locked = true := by simp [d, hlock]
  refine ⟨?plain, fun off v => ⟨_, rfl⟩, ?seed, ?pool, ?trig, ?arm⟩
  case plain =>
    intro off v t o l ha h4 h10 h14 h8 h18 hpool hown hl ht
    obtain ⟨hs, hk⟩ := registerWrite_plain o v d ha hlock h4 (by simp [h10, h14, h8, h18]) hpool hown hl
    obtain ⟨u, hu, hsame, hother, hu_lock, -, -⟩ := s.runSetup_setReg hrun hs hk
    cases hu.symm.trans ht
    exact ⟨hsame, fun k hk hout => by rw [hsame, fldWrite_getLsbD_outside l _ _ hk hout], hother, hu_lock⟩
  case seed =>
    intro v hv
    exact s.runSetup_eq_setReg hrun hlock (visDescSeedWrite_eq v d hlock hv)
  case pool =>
    intro v hmax hgrow hfree
    exact s.runSetup_eq_setReg hrun hlock (spnSnsPoolWrite_grows v d hlock hmax hgrow hfree)
  case trig =>
    intro n v b z
    have hwrite : tbTrigModeWrite n.val v d = if schedBad d.now z then d.setOwn b 1 else (d.setOwn b 0).queueTrig n.val none z :=
      if_neg hopen
    exact ⟨fun hz => goes_of_run hrun rfl (hwrite.trans (if_neg (by simp [hz]))),
      fun hz => goes_of_run hrun rfl (hwrite.trans (if_pos hz))⟩
  case arm =>
    intro v hv hswap
    have hnone : bitOf v 0 = true ∧ d.plg.swap.isNone = true := ⟨hv, by simp [hswap]⟩
    exact goes_of_run hrun rfl ((if_neg hopen).trans (if_pos hnone))

end Sys2Proof
end

section
/-! What leaves the timebase alone (R41, R66, R70): the end of a descriptor, the room a promotion makes, and the dispatch of parts. -/

namespace Sys2Proof.Machine

/-- Steps that each leave the timebase alone leave it alone together. -/
theorem foldl_tb {α : Type} {f : Dev → α → Dev} (h : ∀ d a, (f d a).tb = d.tb) (l : List α) (d : Dev) : (l.foldl f d).tb = d.tb := by
  induction l generalizing d with
  | nil => rfl
  | cons a l ih => exact (ih _).trans (h d a)

/-! ## Copies and their movers -/

@[simp] theorem Dev.addJob_tb (d : Dev) (m : Nat) (j : MoveJob) : (d.addJob m j).tb = d.tb := rfl

@[simp] theorem Dev.modCopy_tb (d : Dev) (k : Nat) (f : Copy → Copy) : (d.modCopy k f).tb = d.tb := by
  unfold Dev.modCopy
  split <;> rfl

@[simp] theorem Dev.dropCopy_tb (d : Dev) (k : Nat) : (d.dropCopy k).tb = d.tb := by
  unfold Dev.dropCopy
  split <;> rfl

@[simp] theorem Dev.drainCopy_tb (d : Dev) (k : Nat) : (d.drainCopy k).tb = d.tb := by
  unfold Dev.drainCopy
  split
  · rfl
  · dsimp only
    split <;> simp

@[simp] theorem Dev.evictBy_tb (d : Dev) (k c : Nat) : (d.evictBy k c).2.tb = d.tb := by
  unfold Dev.evictBy
  split
  · rfl
  · split
    · rfl
    · split
      · split <;> simp
      · split
        · split <;> simp
        · simp

@[simp] theorem Dev.evictUntil_tb (d : Dev) (c tier need : Nat) (l : List Nat) : (d.evictUntil c tier need l).tb = d.tb := by
  induction l generalizing d with
  | nil => rfl
  | cons k l ih =>
    unfold Dev.evictUntil
    split
    · rfl
    · rw [ih, Dev.evictBy_tb]

@[simp] theorem Dev.makeRoom_tb (d : Dev) (c tier need : Nat) : (d.makeRoom c tier need).1.tb = d.tb := by
  unfold Dev.makeRoom
  extract_lets e
  have he : e.tb = d.tb := by
    unfold e
    split <;> simp
  split
  · split
    · exact (foldl_tb (fun d j => d.modCopy_tb j _) _ e).trans he
    · exact he
  · split
    · exact he
    · split <;> exact he

@[simp] theorem Dev.startCopy_tb (d : Dev) (k : Nat) : (d.startCopy k).tb = d.tb := by
  unfold Dev.startCopy
  split
  · rfl
  · simp

@[simp] theorem Dev.promoRead_tb (d : Dev) (home id : Nat) : (d.promoRead home id).tb = d.tb := d.modSheet_tb home _

@[simp] theorem Dev.promote_tb (d : Dev) (home tier c mover cls req : Nat) : (d.promote home tier c mover cls req).1.tb = d.tb := by
  unfold Dev.promote
  extract_lets size s r e k mk f
  have he : e.tb = d.tb := d.makeRoom_tb c tier _
  split
  · rfl
  · split
    · exact he
    · split
      · exact (f.startCopy_tb k).trans he
      · exact he

@[simp] theorem Dev.leaveCopies_tb (d : Dev) (id : Nat) : (d.leaveCopies id).tb = d.tb := by
  refine foldl_tb (fun d p => ?_) _ d
  dsimp only
  split
  · split <;> simp
  · simp

/-! ## The end of a descriptor -/

@[simp] theorem Dev.dropJob_tb (d : Dev) (o : MoveOf) : (d.dropJob o).tb = d.tb := rfl
@[simp] theorem Dev.forget_tb (d : Dev) (id : Nat) : (d.forget id).tb = d.tb := rfl
@[simp] theorem Dev.crcDrop_tb (d : Dev) (id : Nat) : (d.crcDrop id).tb = d.tb := rfl

@[simp] theorem Dev.releaseAll_tb (d : Dev) (id : Nat) (st : Status) : (d.releaseAll id st).tb = d.tb :=
  foldl_tb (fun d i => d.modSheet_tb i _) _ d

@[simp] theorem Dev.sweepFree_tb (d : Dev) : d.sweepFree.tb = d.tb := by
  refine foldl_tb (fun d p => ?_) _ d
  split <;> rfl

@[simp] theorem Dev.crcTake_tb (d : Dev) : d.crcTake.tb = d.tb := by
  refine foldl_tb (fun d x => ?_) _ d
  split
  · rfl
  · dsimp only
    split <;> rfl

@[simp] theorem Dev.countCheck_tb (d : Dev) (opc : Nat) : (d.countCheck opc).tb = d.tb := by
  unfold Dev.countCheck
  split
  · rfl
  · split <;> rfl

@[simp] theorem Dev.stageRecord_tb (d : Dev) (slot stage : Nat) (x : Desc) (r : Fin_) : (d.stageRecord slot stage x r).tb = d.tb := by
  unfold Dev.stageRecord
  split
  · rfl
  · dsimp only
    split <;> split <;> rfl

/-- Its record is written without touching the timebase, in the completion ring or as a stage record. -/
@[simp] theorem Dev.finishDesc_tb (d : Dev) (id : Nat) (r : Fin_) : (d.finishDesc id r).tb = d.tb := by
  unfold Dev.finishDesc
  split
  · rfl
  · next x _ =>
    extract_lets r1 e f g
    have he : e.tb = d.tb := by
      unfold e
      split <;> simp
    have hf : f.tb = d.tb := by
      unfold f
      simp [he]
    clear_value f
    have hg : g.tb = d.tb := by
      unfold g
      split
      · split <;> simp [hf]
      · simp [hf]
    simp [hg]

@[simp] theorem Dev.endDesc_tb (d : Dev) (id : Nat) (r : Fin_) : (d.endDesc id r).tb = d.tb := by
  unfold Dev.endDesc
  split
  · exact d.finishDesc_tb id _
  · exact d.finishDesc_tb id r

/-! ## Dispatch -/

@[simp] theorem Dev.noteCut_tb (d : Dev) (x : Desc) : (d.noteCut x).tb = d.tb := by
  unfold Dev.noteCut
  split <;> rfl

@[simp] theorem Dev.takeNext_tb (d : Dev) (l : Nat) : (d.takeNext l).tb = d.tb := by
  unfold Dev.takeNext
  split
  · rfl
  · dsimp only
    split <;> rfl

@[simp] theorem Dev.cwPromote_tb (d : Dev) (c slot hold cls : Nat) (e : DW × Nat × Nat) : (d.cwPromote c slot hold cls e).tb = d.tb := by
  unfold Dev.cwPromote
  extract_lets i keep
  have hkeep (d : Dev) (k : Nat) : (keep d k).tb = d.tb := d.modCopy_tb k _
  split
  · rfl
  · split
    · exact hkeep _ _
    · split
      next rid d1 hid =>
        have hd1 : d1.tb = d.tb := (congrArg (fun p => p.2.tb) hid).symm
        have hp := ((d1.promoRead i rid).promote_tb i 0 c e.2.2 cls rid).trans hd1
        split
        · next d2 k hok =>
          rw [hok] at hp
          exact (hkeep d2 k).trans hp
        · next d2 st hno =>
          rw [hno] at hp
          exact hp

@[simp] theorem Dev.catchword_tb (d : Dev) (slot layer : Nat) : (d.catchword slot layer).tb = d.tb := by
  unfold Dev.catchword
  split
  · rfl
  · split
    · rfl
    · exact foldl_tb (fun d e => d.cwPromote_tb _ _ _ _ e) _ _

/-- Dispatching a descriptor's parts takes no time: it stands at the instant at which it became ready. -/
theorem Dev.dispatchParts_tb (d : Dev) (x : Desc) : (d.dispatchParts x).tb = d.tb := by
  unfold Dev.dispatchParts
  extract_lets ps e f
  have hf : f.tb = d.tb := (foldl_tb (fun d l => d.takeNext_tb l) _ e).trans (d.noteCut_tb x)
  split
  · exact d.endDesc_tb x.id _
  · split
    · split
      · exact (f.catchword_tb _ _).trans hf
      · exact hf
    · exact hf

end Sys2Proof.Machine
end

section
/-! The rows that present a descriptor (R83–R90): an accepted one is launched, on a leaf or by the device itself. -/

namespace Sys2Proof.Machine

/-! ## From the command to the launch -/

/-- A row presents its descriptor from one of the 64 contexts. -/
theorem presented_ctx_lt {i : Instr} {c : Nat} {w : DescWords} (h : i.presented = some (c, w)) : c < 64 := by
  cases i <;> cases h <;> exact Fin.isLt _

/-- A row that presents a descriptor submits it, and does nothing else. -/
theorem exec_of_presented {i : Instr} {c : Nat} {w : DescWords} (s : State) (h : i.presented = some (c, w)) :
    exec i s = s.run (fun d => d.submit c w) := by
  cases i <;> cases h <;> rfl

/-- An accepted descriptor is launched, whichever row presents it. -/
theorem goes_of_accepted {i : Instr} {s : State} {c : Nat} {w : DescWords} (hp : i.presented = some (c, w)) (hrun : s.dev.running = true)
    (ht : s.dev.takes c) (hj : (s.dev.queued c w).judge c 0 = .accepted 1) :
    Goes i s ((s.dev.taken c w).1.launch (s.dev.taken c w).2 true).settle :=
  goes_of_run hrun (exec_of_presented s hp) (s.dev.submit_accepted c w (presented_ctx_lt hp) ht hj)

/-- A descriptor of a leaf opcode is launched onto the leaves. -/
theorem Dev.launch_leaf {d : Dev} {id : Nat} {x : Desc} (whole : Bool) (hx : d.desc? id = some x) (hleaf : (opDefOf x.w).isSome = true) :
    d.launch id whole = d.tryRun id whole := by
  unfold Dev.launch
  rw [hx]
  exact if_pos hleaf

/-- A descriptor no leaf runs has its effect from the device itself. -/
theorem Dev.launch_ctl {d : Dev} {id : Nat} {x : Desc} (whole : Bool) (hx : d.desc? id = some x) (hctl : opDefOf x.w = none) :
    d.launch id whole = d.startCtl x whole := by
  unfold Dev.launch
  rw [hx]
  exact if_neg (by simp [hctl])

/-! ## Whole on the leaves (R33, R36, R41) -/

/-- A ready descriptor that stands alone on idle leaves runs whole: its parts are dispatched, end at once, and it finishes. -/
theorem Dev.tryRun_runs {d : Dev} {id : Nat} {y : Desc} (hy : (d.resolve id).desc? id = some y) (hdoom : (d.resolve id).doomOf y = none)
    (hready : (d.resolve id).readyToRun y = true) (hphase : y.phase = .waiting) (hlong : (d.resolve id).copyShort y = false)
    (hidle : (d.resolve id).runsNow y = true) :
    d.tryRun id true =
      ((((d.resolve id).dispatchParts y).modDesc id
        (fun v => { v with parts := endParts (d.resolve id).now v.parts })).crcTake).finishRun id := by
  have hnow : ((d.resolve id).dispatchParts y).now = (d.resolve id).now := congrArg (fun t => t.time.toNat) (Dev.dispatchParts_tb _ y)
  unfold Dev.tryRun
  simp [hy, hdoom, hready, hphase, hlong, hidle, hnow]

/-- A descriptor whose copies are long enough and whose REPLICATE members agree concludes with its operation's result (R39, R41). -/
theorem Dev.finishRun_concludes {d : Dev} {id : Nat} {z : Desc} {o : OpDef} (hz : d.desc? id = some z) (ho : opDefOf z.w = some o)
    (hlong : d.copyShort z = false) (hagree : z.dissents = []) : d.finishRun id = d.conclude z (o.run d z) := by
  unfold Dev.finishRun
  simp [hz, ho, hlong, hagree]

end Sys2Proof.Machine

namespace Sys2Proof

open Machine

/-- Settles O15: the accepted descriptor is launched onto the leaves, runs whole there, and concludes. -/
theorem leafOperationsConclude : Obligations.LeafOperationsConclude := by
  unfold Obligations.LeafOperationsConclude
  intro i s c w x y z o hp hrun ht hj id d e hx hleaf hy hdoom hready hphase hlong hidle hz ho hlong' hagree
  have hwhole : (s.dev.taken c w).1.launch id true = e.conclude z (o.run e z) :=
    calc (s.dev.taken c w).1.launch id true
      _ = (s.dev.taken c w).1.tryRun id true := Dev.launch_leaf true hx hleaf
      _ = e.finishRun id := Dev.tryRun_runs hy hdoom hready hphase hlong hidle
      _ = e.conclude z (o.run e z) := Dev.finishRun_concludes hz ho hlong' hagree
  rw [← hwhole]
  exact goes_of_accepted hp hrun ht hj

end Sys2Proof
end

section
/-! NOP, contexts and gatherings as opcode rows (R29, R34, R80, R81, R89, R103): what the device does itself with an accepted one. -/

namespace Sys2Proof.Machine

/-! ## The operands of a presented descriptor -/

@[simp] theorem withOp_target (w : DescWords) (n : Nat) : (w.withOp n).target = w.target := by
  simp only [DescWords.target, DescWords.f, withOp_dw w n 1 (by decide)]

@[simp] theorem withOp_f_six (w : DescWords) (n hi lo : Nat) : (w.withOp n).f 6 hi lo = w.f 6 hi lo := by
  simp only [DescWords.f, withOp_dw w n 6 (by decide)]

/-! ## The effect by opcode -/

/-- The opcodes below those of the leaves are the device's own. -/
theorem opDefOf_withOp_none (w : DescWords) {n : Nat} (h : n < 0x20) : opDefOf (w.withOp n) = none := by
  unfold opDefOf
  rw [withOp_opc w n (by omega)]
  interval_cases n <;> rfl

theorem Dev.starts.opc {d : Dev} {c n : Nat} {w : DescWords} {x : Desc} (h : d.starts c (w.withOp n) x) (hn : n < 256) : x.w.opc = n := by
  obtain ⟨-, -, -, hw⟩ := h
  rw [hw, withOp_opc w n hn]

/-- A row of the device's own has the effect of `Dev.startCtl` on the device that accepted its descriptor. -/
theorem goes_of_starts {i : Instr} {s : State} {c n : Nat} {w : DescWords} {x : Desc} {e : Dev} (hp : i.presented = some (c, w.withOp n))
    (hrun : s.dev.running = true) (hn : n < 0x20) (hs : s.dev.starts c (w.withOp n) x)
    (he : (s.dev.taken c (w.withOp n)).1.startCtl x true = e) : Goes i s e.settle := by
  obtain ⟨ht, hj, hx, hw⟩ := hs
  rw [← he, ← Dev.launch_ctl true hx (hw ▸ opDefOf_withOp_none w hn)]
  exact goes_of_accepted hp hrun ht hj

section
variable {d : Dev} {x : Desc} {whole : Bool}

theorem Dev.startCtl_nop (h : x.w.opc = 0x00) : d.startCtl x whole = d.endDesc x.id { st := .done } := by
  simp only [Dev.startCtl, h]

theorem Dev.startCtl_bind (h : x.w.opc = 0x01) : d.startCtl x whole = d.runBind x := by
  simp only [Dev.startCtl, h]

theorem Dev.startCtl_unbind (h : x.w.opc = 0x02) : d.startCtl x whole = d.runUnbind x := by
  simp only [Dev.startCtl, h]

theorem Dev.startCtl_open (h : x.w.opc = 0x03) : d.startCtl x whole = d.runOpen x := by
  simp only [Dev.startCtl, h]

theorem Dev.startCtl_tear (h : x.w.opc = 0x04) : d.startCtl x whole = d.runTear x := by
  simp only [Dev.startCtl, h]

end

end Sys2Proof.Machine

namespace Sys2Proof

open Machine

/-- Settles O38: each row has its own effect at acceptance, its operands read from the words presented. -/
theorem contextAndGatheringRowsComplete : Obligations.ContextAndGatheringRowsComplete := by
  unfold Obligations.ContextAndGatheringRowsComplete
  intro c w x s hrun at_ go
  have hw {n : Nat} (hs : go n) : x.w = w.withOp n := hs.2.2.2
  refine ⟨?nop, ?opening, ?tear, ?bind, ?unbind⟩
  case nop =>
    intro hs
    exact goes_of_starts rfl hrun (by decide) hs (Dev.startCtl_nop (hs.opc (by decide)))
  case opening =>
    intro hs
    exact goes_of_starts rfl hrun (by decide) hs (by
      rw [Dev.startCtl_open (hs.opc (by decide)), Dev.runOpen, hw hs, withOp_f_six])
  case tear =>
    intro hs
    exact goes_of_starts rfl hrun (by decide) hs (by
      rw [Dev.startCtl_tear (hs.opc (by decide)), Dev.runTear, hw hs, withOp_f_six])
  case bind =>
    intro hs
    exact goes_of_starts rfl hrun (by decide) hs (by
      rw [Dev.startCtl_bind (hs.opc (by decide)), Dev.runBind, hw hs, withOp_target])
  case unbind =>
    intro hs
    exact goes_of_starts rfl hrun (by decide) hs (by
      rw [Dev.startCtl_unbind (hs.opc (by decide)), Dev.runUnbind, hw hs, withOp_target])

end Sys2Proof
end

section
/-! Events of units, sheets, movers and copies (R34, R53, R61, R66, R68, R101): what each does when nothing holds it back. -/

namespace Sys2Proof.Machine

/-- As `goes_of_run`, for a command that settles. -/
theorem goes_of_run_settle {i : Instr} {s : State} {f : Dev → Dev} {e : Dev} (hrun : s.dev.running = true)
    (hx : exec i s = s.run (fun d => (f d).settle)) (he : f s.dev = e) : Goes i s e.settle :=
  goes_of_run hrun hx (congrArg Dev.settle he)

/-! ## Rebinding, draining, freeing -/

/-- A rebinding with nothing left to wait for ends (R34). -/
theorem Dev.rebindDone_ends {d : Dev} {id : Nat} {x : Desc} (hx : d.desc? id = some x) (hw : x.await_ = .rebind []) :
    d.rebindDone id = d.endDesc id { st := .done, r4 := x.r4, r5 := x.r5 } := by
  unfold Dev.rebindDone
  simp only [hx, hw]

/-- An expired drain that waits for nothing aborts nothing (R101). -/
theorem unitDisableDrainExpiry_none {d : Dev} {id : Nat} {r : Drain} (hr : d.drains.find? (fun r => r.owner == id) = some r)
    (ht : r.until_ ≤ d.now) (hw : r.waits = []) : unitDisableDrainExpiry id d = d.settle := by
  unfold unitDisableDrainExpiry
  simp [hr, hw, mapIf, Nat.not_lt.2 ht]

/-- An expired drain that waits for one running descriptor ends it (R101). -/
theorem unitDisableDrainExpiry_one {d : Dev} {id k : Nat} {r : Drain} {y : Desc} (hr : d.drains.find? (fun r => r.owner == id) = some r)
    (ht : r.until_ ≤ d.now) (hw : r.waits = [k]) (hy : d.desc? k = some y) (hp : y.phase = .dispatched) (ha : y.await_ = .run) :
    unitDisableDrainExpiry id d =
      (({ d with drains := mapIf (fun z => z.owner == id) (fun z => { z with aborted := z.aborted + 1 }) d.drains } : Dev).endDesc k
        { st := .abortedFence }).settle := by
  unfold unitDisableDrainExpiry
  simp [hr, hw, hy, hp, ha, Nat.not_lt.2 ht]

/-- A freed sheet nothing holds returns its space, and its SHEET_FREE ends (R53). -/
theorem sheetFreeComplete_returns {d : Dev} {id i : Nat} {x : Desc} (hx : d.desc? id = some x) (hw : x.await_ = .free i [])
    (hf : d.freeable i = true) : sheetFreeComplete id d = (d.returnSheet i).endDesc id { st := .done } := by
  unfold sheetFreeComplete
  simp [hx, hw, hf]

/-! ## A segment of a mover (R61) -/

section
variable {d : Dev} {m : Nat} {j : MoveJob} {rest : List MoveJob}

/-- A mover that may pass a segment of the work at its head. -/
structure Dev.MayPass (d : Dev) (m : Nat) (j : MoveJob) (rest : List MoveJob) : Prop where
  jobs    : (d.mover m).jobs = j :: rest
  noReset : (d.mover m).resetAt = none
  inServ  : (d.mover m).oos = false
  free    : d.jobStalled j = false

/-- The device once a mover has done with the work at its head. -/
def Dev.afterJob (d : Dev) (m : Nat) (rest : List MoveJob) : Dev := d.modMover m (fun x => { x with jobs := rest }.begin_)

theorem moverSegmentDone_more (h : d.MayPass m j rest) (hs : 1 < j.segs) :
    moverSegmentDone m d =
      d.modMover m (fun x => { x with jobs := insertBy jobLe { j with segs := j.segs - 1, running := true } rest }.begin_) := by
  unfold moverSegmentDone
  simp [h.jobs, h.noReset, h.inServ, h.free, hs]

theorem moverSegmentDone_copy {k : Nat} (h : d.MayPass m j rest) (hs : j.segs ≤ 1) (ho : j.own = .copy k) :
    moverSegmentDone m d = d.afterJob m rest := by
  unfold moverSegmentDone
  simp [h.jobs, h.noReset, h.inServ, h.free, Nat.not_lt.2 hs, ho, Dev.afterJob]

theorem moverSegmentDone_crc {id : Nat} {x : Desc} (h : d.MayPass m j rest) (hs : j.segs ≤ 1) (ho : j.own = .desc id)
    (hx : (d.afterJob m rest).desc? id = some x) (hop : x.w.opc = 0x7C) :
    moverSegmentDone m d = (d.afterJob m rest).runCrc x (((d.afterJob m rest).crcUnit id).getD 6) := by
  unfold Dev.afterJob at hx ⊢
  unfold moverSegmentDone
  simp [h.jobs, h.noReset, h.inServ, h.free, Nat.not_lt.2 hs, ho, hx, hop]

theorem moverSegmentDone_move {id : Nat} {x : Desc} (h : d.MayPass m j rest) (hs : j.segs ≤ 1) (ho : j.own = .desc id)
    (hx : (d.afterJob m rest).desc? id = some x) (hop : x.w.opc ≠ 0x7C) :
    moverSegmentDone m d = (d.afterJob m rest).runMove x := by
  unfold Dev.afterJob at hx ⊢
  unfold moverSegmentDone
  simp [h.jobs, h.noReset, h.inServ, h.free, Nat.not_lt.2 hs, ho, hx, hop]

end

/-! ## A promotion whose segments are moved (R60, R63, R66, R68) -/

@[simp] theorem Dev.eccCe_copies (d : Dev) (t n : Nat) : (d.eccCe t n).copies = d.copies := by
  unfold Dev.eccCe
  extract_lets e since due
  split
  · exact Dev.event_copies _ _
  · rfl

@[simp] theorem Dev.queueHint_copies (d : Dev) (at_ : Store) (line : Nat) : (d.queueHint at_ line).copies = d.copies := by
  unfold Dev.queueHint
  split
  · rfl
  · split <;> rfl

@[simp] theorem Dev.eccWord_copies (d : Dev) (u : Consumer) (p : Nat × Byte) : (d.eccWord u p).1.copies = d.copies := by
  unfold Dev.eccWord
  split
  · rfl
  · cases u.store <;> simp
  · rfl
  · exact Dev.event_copies _ _

@[simp] theorem Dev.eccWords_copies (d : Dev) (u : Consumer) (l : List (Nat × Byte)) : (d.eccWords u l).1.copies = d.copies := by
  unfold Dev.eccWords
  refine List.foldlRecOn (motive := fun acc : Dev × BitVec 16 × Bool => acc.1.copies = d.copies) l _ rfl (fun acc hacc p _ => ?_)
  exact (acc.1.eccWord_copies u p).trans hacc

/-- The decoding of a home leaves every copy as it is. -/
theorem Dev.decodeHome_copies (d : Dev) (i : Nat) (tag : BitVec 16) (c : Option Nat) : (d.decodeHome i tag c).1.copies = d.copies := by
  unfold Dev.decodeHome
  split
  · exact d.eccWords_copies _ _
  · rfl

/-- A copy is being promoted and no mover has work left for it. -/
structure Dev.AllMoved (d : Dev) (k : Nat) (c : Copy) : Prop where
  copy   : d.copy? k = some c
  status : c.st = .promoting
  moved  : d.movers.toList.any (fun m => m.jobs.any (fun j => j.own == .copy k)) = false

theorem Dev.AllMoved.mayEnd {d : Dev} {k : Nat} {c : Copy} (h : d.AllMoved k c) :
    ¬ (c.st ≠ .promoting ∨ d.movers.toList.any (fun m => m.jobs.any (fun j => j.own == .copy k)) = true) :=
  not_or.2 ⟨not_not.2 h.status, Bool.eq_false_iff.1 h.moved⟩

/-- The decoding of a promoted home: the device after, the flags met, and whether a word was lost. -/
def Dev.promoDecode (d : Dev) (c : Copy) : Dev × BitVec 16 × Bool :=
  d.decodeHome c.home (((d.desc? c.order).map (fun y => y.w.tag)).getD 0) ((d.desc? c.order).map (fun y => y.ctx))

/-- The device that has decoded a promoted home and flagged those the promotion serves. -/
def Dev.promoFlagged (d : Dev) (k : Nat) (c : Copy) : Dev := (d.promoDecode c).1.flagCopy k c.users (d.promoDecode c).2.1

theorem Dev.promoFlagged_copy (d : Dev) (k : Nat) {j : Nat} {c x : Copy} (h : d.copy? j = some x) : (d.promoFlagged k c).copy? j = some x := by
  rw [← h]
  exact congrArg (fun t => Tab.get? t j) (d.decodeHome_copies c.home _ _)

/-- Changes of a copy that agree on the copy as it stands are the same. -/
theorem Dev.modCopy_congr {d : Dev} {k : Nat} {c : Copy} {f g : Copy → Copy} (hc : d.copy? k = some c) (hfg : f c = g c) :
    d.modCopy k f = d.modCopy k g := by
  simp only [Dev.modCopy, hc, hfg]

/-- The device in which a copy has become PRESENT with some content, and the promotion's own read of the home has ended. -/
def Dev.madePresent (d : Dev) (k : Nat) (c : Copy) (b : Bytes) : Dev :=
  ((d.modCopy k (fun c' => { c' with
    st := .present
    cells := Mem.write [] 0 b
    synd := if (d.sheet c'.home).zp then [] else (d.sheet c'.home).synd
    stamp := d.now
    presentAt := d.now
    size := b.length
    evicts := [] })).count cPromote).modSheet c.home (fun z => z.release c.order .done)

/-- No eviction waited for the copy. -/
theorem Dev.actEvicts_none (d : Dev) (k : Nat) {c : Copy} (h : c.evicts = []) : d.actEvicts k c = d := by
  unfold Dev.actEvicts
  simp [h]

section
variable {d : Dev} {k : Nat} {c : Copy} {b : Bytes}

theorem copyPresent_lost (h : d.AllMoved k c) (hl : (d.promoDecode c).2.2 = true) :
    copyPresent k d = (d.promoFlagged k c).endCopy k .failedUncorrectable := by
  unfold copyPresent
  simp only [h.copy]
  exact (if_neg h.mayEnd).trans (if_pos hl)

theorem copyPresent_malformed (h : d.AllMoved k c) (hl : (d.promoDecode c).2.2 = false) (hb : (d.promoFlagged k c).homePlain c.home = none) :
    copyPresent k d = ((d.promoFlagged k c).count cZpFail).endCopy k .failedCheck := by
  unfold copyPresent
  simp only [h.copy]
  refine (if_neg h.mayEnd).trans ((if_neg (Bool.eq_false_iff.1 hl)).trans ?_)
  split
  · rfl
  · next b hb' =>
    cases hb.symm.trans hb'

theorem copyPresent_pastTile (h : d.AllMoved k c) (hl : (d.promoDecode c).2.2 = false) (hb : (d.promoFlagged k c).homePlain c.home = some b)
    (ht : (d.promoFlagged k c).pastTile ((d.promoFlagged k c).sheet c.home).tier c.tier b.length = true) :
    copyPresent k d = (d.promoFlagged k c).endCopy k .refusedMalformed := by
  unfold copyPresent
  simp only [h.copy]
  refine (if_neg h.mayEnd).trans ((if_neg (Bool.eq_false_iff.1 hl)).trans ?_)
  split
  · next hb' =>
    cases hb.symm.trans hb'
  · next b' hb' =>
    cases hb.symm.trans hb'
    exact if_pos ht

/-- A promotion that no one waits for makes its copy PRESENT and does nothing else. -/
theorem copyPresent_present (h : d.AllMoved k c) (hl : (d.promoDecode c).2.2 = false) (hb : (d.promoFlagged k c).homePlain c.home = some b)
    (ht : (d.promoFlagged k c).pastTile ((d.promoFlagged k c).sheet c.home).tier c.tier b.length = false) (husers : c.users = [])
    (hevicts : c.evicts = []) (hown : d.desc? c.order = none)
    (hawait : ((d.promoFlagged k c).madePresent k c b).descs.any (fun x => x.await_ == .copy k false) = false)
    (hfree : (((d.promoFlagged k c).madePresent k c b).sheet c.home).freeing = false) :
    copyPresent k d = (d.promoFlagged k c).madePresent k c b := by
  unfold copyPresent
  rw [h.copy]
  refine (if_neg h.mayEnd).trans ?_
  extract_lets own r f home
  refine (if_neg (Bool.eq_false_iff.1 hl)).trans ?_
  split
  · next hb' =>
    cases hb.symm.trans hb'
  · next _ hb' =>
    cases hb.symm.trans hb'
    refine (if_neg (Bool.eq_false_iff.1 ht)).trans ?_
    extract_lets made counted released unstalled ids ended acted
    have hnone : ¬ own.isSome = true := by simp [own, hown]
    have hreleased : released = f.madePresent k c b :=
      (if_neg hnone).trans
        (congrArg (fun e : Dev => (e.count cPromote).modSheet c.home _) (Dev.modCopy_congr (d.promoFlagged_copy k h.copy) rfl))
    have hunstalled : unstalled = f.madePresent k c b := by
      unfold unstalled
      rw [husers]
      exact hreleased
    have hids : ids = [] := by
      unfold ids
      rw [hunstalled]
      exact congrArg (List.map _) (List.filter_eq_nil_iff.2 (List.any_eq_false.1 hawait))
    have hended : ended = f.madePresent k c b := by
      unfold ended
      rw [hids]
      exact hunstalled
    have hacted : acted = f.madePresent k c b := (ended.actEvicts_none k hevicts).trans hended
    rw [hacted]
    exact if_neg (fun hd => absurd hd.1 (Bool.eq_false_iff.1 hfree))

end

end Sys2Proof.Machine

namespace Sys2Proof

open Machine

/-- Settles O28: each event acts as its row says; of a promotion, by what the decoding of its home gives. -/
theorem unitAndSheetEventsComplete : Obligations.UnitAndSheetEventsComplete := by
  unfold Obligations.UnitAndSheetEventsComplete
  intro s hrun d
  refine ⟨?rebind, ?drain, ?free, ?segment, ?promotion, ?starts⟩
  case rebind =>
    intro id x hx hw
    exact goes_of_run hrun rfl (Dev.rebindDone_ends hx hw)
  case drain =>
    intro id r hr ht
    exact ⟨fun hw => goes_of_run hrun rfl (unitDisableDrainExpiry_none hr ht hw),
      fun k y hw hy hp ha => goes_of_run hrun rfl (unitDisableDrainExpiry_one hr ht hw hy hp ha)⟩
  case free =>
    intro id i x hx hw hf
    exact goes_of_run_settle hrun rfl (sheetFreeComplete_returns hx hw hf)
  case segment =>
    intro m j rest hjobs hreset hoos hstall
    have hpass : d.MayPass m.val j rest := ⟨hjobs, hreset, hoos, hstall⟩
    refine ⟨fun hs => goes_of_run_settle hrun rfl ((moverSegmentDone_more hpass hs)), fun hs => ⟨?_, ?_⟩⟩
    · intro k ho
      exact goes_of_run_settle hrun rfl (moverSegmentDone_copy hpass hs ho)
    · intro id x ho hx
      exact ⟨fun hop => goes_of_run_settle hrun rfl (moverSegmentDone_crc hpass hs ho hx hop),
        fun hop => goes_of_run_settle hrun rfl (moverSegmentDone_move hpass hs ho hx hop)⟩
  case promotion =>
    intro k c hc hst hjobs x r f
    have hmoved : d.AllMoved k c := ⟨hc, hst, hjobs⟩
    refine ⟨fun hl => ?_, fun hl hb => ?_, fun b hl hb => ⟨fun ht => ?_, ?_⟩⟩
    · exact goes_of_run_settle hrun rfl (copyPresent_lost hmoved hl)
    · exact goes_of_run_settle hrun rfl (copyPresent_malformed hmoved hl hb)
    · exact goes_of_run_settle hrun rfl (copyPresent_pastTile hmoved hl hb ht)
    · intro ht husers hevicts hown e hawait hfree
      exact goes_of_run_settle hrun rfl (copyPresent_present hmoved hl hb ht husers hevicts hown hawait hfree)
  case starts =>
    intro k hk
    exact goes_of_run_settle hrun rfl (if_pos hk)

end Sys2Proof
end

section
/-! ZERO-PACK (R62, R63): unpacking what was packed gives the plain bytes back. -/

namespace Sys2Proof.Machine

/-! ## Fields and slices of byte strings -/

@[simp] theorem toLe_length (v n : Nat) : (toLe v n).length = n := by
  induction n generalizing v with
  | zero => rfl
  | succ n ih => simp [toLe, ih]

/-- A number that fits its field is spelled back. -/
theorem leNat_toLe_of_lt {v n : Nat} (h : v < 256 ^ n) : leNat (toLe v n) = v := by
  induction n generalizing v with
  | zero =>
    obtain rfl : v = 0 := by simpa using h
    rfl
  | succ n ih =>
    have hrest : leNat (toLe (v / 256) n) = v / 256 := ih (Nat.div_lt_of_lt_mul (by rwa [Nat.mul_comm, ← Nat.pow_succ]))
    simp [toLe, leNat, hrest, Nat.mod_add_div]

/-- A field of a byte string reads back at its place. -/
theorem bnat_toLe {pre post : Bytes} {v o n : Nat} (ho : pre.length = o) (hv : v < 256 ^ n) : bnat (pre ++ (toLe v n ++ post)) o n = v := by
  subst ho
  simp [bnat, leNat_toLe_of_lt hv]

theorem bnat_toLe_head {post : Bytes} {v n : Nat} (hv : v < 256 ^ n) : bnat (toLe v n ++ post) 0 n = v := by
  simp [bnat, leNat_toLe_of_lt hv]

/-- A slice is the bytes from its offset on, zero past the end. -/
theorem bslice_eq_map (b : Bytes) (o n : Nat) : bslice b o n = (List.range n).map (fun k => b.getD (o + k) 0) := by
  refine List.ext_getElem (by simp [bslice]) (fun k _ hkn => ?_)
  simp only [bslice, List.getElem_append, List.getElem_map, List.getElem_range, List.getD_eq_getElem?_getD]
  simp only [List.length_map, List.length_range] at hkn
  split
  next h =>
    have hk : o + k < b.length := by
      simp only [List.length_take, List.length_drop] at h
      omega
    simp [hk]
  next h =>
    have hk : b.length ≤ o + k := by
      simp only [List.length_take, List.length_drop] at h
      omega
    simp [hk]

@[simp] theorem bslice_length (b : Bytes) (o n : Nat) : (bslice b o n).length = n := by simp [bslice_eq_map]

/-- A part of a byte string is the slice at its place. -/
theorem bslice_of_append {pre b post : Bytes} {o n : Nat} (ho : pre.length = o) (hn : b.length = n) : bslice (pre ++ (b ++ post)) o n = b := by
  subst ho hn
  simp [bslice]

/-- A whole string is its slice from the start. -/
theorem bslice_self {b : Bytes} {n : Nat} (hn : b.length = n) : bslice b 0 n = b := by
  simpa using bslice_of_append (pre := []) (post := []) rfl hn

theorem bslice_add (b : Bytes) (o m n : Nat) : bslice b o (m + n) = bslice b o m ++ bslice b (o + m) n := by
  simp [bslice_eq_map, List.range_add, Nat.add_assoc]

/-- A slice past the end of a string begins with the whole of it. -/
theorem take_bslice {b : Bytes} {n : Nat} (h : b.length ≤ n) : (bslice b 0 n).take b.length = b := by
  simp [bslice, List.take_of_length_le h]

@[simp] theorem padTo_four_length (b : Bytes) : (padTo 4 b).length = alignUp b.length 4 := by
  simp [padTo, alignUp]
  omega

/-! ## The bitmap of a packed block -/

/-- Bits as a number: the sum of the powers of two at the places where `p` fails. -/
def bitSum (p : Nat → Prop) [DecidablePred p] (n : Nat) : Nat := (List.range n).foldl (fun s j => s + (if p j then 0 else 2 ^ j)) 0

section
variable (p : Nat → Prop) [DecidablePred p]

theorem bitSum_succ (n : Nat) : bitSum p (n + 1) = bitSum p n + (if p n then 0 else 2 ^ n) := by
  simp [bitSum, List.range_succ]

theorem bitSum_lt (n : Nat) : bitSum p n < 2 ^ n := by
  induction n with
  | zero => simp [bitSum]
  | succ n ih =>
    rw [bitSum_succ]
    split <;> omega

theorem bitSum_testBit {n i : Nat} (hi : i < n) : (bitSum p n).testBit i = !decide (p i) := by
  induction n with
  | zero => omega
  | succ n ih =>
    rw [bitSum_succ]
    rcases Nat.lt_succ_iff_lt_or_eq.1 hi with hi | rfl
    · split
      · exact ih hi
      · rw [Nat.add_comm, Nat.testBit_two_pow_add_gt hi, ih hi]
    · split
      next h => simp [h, Nat.testBit_lt_two_pow (bitSum_lt p i)]
      next h => simp [h, Nat.add_comm, Nat.testBit_two_pow_add_eq, Nat.testBit_lt_two_pow (bitSum_lt p i)]

end

/-- The bitmap of a block: one bit for each of its 256 bytes, set where the byte is not zero. -/
def zpBitmap (b : Bytes) : Bytes := (List.range 32).map (fun k => BitVec.ofNat 8 (bitSum (fun j => b.getD (8 * k + j) 0 = 0) 8))

@[simp] theorem zpBitmap_length (b : Bytes) : (zpBitmap b).length = 32 := by simp [zpBitmap]

theorem zpBitmap_bit (b : Bytes) {i : Nat} (hi : i < 256) : ((zpBitmap b).getD (i / 8) 0).getLsbD (i % 8) = !decide (b.getD i 0 = 0) := by
  have hk : i / 8 < 32 := by omega
  have hj : i % 8 < 8 := by omega
  have hbyte : (zpBitmap b).getD (i / 8) 0 = BitVec.ofNat 8 (bitSum (fun j => b.getD (8 * (i / 8) + j) 0 = 0) 8) := by
    simp [zpBitmap, hk]
  rw [hbyte, BitVec.getLsbD_ofNat, bitSum_testBit _ hj, Nat.div_add_mod]
  simp [hj]

/-! ## The bytes of a packed block, put back in their places -/

/-- What unpacking has after the first `n` places: at a set bit the next byte of `src`, else zero, and how many bytes it took. -/
def zpScatter (bit : Nat → Bool) (src : Nat → Byte) (n : Nat) : Bytes × Nat :=
  (List.range n).foldl (fun acc i => if bit i then (acc.1 ++ [src acc.2], acc.2 + 1) else (acc.1 ++ [0], acc.2)) ([], 0)

theorem zpScatter_succ (bit : Nat → Bool) (src : Nat → Byte) (n : Nat) :
    zpScatter bit src (n + 1) =
      if bit n then ((zpScatter bit src n).1 ++ [src (zpScatter bit src n).2], (zpScatter bit src n).2 + 1)
      else ((zpScatter bit src n).1 ++ [0], (zpScatter bit src n).2) := by
  simp [zpScatter, List.range_succ]

/-- The bytes of a block that are not zero, in order: what a packed entry carries. -/
def nonZero (b : Bytes) : Bytes := b.filter (· ≠ 0)

theorem nonZero_append (a b : Bytes) : nonZero (a ++ b) = nonZero a ++ nonZero b := List.filter_append a b

theorem nonZero_cons (x : Byte) (b : Bytes) : nonZero (x :: b) = (if x = 0 then [] else [x]) ++ nonZero b := by
  by_cases h : x = 0
  · simp [nonZero, h]
  · rw [if_neg h]
    exact List.filter_cons_of_pos (by simpa using h)

/-- A byte that is not zero stands among those of its block behind the ones before it. -/
theorem nonZero_getD {b : Bytes} {n : Nat} (hn : n < b.length) (h : b.getD n 0 ≠ 0) :
    (nonZero b).getD (nonZero (b.take n)).length 0 = b.getD n 0 := by
  have hb : b.getD n 0 = b[n] := by simp [hn]
  have hsplit : nonZero b = nonZero (b.take n) ++ b[n] :: nonZero (b.drop (n + 1)) :=
    calc nonZero b
      _ = nonZero (b.take n ++ b[n] :: b.drop (n + 1)) := by rw [← List.drop_eq_getElem_cons hn, List.take_append_drop]
      _ = _ := by rw [nonZero_append, nonZero_cons, if_neg (hb ▸ h)]; rfl
  rw [hsplit, hb]
  simp

/-- Guided by a block's bitmap, its non-zero bytes go back to their places. -/
theorem zpScatter_eq {b : Bytes} {bit : Nat → Bool} {src : Nat → Byte} (hbit : ∀ i < b.length, bit i = !decide (b.getD i 0 = 0))
    (hsrc : ∀ k < (nonZero b).length, src k = (nonZero b).getD k 0) {n : Nat} (hn : n ≤ b.length) :
    zpScatter bit src n = (b.take n, (nonZero (b.take n)).length) := by
  induction n with
  | zero => rfl
  | succ n ih =>
    have hlt : n < b.length := hn
    have htake : b.take (n + 1) = b.take n ++ [b.getD n 0] := by simp [hlt]
    rw [zpScatter_succ, ih (by omega), hbit n hlt, htake]
    rw [nonZero_append, nonZero_cons]
    by_cases h : b.getD n 0 = 0
    · simp only [h]
      simp [nonZero]
    · have hk : (nonZero (b.take n)).length < (nonZero b).length := by
        by_contra hge
        exact h (by rw [← nonZero_getD hlt h, List.getD_eq_default _ _ (by omega)])
      simp only [h, decide_false, Bool.not_false, if_true, if_false, hsrc _ hk, nonZero_getD hlt h]
      simp [nonZero]

/-! ## Blocks and their entries -/

/-- A block that its bitmap and its non-zero bytes do not make smaller is stored as it is. -/
theorem zpPack_raw {b : Bytes} (hb : b.length = 256) (h : ¬ 32 + (nonZero b).length < 256) : zpPack b = toLe (256 * 256) 4 ++ b := by
  unfold zpPack
  rw [bslice_self hb]
  refine (if_neg h).trans ?_
  simp [padTo, hb]

/-- Any other block is packed. -/
theorem zpPack_packed {b : Bytes} (hb : b.length = 256) (h : 32 + (nonZero b).length < 256) :
    zpPack b = padTo 4 (toLe ((32 + (nonZero b).length) * 256 + 1) 4 ++ zpBitmap b ++ nonZero b) := by
  unfold zpPack
  rw [bslice_self hb]
  exact if_pos h

/-- Unpacking a RAW entry. -/
theorem zpUnpack_raw {b : Bytes} (hh : bnat b 0 4 = 256 * 256) : zpUnpack b = some (bslice b 4 256, 260) := by
  simp [zpUnpack, hh]

/-- Unpacking a PACKED entry whose header counts the bytes its bitmap asks for. -/
theorem zpUnpack_packed {b p : Bytes} {n : Nat} (hh : bnat b 0 4 = (32 + n) * 256 + 1) (hn : 32 + n < 256)
    (hscatter : zpScatter (fun i => ((bslice b 4 32).getD (i / 8) 0).getLsbD (i % 8)) (fun k => b.getD (36 + k) 0) 256 = (p, n)) :
    zpUnpack b = some (p, alignUp (4 + (32 + n)) 4) := by
  have hform : ((32 + n) * 256 + 1) % 4 = 1 := by omega
  have hlen : ((32 + n) * 256 + 1) / 256 % 512 = 32 + n := by omega
  have hresv : ¬ (((32 + n) * 256 + 1) / 4 % 64 ≠ 0 ∨ ((32 + n) * 256 + 1) / 2 ^ 17 ≠ 0) := by omega
  unfold zpScatter at hscatter
  unfold zpUnpack
  simp only [hh, hform, hlen, hscatter]
  rw [if_neg hresv]
  simp [hn]

/-- The entry of a block unpacks to the block, whatever stands behind it, and is as long as it says: stored as it is. -/
theorem zpUnpack_entry_raw {b : Bytes} (hb : b.length = 256) (h : ¬ 32 + (nonZero b).length < 256) (rest : Bytes) :
    zpUnpack (zpPack b ++ rest) = some (b, (zpPack b).length) := by
  have hraw := zpPack_raw hb h
  have hblock : bslice (zpPack b ++ rest) 4 256 = b := by
    rw [hraw, List.append_assoc]
    exact bslice_of_append (toLe_length _ _) hb
  rw [zpUnpack_raw, hblock]
  · simp [hraw, hb]
  · rw [hraw, List.append_assoc]
    exact bnat_toLe_head (by decide)

/-- The same of a packed entry, its pad standing before the rest. -/
theorem zpUnpack_entry_packed {b : Bytes} (hb : b.length = 256) (h : 32 + (nonZero b).length < 256) (rest : Bytes) :
    zpUnpack (zpPack b ++ rest) = some (b, (zpPack b).length) := by
  obtain ⟨tail, htail⟩ : ∃ tail, zpPack b ++ rest =
      toLe ((32 + (nonZero b).length) * 256 + 1) 4 ++ (zpBitmap b ++ (nonZero b ++ tail)) := by
    rw [zpPack_packed hb h, padTo]
    simp only [List.append_assoc]
    exact ⟨_, rfl⟩
  have hsize : (zpPack b).length = alignUp (4 + (32 + (nonZero b).length)) 4 := by simp [zpPack_packed hb h]
  have hheader : bnat (zpPack b ++ rest) 0 4 = (32 + (nonZero b).length) * 256 + 1 := by
    rw [htail]
    exact bnat_toLe_head (by omega)
  have hbitmap : bslice (zpPack b ++ rest) 4 32 = zpBitmap b := by
    rw [htail]
    exact bslice_of_append (toLe_length _ _) (zpBitmap_length b)
  have hbytes (k : Nat) (hk : k < (nonZero b).length) : (zpPack b ++ rest).getD (36 + k) 0 = (nonZero b).getD k 0 := by
    rw [htail, ← List.append_assoc, List.getD_append_right _ _ _ _ (by simp), List.getD_append _ _ _ _ (by simp; omega)]
    simp [show 36 + k - 36 = k by omega]
  have hbit (i : Nat) (hi : i < b.length) :
      ((bslice (zpPack b ++ rest) 4 32).getD (i / 8) 0).getLsbD (i % 8) = !decide (b.getD i 0 = 0) := by
    rw [hbitmap]
    exact zpBitmap_bit b (hb ▸ hi)
  rw [hsize]
  refine zpUnpack_packed hheader h ?_
  rw [zpScatter_eq hbit hbytes (Nat.le_of_eq hb.symm), ← hb, List.take_length]

theorem zpUnpack_zpPack {b : Bytes} (hb : b.length = 256) (rest : Bytes) : zpUnpack (zpPack b ++ rest) = some (b, (zpPack b).length) := by
  by_cases h : 32 + (nonZero b).length < 256
  · exact zpUnpack_entry_packed hb h rest
  · exact zpUnpack_entry_raw hb h rest

/-- The entries of whole blocks unpack to the blocks, in order. -/
theorem zpEntries_zpPack {l : List Bytes} (h : ∀ b ∈ l, b.length = 256) : zpEntries l.length (l.flatMap zpPack) = some l.flatten := by
  induction l with
  | nil => rfl
  | cons b l ih =>
    obtain ⟨hb, hl⟩ := List.forall_mem_cons.1 h
    simp [zpEntries, zpUnpack_zpPack hb, ih hl]

/-! ## Streams -/

theorem blocks256_length (b : Bytes) : (blocks256 b).length = cdiv b.length 256 := by simp [blocks256]

theorem length_of_mem_blocks256 {b c : Bytes} (h : c ∈ blocks256 b) : c.length = 256 := by
  obtain ⟨k, -, rfl⟩ := List.mem_map.1 h
  exact bslice_length b _ 256

/-- Slices one behind the other are one slice. -/
theorem flatten_bslices (b : Bytes) (m n : Nat) : ((List.range n).map (fun k => bslice b (m * k) m)).flatten = bslice b 0 (m * n) := by
  induction n with
  | zero => rfl
  | succ n ih => simp [List.range_succ, ih, Nat.mul_succ, bslice_add]

/-- The blocks of a string are the string, zero past its end. -/
theorem take_flatten_blocks256 (b : Bytes) : (blocks256 b).flatten.take b.length = b := by
  rw [blocks256, flatten_bslices]
  exact take_bslice (by unfold cdiv; omega)

/-- Expanding a string whose header is in order expands its entries. -/
theorem zpExpand_of_fields {b : Bytes} {len : Nat} (hsize : 16 ≤ b.length) (hmagic : bnat b 0 4 = 0x5A504B01) (hplain : bnat b 4 4 = len)
    (hlen : len ≠ 0) (hcount : bnat b 8 4 = cdiv len 256) (hresv : bnat b 12 4 = 0) :
    zpExpand b = (zpEntries (cdiv len 256) (b.drop 16)).map (fun p => p.take len) := by
  simp [zpExpand, hmagic, hplain, hcount, hresv, hlen, Nat.not_lt.2 hsize]

/-- A stream says its plain length and its number of blocks, and its entries follow. -/
theorem zpExpand_zpStream {b : Bytes} (hne : b ≠ []) (hlt : b.length < 2 ^ 32) :
    zpExpand (zpStream b) = (zpEntries (cdiv b.length 256) ((blocks256 b).flatMap zpPack)).map (fun p => p.take b.length) := by
  have hdrop : (zpStream b).drop 16 = (blocks256 b).flatMap zpPack := List.drop_left' (by simp)
  have hblocks : cdiv b.length 256 < 2 ^ 32 := by
    unfold cdiv
    omega
  have hstream : zpStream b = toLe 0x5A504B01 4 ++
      (toLe b.length 4 ++ (toLe (cdiv b.length 256) 4 ++ (toLe 0 4 ++ (blocks256 b).flatMap zpPack))) := by
    simp only [zpStream, List.append_assoc]
  rw [← hdrop]
  refine zpExpand_of_fields (by simp [hstream]; omega) ?magic ?plain (by simpa using hne) ?count ?resv
  case magic =>
    rw [hstream]
    exact bnat_toLe_head (by decide)
  case plain =>
    rw [hstream]
    exact bnat_toLe (toLe_length _ _) hlt
  case count =>
    rw [hstream, ← List.append_assoc]
    exact bnat_toLe (by simp) hblocks
  case resv =>
    rw [hstream, ← List.append_assoc, ← List.append_assoc]
    exact bnat_toLe (by simp) (by decide)

end Sys2Proof.Machine

namespace Sys2Proof

open Machine

/-- Settles O56: block by block, each entry giving its block back. -/
theorem zeroPackRoundTrip : Obligations.ZeroPackRoundTrip := by
  unfold Obligations.ZeroPackRoundTrip
  intro b hne hlt
  rw [zpExpand_zpStream hne hlt, ← blocks256_length, zpEntries_zpPack (fun _ => length_of_mem_blocks256)]
  exact congrArg some (take_flatten_blocks256 b)

end Sys2Proof
end

section
/-! Turns of the rings, rows of ribbons and parts on the leaves (R33, R36, R41, R58, R83, R85, R86): what each event does when nothing
holds it back. -/

namespace Sys2Proof.Machine

/-! ## Turns of the device (R83, R85, R86) -/

/-- The device once a ring's next entry has been read from host memory, its head moved on and the entry taken as far as it goes. -/
def Dev.fetchEntry (d : Dev) (c n : Nat) : Dev :=
  let r := (d.ctx c).sq.getD n Ring.reset
  let b := Mem.read d.host (r.base + 64 * (r.head.toNat % r.size)) 64
  (d.modCtx c (fun x => { x with sq := x.sq.setIfInBounds n { r with head := r.head + 1 } })).enterRing c n
    (Vector.ofFn (fun i => bw b i.val))

theorem Dev.turn_fetches {d : Dev} {c n : Nat} (h : d.groupReady c n = false) : d.turn c n = d.fetchEntry c n :=
  if_neg (by simp [h])

/-- The turn is the primary context's while it has one (R85). -/
theorem descriptorFetch_primary {d : Dev} {c n : Nat}
    (hprim : d.primary.bind (fun c => (d.nextRing c).map (fun n => (c, n))) = some (c, n)) : descriptorFetch d = (d.turn c n).settle := by
  unfold descriptorFetch
  simp only [hprim]

/-- Else it goes round from the context behind the one last served (R85). -/
theorem descriptorFetch_robin {d : Dev} {c n : Nat} (hprim : d.primary.bind (fun c => (d.nextRing c).map (fun n => (c, n))) = none)
    (hnext : ((List.range 64).map (fun k => (d.rr + 1 + k) % 64)).findSome? (fun c => (d.nextRing c).map (fun n => (c, n))) = some (c, n)) :
    descriptorFetch d = (({ d with rr := c } : Dev).turn c n).settle := by
  unfold descriptorFetch
  simp only [hprim, hnext]

/-- A held group is taken in its turn (R86). -/
theorem fenceBeforeRelease_takes {d : Dev} {c n : Nat} (h : d.nextHeld = some (c, n)) :
    fenceBeforeRelease c n d = ((if d.primary = some c then d else { d with rr := c }).takeGroup c n).settle := by
  unfold fenceBeforeRelease Dev.takeHeld
  simp only [h, if_true]

/-! ## Rows of a ribbon (R58) -/

section
variable {d : Dev} {i id : Nat} {r : Req} {x : Desc}

/-- A descriptor holds a granted request on a ribbon. -/
structure Dev.OnRibbon (d : Dev) (i id : Nat) (r : Req) (x : Desc) : Prop where
  ribbon  : (d.sheet i).ribbon = true
  granted : (d.sheet i).q.find? (fun r => r.desc == id && r.st == .granted) = some r
  desc    : d.desc? id = some x

/-- A reader passes its next written row. -/
theorem ribbonRowGrant_reads (h : d.OnRibbon i id r x) (hr : r.write = false) (hrow : Tab.getD (d.sheet i).rowRel id 0 < (d.sheet i).rowsDone) :
    ribbonRowGrant i id d =
      d.setSheet i { d.sheet i with rowRel := Tab.set (d.sheet i).rowRel id (Tab.getD (d.sheet i).rowRel id 0 + 1) } := by
  unfold ribbonRowGrant
  simp [h.ribbon, h.granted, h.desc, hr, hrow]

/-- A writer forms its next row. -/
theorem ribbonRowGrant_writes (h : d.OnRibbon i id r x) (hr : r.write = true) (hframe : (d.sheet i).rowsDone < d.frameRows x i)
    (hformed : d.rowFormed x i (d.sheet i).rowsDone = true) (hfree : d.mayWriteRow i id (d.sheet i).rowsDone = true) :
    ribbonRowGrant i id d = d.setSheet i { d.sheet i with rowsDone := (d.sheet i).rowsDone + 1 } := by
  unfold ribbonRowGrant
  simp [h.ribbon, h.granted, h.desc, hr, hframe, hformed, hfree]

end

/-! ## Parts (R33, R36, R41) -/

/-- A ready descriptor of a leaf opcode is cut. -/
theorem partDispatch_cuts {d : Dev} {id : Nat} {x y : Desc} (hx : d.desc? id = some x) (hleaf : (opDefOf x.w).isSome = true)
    (hphase : x.phase = .waiting) (hy : (d.resolve id).desc? id = some y) (hdoom : (d.resolve id).doomOf y = none)
    (hready : (d.resolve id).readyToRun y = true) (hlong : (d.resolve id).copyShort y = false) :
    partDispatch id d = ((d.resolve id).dispatchParts y).settle := by
  have hop : (opDefOf x.w).isNone = false := by simpa [Option.isSome_iff_ne_none] using hleaf
  unfold partDispatch
  simp [hx, hop, hphase, hy, hdoom, hready, hlong]

/-- The running part of a leaf finishes, and the leaf takes its next. -/
theorem partFinish_ends {d : Dev} {l : Nat} {crc : DW} {x : Desc}
    (hx : d.descs.find? (fun x => x.live && x.parts.any (fun p => p.leaf == l && p.st == .running)) = some x)
    (hstall : x.uses.any (fun u => d.stalled (shIdx u.h)) = false) :
    partFinish l crc d = ((d.modDesc x.id (fun y => { y with parts := setPart l .running .finished crc d.now y.parts })).takeNext l).crcTake := by
  unfold partFinish
  rw [hx]
  exact if_neg (by simp [hstall])

/-- A dispatched descriptor all of whose parts have finished runs to its end. -/
theorem descriptorComplete_ends {d : Dev} {id : Nat} {x : Desc} (hx : d.desc? id = some x) (hphase : x.phase = .dispatched)
    (hfin : x.allFinished = true) (hrows : d.ribbonsOk x = true) (hback : d.heldBack id = false)
    (hunit : (x.compares && (d.crcUnit id).isNone) = false) : descriptorComplete id d = (d.finishRun id).settle := by
  have hlive : x.live = true := by simp [Desc.live, hphase]
  unfold descriptorComplete
  simp [hx, hlive, hfin, hrows, hback, hunit, hphase]

end Sys2Proof.Machine

namespace Sys2Proof

open Machine

/-- Settles O23: each event acts as its row says, the turn of the rings falling as R85 orders them. -/
theorem fetchAndTokensComplete : Obligations.FetchAndTokensComplete := by
  unfold Obligations.FetchAndTokensComplete
  intro s hrun d
  refine ⟨?primary, ?robin, ?fence, ?row, ?dispatch, ?finish, ?complete⟩
  case primary =>
    intro c n hprim hready r b
    exact goes_of_run hrun rfl ((descriptorFetch_primary hprim).trans (congrArg Dev.settle (Dev.turn_fetches hready)))
  case robin =>
    intro c n hprim hnext hready r b
    exact goes_of_run hrun rfl ((descriptorFetch_robin hprim hnext).trans (congrArg Dev.settle (Dev.turn_fetches hready)))
  case fence =>
    intro c n
    exact ⟨fun h => goes_of_run hrun rfl (fenceBeforeRelease_takes h), fun h => goes_of_run hrun rfl (if_neg h)⟩
  case row =>
    intro h id r x i z hribbon hgranted hx
    have hon : d.OnRibbon i id r x := ⟨hribbon, hgranted, hx⟩
    exact ⟨fun hr hrow => goes_of_run hrun rfl (ribbonRowGrant_reads hon hr hrow),
      fun hr hframe hformed hfree => goes_of_run hrun rfl (ribbonRowGrant_writes hon hr hframe hformed hfree)⟩
  case dispatch =>
    intro id x y hx hleaf hphase hy hdoom hready hlong
    exact goes_of_run hrun rfl (partDispatch_cuts hx hleaf hphase hy hdoom hready hlong)
  case finish =>
    intro l crc x hx hstall
    exact goes_of_run hrun rfl (partFinish_ends hx hstall)
  case complete =>
    intro id x hx hphase hfin hrows hback hunit
    exact goes_of_run hrun rfl (descriptorComplete_ends hx hphase hfin hrows hback hunit)

end Sys2Proof
end

section
/-! TOKEN_GRANT (R54, R55): of a sheet with no doomed request. -/

namespace Sys2Proof.Machine

/-- No request of a sheet is doomed. -/
def Dev.NoneDoomed (d : Dev) (i : Nat) : Prop := ∀ r ∈ (d.sheet i).q, ∀ st, r.st ≠ .doomed st

/-- What is asked of the doomed requests alone finds nothing where none is. -/
theorem Dev.NoneDoomed.filterMap_nil {d : Dev} {i : Nat} {α : Type} {f : Req → Option α} (h : d.NoneDoomed i)
    (hf : ∀ r, (∀ st, r.st ≠ .doomed st) → f r = none) : (d.sheet i).q.filterMap f = [] :=
  List.filterMap_eq_nil_iff.2 (fun r hr => hf r (h r hr))

section
variable {d : Dev} {i : Nat}

theorem tokenGrant_none (h : d.NoneDoomed i) (hnext : (d.sheet i).nextGrant = none) : tokenGrant i d = d := by
  unfold tokenGrant
  extract_lets s dead promo deadCopy
  have hdead : dead = [] := h.filterMap_nil (fun r hr => by split <;> simp_all)
  have hcopy : deadCopy = [] := h.filterMap_nil (fun r hr => by split <;> simp_all)
  simp only [hdead, hcopy, s, hnext]

/-- The first grantable request is granted, and its descriptor, one of the leaves that nothing dooms, resolves its copies. -/
theorem tokenGrant_leaf {r : Req} {x : Desc} (h : d.NoneDoomed i) (hnext : (d.sheet i).nextGrant = some r)
    (hx : (d.grantReq i r).desc? r.desc = some x) (hleaf : (opDefOf x.w).isSome = true)
    (hdoom : (((d.grantReq i r).resolve x.id).desc? x.id).bind (fun y => y.doom) = none) :
    tokenGrant i d = (d.grantReq i r).resolve x.id := by
  unfold tokenGrant
  extract_lets s dead promo deadCopy
  have hdead : dead = [] := h.filterMap_nil (fun r hr => by split <;> simp_all)
  have hcopy : deadCopy = [] := h.filterMap_nil (fun r hr => by split <;> simp_all)
  simp only [hdead, hcopy, s, hnext, hx, hleaf, hdoom, if_true]

end

/-- Without a STAGE_MAP that waits for its token nothing of one completes (R371). -/
theorem Dev.finishStageMap_none {d : Dev} (h : d.sec.mapWait = none) : d.finishStageMap = d := by
  unfold Dev.finishStageMap
  simp only [h]

end Sys2Proof.Machine

namespace Sys2Proof

open Machine

/-- Settles O24: no STAGE_MAP waits, so the grant is all there is. -/
theorem tokenGrantGrants : Obligations.TokenGrantGrants := by
  unfold Obligations.TokenGrantGrants
  intro h s hrun hmap d i hnone
  refine ⟨?nothing, ?grant⟩
  case nothing =>
    intro hnext
    refine goes_of_run hrun rfl ?_
    rw [tokenGrantAll, tokenGrant_none hnone hnext]
    exact Dev.finishStageMap_none hmap
  case grant =>
    intro r x hnext e hx hleaf hdoom hmap'
    refine goes_of_run hrun rfl ?_
    rw [tokenGrantAll, tokenGrant_leaf hnone hnext hx hleaf hdoom]
    exact Dev.finishStageMap_none hmap'

end Sys2Proof
end

section
/-! Sheets, pins, evictions, moves and CRC checks as opcode rows (R51–R53, R59–R61, R67–R69, R338): what an accepted one does. -/

namespace Sys2Proof.Machine

/-! ## The operands of a presented descriptor -/

theorem withOp_f (w : DescWords) (n hi lo : Nat) {i : Nat} (h : i ≠ 0) : (w.withOp n).f i hi lo = w.f i hi lo := by
  simp only [DescWords.f, withOp_dw w n i h]

theorem withOp_q (w : DescWords) (n : Nat) {i : Nat} (h : i ≠ 0) : (w.withOp n).q i = w.q i :=
  congrArg₂ (fun (a b : DW) => a.toNat + 2 ^ 32 * b.toNat) (withOp_dw w n i h) (withOp_dw w n (i + 1) (Nat.succ_ne_zero i))

/-! ## The effect by opcode -/

section
variable {d : Dev} {x : Desc} {whole : Bool}

theorem Dev.startCtl_alloc (h : x.w.opc = 0x08) :
    d.startCtl x whole =
      (d.allocSheet x.w).1.endDesc x.id { st := .done, r4 := (d.allocSheet x.w).2.1, r5 := (d.allocSheet x.w).2.2 } := by
  simp only [Dev.startCtl, h]

theorem Dev.startCtl_free (h : x.w.opc = 0x09) : d.startCtl x whole = sheetFreeComplete x.id (d.runFree x) := by
  simp only [Dev.startCtl, h]

theorem Dev.startCtl_pin (h : x.w.opc = 0x0A) :
    d.startCtl x whole = (d.runPin x.w).1.endDesc x.id { st := .done, r4 := dwN (b2n (d.runPin x.w).2), r5 := 0 } := by
  simp only [Dev.startCtl, h]

theorem Dev.startCtl_evict (h : x.w.opc = 0x0C) : d.startCtl x whole = d.runEvict x := by
  simp only [Dev.startCtl, h]

end

/-! ## SHEET_PIN and EVICT (R67–R69) -/

/-- A context has a part in a copy: it owns it, or is a reference of it. -/
def Copy.ofCtx (y : Copy) (c : Nat) : Prop := y.owner = some c ∨ y.hasRef c = true

section
variable {d : Dev} {w : DescWords} {k : Nat} {y : Copy}

/-- Without a copy there is no pin to change. -/
theorem Dev.runPin_none (h : d.copyOf (shIdx (w.dw 6)) (w.f 7 2 1) = none) : d.runPin w = (d, false) := by
  simp only [Dev.runPin, h]

theorem Dev.runPin_sets (hk : d.copyOf (shIdx (w.dw 6)) (w.f 7 2 1) = some k) (hy : d.copy? k = some y) (hmine : y.ofCtx (w.f 7 13 8))
    (hset : bitOf (w.dw 7) 0 = true) (hpin : ¬ w.f 7 13 8 ∈ y.pins) :
    d.runPin w = (d.modCopy k (fun z => { z with pins := z.pins ++ [w.f 7 13 8] }), true) := by
  have hown : (y.owner == some (w.f 7 13 8) || y.hasRef (w.f 7 13 8)) = true := by simpa [Copy.ofCtx] using hmine
  unfold Dev.runPin
  simp [hk, hy, hown, hset, hpin]

theorem Dev.runPin_clears (hk : d.copyOf (shIdx (w.dw 6)) (w.f 7 2 1) = some k) (hy : d.copy? k = some y) (hmine : y.ofCtx (w.f 7 13 8))
    (hclear : bitOf (w.dw 7) 0 = false) (hpin : w.f 7 13 8 ∈ y.pins) :
    d.runPin w = (d.modCopy k (fun z => { z with pins := z.pins.filter (· != w.f 7 13 8) }), true) := by
  have hown : (y.owner == some (w.f 7 13 8) || y.hasRef (w.f 7 13 8)) = true := by simpa [Copy.ofCtx] using hmine
  unfold Dev.runPin
  simp [hk, hy, hown, hclear, hpin]

end

section
variable {d : Dev} {x : Desc} {k : Nat} {y : Copy}

/-- Without a copy there is nothing to evict. -/
theorem Dev.runEvict_none (h : d.copyOf (shIdx (x.w.dw 6)) (x.w.f 7 2 1) = none) : d.runEvict x = d.endDesc x.id { st := .done, r4 := dwN 0 } := by
  simp only [Dev.runEvict, h]
  rfl

theorem Dev.runEvict_present (hk : d.copyOf (shIdx (x.w.dw 6)) (x.w.f 7 2 1) = some k) (hy : d.copy? k = some y) (hst : y.st = .present)
    (hmine : y.ofCtx (x.w.f 7 13 8)) :
    d.runEvict x =
      (d.evictBy k (x.w.f 7 13 8)).2.endDesc x.id { st := .done, r4 := dwN (b2n (d.evictBy k (x.w.f 7 13 8)).1) } := by
  have hown : ¬ (y.owner ≠ some (x.w.f 7 13 8) ∧ ¬ y.hasRef (x.w.f 7 13 8) = true) := by
    rw [← not_or, not_not]
    exact hmine
  unfold Dev.runEvict
  simp only [hk, hy, hst, if_neg hown, if_true]

end

/-! ## Rows that wait for tokens, and hold them (R54) -/

theorem opDefOf_withOp_crc (w : DescWords) : opDefOf (w.withOp 0x7C) = none := by
  unfold opDefOf
  rw [withOp_opc w 0x7C (by decide)]
  rfl

/-- A waiting descriptor that nothing dooms or stalls runs once its tokens are granted. -/
theorem Dev.tryHeld_runs {d : Dev} {id : Nat} {x : Desc} {whole : Bool} (hx : (d.grantFor id).desc? id = some x)
    (hdoom : (d.grantFor id).doomOf x = none) (htok : ((d.grantFor id).tokensOf x).2 = true) (hphase : x.phase = .waiting)
    (hfree : x.w.opc = 0x0B ∨ x.uses.any (fun u => (d.grantFor id).stalled (shIdx u.h)) = false) :
    d.tryHeld id whole = (d.grantFor id).runHeld x whole := by
  have hgo : ¬ ((!((d.grantFor id).tokensOf x).2) = true ∨ x.phase ≠ .waiting ∨
      (x.w.opc ≠ 0x0B ∧ x.uses.any (fun u => (d.grantFor id).stalled (shIdx u.h)) = true)) := by
    rcases hfree with h | h <;> simp [htok, hphase, h]
  unfold Dev.tryHeld
  simp only [hx, hdoom]
  exact if_neg hgo

theorem Dev.startCtl_held {d : Dev} {x : Desc} {whole : Bool} (h : x.w.opc = 0x0B ∨ x.w.opc = 0x7C) :
    d.startCtl x whole = d.tryHeld x.id whole := by
  rcases h with h | h <;> simp only [Dev.startCtl, h]

/-- A row of a mover whose descriptor holds its tokens has the effect of `Dev.runHeld` on the device that granted them. -/
theorem goes_of_holds {i : Instr} {s : State} {c n : Nat} {w : DescWords} {x : Desc} {e : Dev} (hp : i.presented = some (c, w.withOp n))
    (hrun : s.dev.running = true) (hn : n = 0x0B ∨ n = 0x7C) (hs : s.dev.holds c (w.withOp n) x)
    (he : ((s.dev.taken c (w.withOp n)).1.grantFor x.id).runHeld x true = e) : Goes i s e.settle := by
  have hop : x.w.opc = n := hs.1.opc (by omega)
  obtain ⟨⟨ht, hj, hacc, hw⟩, hx, hdoom, htok, hphase, hfree⟩ := hs
  have hctl : opDefOf x.w = none := by
    rw [hw]
    rcases hn with rfl | rfl
    · exact opDefOf_withOp_none w (by decide)
    · exact opDefOf_withOp_crc w
  have hheld : x.w.opc = 0x0B ∨ x.w.opc = 0x7C := by rwa [hop]
  rw [← he, ← Dev.tryHeld_runs hx hdoom htok hphase (hfree.imp_left (hw ▸ ·)), ← Dev.startCtl_held hheld, ← Dev.launch_ctl true hacc hctl]
  exact goes_of_accepted hp hrun ht hj

/-! ## MOVE (R60, R61) -/

section
variable {d : Dev} {x : Desc}

/-- A mover that is idle: it has no work and is not being reset. -/
structure Dev.MoverIdle (d : Dev) (m : Nat) : Prop where
  jobs    : (d.mover m).jobs = []
  noReset : (d.mover m).resetAt = none

theorem Dev.runHeld_move (hop : x.w.opc = 0x0B) (hdst : x.w.dw 7 ≠ 0) (hm : d.MoverIdle (moverOf x.w.target))
    (hsrc : d.stalled (shIdx (x.w.dw 6)) = false) (hto : d.stalled (shIdx (x.w.dw 7)) = false) : d.runHeld x true = d.runMove x := by
  have hgo : True ∧ (d.mover (moverOf x.w.target)).jobs.isEmpty = true ∧ (d.mover (moverOf x.w.target)).resetAt.isNone = true ∧
      (!d.stalled (shIdx (x.w.dw 6))) = true ∧ (!d.stalled (shIdx (x.w.dw 7))) = true := by
    simp [hm.jobs, hm.noReset, hsrc, hto]
  simp only [Dev.runHeld, hop, if_neg hdst]
  exact if_pos hgo

theorem Dev.runHeld_promote {whole : Bool} (hop : x.w.opc = 0x0B) (hdst : x.w.dw 7 = 0) : d.runHeld x whole = d.runPromote x := by
  simp only [Dev.runHeld, hop]
  exact if_pos hdst

/-! ## CRC_CHECK (R338) -/

/-- The word a CRC_CHECK compares with: of a sheet, or its own. -/
def Dev.crcWant (d : Dev) (x : Desc) (w : DescWords) : DW := if bitOf (w.dw 6) 4 then d.rdW x (w.dw 13) (w.dw 14).toNat else w.dw 12

/-- The CRC a CRC_CHECK forms. -/
def Dev.crcGot (d : Dev) (x : Desc) (w : DescWords) : DW := crcOf (w.f 6 2 0) (d.rd x (w.dw 7) (w.q 8) (w.q 10))

/-- The ranges a CRC_CHECK reads. -/
def crcReads (w : DescWords) : List (DW × Nat × Nat) :=
  (w.dw 7, w.q 8, w.q 10) :: (if bitOf (w.dw 6) 4 then [(w.dw 13, (w.dw 14).toNat, 4)] else [])

theorem Dev.runHeld_crc {u : Nat} (hop : x.w.opc = 0x7C) (hu : d.crcFree = some u) (hm : d.MoverIdle (moverOf x.w.target))
    (hfirst : d.descs.any (fun y => y.asksCrc && (d.crcUnit y.id).isNone) = false) : d.runHeld x true = d.runCrc x u := by
  simp only [Dev.runHeld, hop, hu]
  exact if_pos ⟨trivial, by simp [hm.jobs], by simp [hm.noReset], by simp [hfirst]⟩

/-- With no unit of the pool free it waits for one. -/
theorem Dev.runHeld_crc_waits {whole : Bool} (hop : x.w.opc = 0x7C) (hu : d.crcFree = none) :
    d.runHeld x whole = d.modDesc x.id (fun y => { y with phase := .dispatched }) := by
  simp only [Dev.runHeld, hop, hu]

theorem Dev.runCrc_good {u : Nat} (h : bitOf (x.w.dw 6) 3 = true ∨ d.crcGot x x.w = d.crcWant x x.w) :
    d.runCrc x u = d.conclude x { r4 := d.crcGot x x.w, rdr := crcReads x.w, post := fun d => d.count cCrcJob } := by
  have hgood : (!bitOf (x.w.dw 6) 3 && decide (d.crcGot x x.w ≠ d.crcWant x x.w)) = false := by
    rcases h with h | h <;> simp [h]
  unfold Dev.crcGot Dev.crcWant at hgood
  unfold Dev.runCrc
  simp only [hgood]
  rfl

theorem Dev.runCrc_bad {u : Nat} (hcheck : bitOf (x.w.dw 6) 3 = false) (hne : d.crcGot x x.w ≠ d.crcWant x x.w) :
    d.runCrc x u = d.conclude x
      { st := .failedCheck, r4 := d.crcGot x x.w, rdr := crcReads x.w,
        post := fun e => (e.count cCrcJob).crcMismatch u (x.w.f 6 2 0) (d.crcWant x x.w) (d.crcGot x x.w) x.w.tag x.w.target (some x.ctx) } := by
  have hbad : (!bitOf (x.w.dw 6) 3 && decide (d.crcGot x x.w ≠ d.crcWant x x.w)) = true := by simp [hcheck, hne]
  unfold Dev.crcGot Dev.crcWant at hbad
  unfold Dev.runCrc
  simp only [hbad]
  rfl

end

/-- The opcode takes no part in what a CRC_CHECK reads and compares. -/
theorem Dev.crcGot_withOp (d : Dev) (x : Desc) (w : DescWords) (n : Nat) : d.crcGot x (w.withOp n) = d.crcGot x w := by
  simp only [Dev.crcGot, withOp_f_six, withOp_dw w n 7 (by decide), withOp_q w n (i := 8) (by decide), withOp_q w n (i := 10) (by decide)]

theorem Dev.crcWant_withOp (d : Dev) (x : Desc) (w : DescWords) (n : Nat) : d.crcWant x (w.withOp n) = d.crcWant x w := by
  simp only [Dev.crcWant, withOp_dw w n _ (show 6 ≠ 0 by decide), withOp_dw w n _ (show 12 ≠ 0 by decide),
    withOp_dw w n _ (show 13 ≠ 0 by decide), withOp_dw w n _ (show 14 ≠ 0 by decide)]

theorem crcReads_withOp (w : DescWords) (n : Nat) : crcReads (w.withOp n) = crcReads w := by
  simp only [crcReads, withOp_dw w n _ (show 6 ≠ 0 by decide), withOp_dw w n _ (show 7 ≠ 0 by decide),
    withOp_dw w n _ (show 13 ≠ 0 by decide), withOp_dw w n _ (show 14 ≠ 0 by decide), withOp_q w n (i := 8) (by decide),
    withOp_q w n (i := 10) (by decide)]

end Sys2Proof.Machine

namespace Sys2Proof

open Machine

/-- Settles O41: each row has its own effect, at acceptance or once its descriptor holds its tokens, its operands read from the words
presented. -/
theorem sheetRowsComplete : Obligations.SheetRowsComplete := by
  unfold Obligations.SheetRowsComplete
  intro c w x s hrun at_ held go holds
  have hw {n : Nat} (hs : go n) : x.w = w.withOp n := hs.2.2.2
  have h6 (n : Nat) : (w.withOp n).dw 6 = w.dw 6 := withOp_dw w n 6 (by decide)
  have h7 (n : Nat) : (w.withOp n).dw 7 = w.dw 7 := withOp_dw w n 7 (by decide)
  have hf7 (n hi lo : Nat) : (w.withOp n).f 7 hi lo = w.f 7 hi lo := withOp_f w n hi lo (by decide)
  refine ⟨?alloc, ?free, ?pinNone, ?pin, ?evictNone, ?evict, ?move, ?promote, ?crc, ?crcWaits⟩
  case alloc =>
    intro hs r
    exact goes_of_starts rfl hrun (by decide) hs (by rw [Dev.startCtl_alloc (hs.opc (by decide)), hw hs])
  case free =>
    intro hs i e
    exact goes_of_starts rfl hrun (by decide) hs (by rw [Dev.startCtl_free (hs.opc (by decide)), Dev.runFree, hw hs, h6])
  case pinNone =>
    intro hs hk
    refine goes_of_starts rfl hrun (by decide) hs ?_
    rw [Dev.startCtl_pin (hs.opc (by decide)), hw hs, Dev.runPin_none (by rwa [h6, hf7])]
    rfl
  case pin =>
    intro k y hs hk hy hmine
    refine ⟨fun hset hpin => goes_of_starts rfl hrun (by decide) hs ?_, fun hclear hpin => goes_of_starts rfl hrun (by decide) hs ?_⟩
    · rw [Dev.startCtl_pin (hs.opc (by decide)), hw hs,
        Dev.runPin_sets (by rwa [h6, hf7]) hy (by rwa [hf7]) (by rwa [h7]) (by rwa [hf7]), hf7]
      rfl
    · rw [Dev.startCtl_pin (hs.opc (by decide)), hw hs,
        Dev.runPin_clears (by rwa [h6, hf7]) hy (by rwa [hf7]) (by rwa [h7]) (by rwa [hf7]), hf7]
      rfl
  case evictNone =>
    intro hs hk
    refine goes_of_starts rfl hrun (by decide) hs ?_
    rw [Dev.startCtl_evict (hs.opc (by decide)), Dev.runEvict_none (by rwa [hw hs, h6, hf7])]
  case evict =>
    intro k y hs hk hy hst hmine r
    refine goes_of_starts rfl hrun (by decide) hs ?_
    rw [Dev.startCtl_evict (hs.opc (by decide)),
      Dev.runEvict_present (by rwa [hw hs, h6, hf7]) hy hst (by rwa [hw hs, hf7]), hw hs, hf7]
  case move =>
    intro hs hdst hjobs hreset hsrc hto
    refine goes_of_holds rfl hrun (.inl rfl) hs (Dev.runHeld_move (hs.1.opc (by decide)) ?_ ?_ ?_ ?_)
    · rwa [hw hs.1, h7]
    · rw [hw hs.1, withOp_target]
      exact ⟨hjobs, hreset⟩
    · rwa [hw hs.1, h6]
    · rwa [hw hs.1, h7]
  case promote =>
    intro hs hdst
    exact goes_of_holds rfl hrun (.inl rfl) hs (Dev.runHeld_promote (hs.1.opc (by decide)) (by rwa [hw hs.1, h7]))
  case crc =>
    intro u hs hu hjobs hreset hfirst v inSheet want rdr
    have hidle : (held 0x7C).MoverIdle (moverOf x.w.target) := by
      rw [hw hs.1, withOp_target]
      exact ⟨hjobs, hreset⟩
    have hwhole : (held 0x7C).runHeld x true = (held 0x7C).runCrc x u := Dev.runHeld_crc (hs.1.opc (by decide)) hu hidle hfirst
    have hgot : (held 0x7C).crcGot x x.w = v := by rw [hw hs.1, Dev.crcGot_withOp]; rfl
    have hwant : (held 0x7C).crcWant x x.w = want := by rw [hw hs.1, Dev.crcWant_withOp]; rfl
    have hrdr : crcReads x.w = rdr := by rw [hw hs.1, crcReads_withOp]; rfl
    refine ⟨fun hgood => goes_of_holds rfl hrun (.inr rfl) hs (hwhole.trans ?_),
      fun hcheck hne => goes_of_holds rfl hrun (.inr rfl) hs (hwhole.trans ?_)⟩
    · rw [Dev.runCrc_good (by rwa [hgot, hwant, hw hs.1, h6]), hgot, hrdr]
    · rw [Dev.runCrc_bad (by rwa [hw hs.1, h6]) (by rwa [hgot, hwant]), hgot, hwant, hrdr, hw hs.1, withOp_f_six]
  case crcWaits =>
    intro hs hu
    exact goes_of_holds rfl hrun (.inr rfl) hs (Dev.runHeld_crc_waits (hs.1.opc (by decide)) hu)

end Sys2Proof
end

section
/-! The setup lock (R9, R100, R366): what HST_LOCK does, and what no command changes once it is set. -/

namespace Sys2Proof.Machine

/-- A register write of a running device goes where it leads, when it leaves setup words and lock as they are. -/
theorem goes_of_runSetup {i : Instr} {s : State} {f : Dev → Dev} {e : Dev} (hrun : s.dev.running = true) (hx : exec i s = s.runSetup f)
    (he : f s.dev = e) (hsetup : e.setup = s.dev.setup) (hlock : e.locked = s.dev.locked) : Goes i s e := by
  rw [Goes, hx, s.runSetup_goes f hrun, he, hsetup, hlock]
  rfl

/-- HST_LOCK written with 1 locks, and the setup is measured as it stands locked (R100, R366). -/
theorem hstLockWrite_locks {v : DW} {d : Dev} (hopen : d.locked = false) (hv : bitOf v 0 = true) (hroom : d.measFull = false) :
    let e : Dev := { d with locked := true }
    hstLockWrite v d = e.framed ((e.addLog 4 e.setupDigest).event { code := 0x08 }) := by
  have hgo : ¬ (d.locked = true ∨ ¬ bitOf v 0 = true ∨ d.measFull = true) := by simp [hopen, hv, hroom]
  exact if_neg hgo

/-- Without bit 0, or with a full log, nothing is locked (R366). -/
theorem hstLockWrite_ignored {v : DW} {d : Dev} (h : bitOf v 0 = false ∨ d.measFull = true) : hstLockWrite v d = d := by
  have hno : d.locked = true ∨ ¬ bitOf v 0 = true ∨ d.measFull = true := .inr (h.imp_left (by simp [·]))
  exact if_pos hno

/-- A register write that locks the device leaves its setup words, and the queue. -/
theorem State.runSetup_locks {s : State} {f : Dev → Dev} {e : Dev} (hrun : s.dev.running = true)
    (he : f s.dev = ({ s.dev with locked := true } : Dev).framed e) :
    ∃ t, s.runSetup f = .next t ∧ t.dev.locked = true ∧ t.dev.setup = s.dev.setup ∧ t.pending = s.pending ∧
      t.dev = ({ s.dev with locked := true } : Dev).framed e := by
  refine ⟨_, s.runSetup_goes f hrun, ?_⟩
  rw [he]
  exact ⟨rfl, rfl, rfl, rfl⟩

/-! ## Setup words and lock of a locked device -/

/-- The lock is set, and the setup words are those of a device. -/
structure Frozen (d e : Dev) : Prop where
  setup  : e.setup = d.setup
  locked : e.locked = true

theorem Frozen.refl {d : Dev} (h : d.locked = true) : Frozen d d := ⟨rfl, h⟩

theorem Frozen.trans {d e f : Dev} (h : Frozen d e) (g : Frozen e f) : Frozen d f := ⟨g.setup.trans h.setup, g.locked⟩

/-- Framing by a frozen device freezes. -/
theorem Frozen.framed {d e : Dev} (h : Frozen d e) (f : Dev) : Frozen d (e.framed f) := ⟨h.setup, h.locked⟩

/-- A word cleared by writing ones is no setup word, and none of them is the lock. -/
theorem Dev.writeW1c_locked (d : Dev) (off : Nat) (v : DW) : (d.writeW1c off v).locked = d.locked := by
  unfold Dev.writeW1c
  split
  · rfl
  · split
    · split <;> rfl
    · split <;> rfl

theorem Dev.writeWord_frozen {d : Dev} (off : Nat) (v : DW) (h : d.locked = true) : Frozen d (d.writeWord off v) := by
  unfold Dev.writeWord
  split
  · exact ⟨(d.writeW1c_sameSetup off v).setup, (d.writeW1c_locked off v).trans h⟩
  · rw [if_pos (.inl h)]
    exact .refl h

/-- A word without a field cleared by writing ones is left alone. -/
theorem Dev.writeWord_of_locked {d : Dev} {off : Nat} (v : DW) (h : d.locked = true)
    (hplain : ¬ (off = 0x1010 ∨ off = 0x1014 ∨ off = 0x8004 ∨ off = 0x18090)) : d.writeWord off v = d := by
  rw [Dev.writeWord, if_neg hplain, if_pos (.inl h)]

theorem registerWrite_frozen {d : Dev} (off : Nat) (wide : Bool) (v : QW) (h : d.locked = true) : Frozen d (registerWrite off wide v d) := by
  unfold registerWrite
  extract_lets e f
  have he : Frozen d e := d.writeWord_frozen off _ h
  have hf : Frozen d f := iteInduction (fun _ => he.trans (e.writeWord_frozen (off + 4) _ he.locked)) (fun _ => he)
  exact iteInduction (fun _ => ⟨rfl, h⟩) (fun _ => hf.framed _)

section
variable {d : Dev} (v : DW) (h : d.locked = true)
include h

theorem hstLockWrite_of_locked : hstLockWrite v d = d := if_pos (.inl h)

theorem visDescSeedWrite_of_locked : visDescSeedWrite v d = d := if_pos (.inl h)

theorem spnSnsPoolWrite_of_locked : spnSnsPoolWrite v d = d := if_pos (.inl h)

theorem tbTrigModeWrite_of_locked (n : Nat) : tbTrigModeWrite n v d = d := if_pos h

theorem plgCtlArmWrite_of_locked : plgCtlArmWrite v d = d := if_pos h

end

theorem hstCtxOpenReg_of_locked {d : Dev} (c : Nat) (h : d.locked = true) : hstCtxOpenReg c d = d := if_pos h

theorem hstCtxTeardownReg_of_locked {d : Dev} (c : Nat) (h : d.locked = true) : hstCtxTeardownReg c d = d := if_pos h

/-! ## Commands of a locked device -/

/-- A write of setup registers freezes what its effect freezes. -/
theorem State.runSetup_frozen {s : State} {f : Dev → Dev} (hl : s.dev.locked = true) (h : Frozen s.dev (f s.dev)) :
    IfNext (fun t => t.dev.setup = s.dev.setup ∧ t.dev.locked = true) (s.runSetup f) := by
  obtain ⟨t, ht, -, hset, hsame⟩ := s.runSetup_next f
  rw [ht]
  show t.dev.setup = s.dev.setup ∧ t.dev.locked = true
  cases hr : s.dev.running with
  | true => exact ⟨(hset hr).1.trans h.setup, (hset hr).2.trans h.locked⟩
  | false => rw [hsame hr]; exact ⟨rfl, hl⟩

/-- Once locked, the commands that write setup registers change no setup word. -/
theorem exec_setsUp_frozen (i : Instr) (s : State) (hw : setsUp i = true) (hl : s.dev.locked = true) :
    IfNext (fun t => t.dev.setup = s.dev.setup ∧ t.dev.locked = true) (exec i s) := by
  unfold setsUp at hw
  split at hw
  case h_1 v => exact State.runSetup_frozen hl (by rw [hstLockWrite_of_locked v hl]; exact .refl hl)
  case h_2 off wide v => exact State.runSetup_frozen hl (registerWrite_frozen off.toNat wide v hl)
  case h_3 v => exact State.runSetup_frozen hl (by rw [visDescSeedWrite_of_locked v hl]; exact .refl hl)
  case h_4 v => exact State.runSetup_frozen hl (by rw [spnSnsPoolWrite_of_locked v hl]; exact .refl hl)
  case h_5 => exact absurd hw Bool.false_ne_true

/-- Once locked, no command that does not reset the device changes a setup word or the lock. -/
theorem exec_frozen (i : Instr) (s : State) (hl : s.dev.locked = true) (hr : i.resets = false) :
    IfNext (fun t => t.dev.setup = s.dev.setup ∧ t.dev.locked = true) (exec i s) := by
  cases hw : setsUp i with
  | true => exact exec_setsUp_frozen i s hw hl
  | false =>
    have ho := exec_outcomes i s
    generalize exec i s = o at ho ⊢
    cases ho with
    | run f =>
      obtain ⟨t, ht, -, hsetup, hlock, -⟩ := s.run_next f
      rw [ht]
      exact ⟨hsetup, hlock.trans hl⟩
    | alive f =>
      obtain ⟨t, ht, -, hsetup, hlock, -⟩ := s.runAlive_next f
      rw [ht]
      exact ⟨hsetup, hlock.trans hl⟩
    | setup f h => simp [h] at hw
    | raw f h => simp [h] at hr
    | stop h => trivial

end Sys2Proof.Machine

namespace Sys2Proof

open Machine

/-- Settles O6: the lock write by its cases; once locked, every effect on setup words or lock is guarded by the lock. -/
theorem lockFreezesSetup : Obligations.LockFreezesSetup := by
  unfold Obligations.LockFreezesSetup
  refine ⟨?lockWrite, exec_frozen, ?locked⟩
  case lockWrite =>
    intro v s hrun
    refine ⟨?_, fun h => goes_of_runSetup hrun rfl (hstLockWrite_ignored h) rfl rfl⟩
    intro hopen hv hroom d
    exact State.runSetup_locks hrun (hstLockWrite_locks hopen hv hroom)
  case locked =>
    intro s hrun hl
    refine ⟨?register, fun out v => ?_, fun v => ?_, fun v => ?_, fun v => ?_, fun c => ⟨?_, ?_⟩, ?reset⟩
    case register =>
      intro off v ha h10 h14 h8 h18
      have he : registerWrite off.toNat false v s.dev = s.dev.framed s.dev.settle := by
        rw [registerWrite_narrow off.toNat v s.dev ha, Dev.writeWord_of_locked _ hl (by simp [h10, h14, h8, h18])]
      exact goes_of_runSetup (e := s.dev.framed s.dev.settle) hrun rfl he rfl rfl
    · exact goes_of_run hrun rfl (tbTrigModeWrite_of_locked v hl out.val)
    · exact goes_of_run hrun rfl (plgCtlArmWrite_of_locked v hl)
    · exact goes_of_runSetup hrun rfl (visDescSeedWrite_of_locked v hl) rfl rfl
    · exact goes_of_runSetup hrun rfl (spnSnsPoolWrite_of_locked v hl) rfl rfl
    · exact goes_of_run_settle hrun rfl (hstCtxOpenReg_of_locked c.val hl)
    · exact goes_of_run_settle hrun rfl (hstCtxTeardownReg_of_locked c.val hl)
    case reset =>
      intro f
      obtain ⟨t, ht, -, -, hlock, -⟩ := s.run_next (fun d => (functionLevelReset f.val d).settle)
      exact ⟨t, ht, hlock.trans hl⟩

end Sys2Proof
end

section
/-! Rings as the host reaches them (R76, R77, R82, R83, R90, R93, R95): presented descriptors, doorbells, accesses, interrupts, LATENESS. -/

namespace Sys2Proof.Machine

/-! ## Doorbells (R76, R82) -/

section
variable {d : Dev} {f c : Nat} {v : DW}

/-- A page the function does not reach: the write is only counted. -/
theorem sqTailWrite_foreign (ring : Nat) (h : d.pageLive f c = false) : sqTailWrite f c ring v d = d.count cDbErr :=
  if_pos (by simp [h])

theorem cqHeadWrite_foreign (h : d.pageLive f c = false) : cqHeadWrite f c v d = d.count cDbErr := if_pos (by simp [h])

theorem eqHeadWrite_foreign (h : d.pageLive f c = false) : eqHeadWrite f c v d = d.count cDbErr := if_pos (by simp [h])

/-- On a page the function reaches a tail is taken when context, ring and the two distances allow it (R82). -/
theorem sqTailWrite_live (ring : Nat) (h : d.pageLive f c = true) :
    let x := d.ctx c
    let r := x.sq.getD ring Ring.reset
    sqTailWrite f c ring v d =
      if x.st = .opened ∧ ring < x.rings ∧ (v - r.head).toNat ≤ r.size ∧ (v - r.tail).toNat ≤ r.size then
        d.setCtx c { x with sq := x.sq.setIfInBounds ring { r with tail := v } }
      else d.doorbellBad c (8 * ring) v :=
  if_neg (by simp [h])

/-- A head is taken when it neither passes the tail nor moves backward (R82). -/
theorem cqHeadWrite_live (h : d.pageLive f c = true) :
    let x := d.ctx c
    cqHeadWrite f c v d =
      if x.st = .opened ∧ (v - x.cqHead).toNat ≤ (x.cqTail - x.cqHead).toNat then d.setCtx c { x with cqHead := v }
      else d.doorbellBad c 0x100 v := by
  simp [cqHeadWrite, headOk, h]

theorem eqHeadWrite_live (h : d.pageLive f c = true) :
    let x := d.ctx c
    eqHeadWrite f c v d =
      if x.st = .opened ∧ (v - x.eqHead).toNat ≤ (x.eqTail - x.eqHead).toNat then d.setCtx c { x with eqHead := v }
      else d.doorbellBad c 0x108 v := by
  simp [eqHeadWrite, headOk, h]

/-! ## Accesses that are not performed (R76, R77) -/

/-- A function but PF0 reaches the pages of its own contexts only. -/
theorem Dev.pageLive_foreign (hf : f ≠ 0) (hc : d.func c ≠ f) : d.pageLive f c = false := by simp [Dev.pageLive, hf, hc]

/-- An access of another size or alignment, or to a page the function does not reach: a write is counted, a read gives zero. -/
theorem barAccessInvalid_ignored {page : Bool} {off size : Nat} (write : Bool)
    (h : barAccessOk page off size = false ∨ (page = true ∧ d.pageLive f (off / 4096) = false)) :
    barAccessInvalid f page off size write d = if write = true then d.count cDbErr else d.emitOut (.readData 0) := by
  have hbad : (!barAccessOk page off size || (page && !d.pageLive f (off / 4096))) = true := by
    rcases h with h | ⟨hp, h⟩
    · simp [h]
    · simp [hp, h]
  exact if_neg (by simp [hbad])

/-- An access that is performed is none of BAR_ACCESS_INVALID. -/
theorem barAccessInvalid_performed {page write : Bool} {off size : Nat} (hok : barAccessOk page off size = true)
    (hpage : page = true → d.pageLive f (off / 4096) = true) : barAccessInvalid f page off size write d = d := by
  have hgood : (!barAccessOk page off size || (page && !d.pageLive f (off / 4096))) = false := by simpa [hok] using hpage
  exact if_pos (by simp [hgood])

end

theorem barAccessOk_misfit {page : Bool} {off size : Nat} (h : (size ≠ 4 ∧ size ≠ 8) ∨ off % size ≠ 0) :
    barAccessOk page off size = false := by
  rcases h with ⟨h4, h8⟩ | h
  · simp [barAccessOk, h4, h8]
  · simp [barAccessOk, h]

theorem barAccessOk_aligned {page : Bool} {off size : Nat} (hs : size = 4 ∨ size = 8) (ha : off % size = 0)
    (hin : off < if page = true then 0x40000 else 0x100000) : barAccessOk page off size = true := by
  simp [barAccessOk, hs, ha, hin]

/-! ## LATENESS (R93) -/

/-- The ceiling of a quotient by 1,000, as LATENESS forms it. -/
theorem neg_neg_div_thousand {x z : Int} (hlo : 1000 * (z - 1) < x) (hhi : x ≤ 1000 * z) : -((-x) / 1000) = z := by omega

/-- A value saturated to 32 bits reads back as itself. -/
theorem dwI_satS_toInt (z : Int) : (dwI (satS 32 z)).toInt = max (-(2 ^ 31)) (min (2 ^ 31 - 1) z) := by
  have hsat : satS 32 z = max (-(2 ^ 31)) (min (2 ^ 31 - 1) z) := by
    unfold satS clampI
    omega
  rw [dwI, BitVec.toInt_ofInt, hsat]
  refine Int.bmod_eq_of_le ?_ ?_ <;> omega

theorem lateness_none (finish : Nat) : lateness finish 0 = 0 := rfl

/-- Against a DEADLINE it is the ceiling of the microseconds past it, saturated. -/
theorem lateness_toInt {finish deadline : Nat} (h : deadline ≠ 0) {z : Int} (hlo : 1000 * (z - 1) < (finish : Int) - deadline)
    (hhi : (finish : Int) - deadline ≤ 1000 * z) : (lateness finish deadline).toInt = max (-(2 ^ 31)) (min (2 ^ 31 - 1) z) := by
  have hz : lateness finish deadline = dwI (satS 32 (-((-((finish : Int) - deadline)) / 1000))) := if_neg h
  rw [hz, neg_neg_div_thousand hlo hhi, dwI_satS_toInt]

/-! ## Interrupts (R95) -/

section
variable {d : Dev} {f v t : Nat}

theorem irqCoalesceExpiry_due (hw : (Tab.getD d.vecs (64 * f + v) Vec.reset).window = some t) (h : t ≤ d.now) :
    irqCoalesceExpiry f v d = d.sendVec f v := by
  simp [irqCoalesceExpiry, hw, h]

theorem irqCoalesceExpiry_early (hw : (Tab.getD d.vecs (64 * f + v) Vec.reset).window = some t) (h : d.now < t) :
    irqCoalesceExpiry f v d = d := by
  simp [irqCoalesceExpiry, hw, Nat.not_le.2 h]

theorem Dev.sendVec_unmasked (h : (Tab.getD d.vecs (64 * f + v) Vec.reset).masked = false) :
    d.sendVec f v =
      { d with
        vecs := Tab.put Vec.reset d.vecs (64 * f + v) { Tab.getD d.vecs (64 * f + v) Vec.reset with window := none }
        out := d.out ++ [.msix f v] } :=
  if_neg (by simp [h])

theorem Dev.sendVec_masked (h : (Tab.getD d.vecs (64 * f + v) Vec.reset).masked = true) :
    d.sendVec f v =
      { d with vecs := Tab.put Vec.reset d.vecs (64 * f + v) { Tab.getD d.vecs (64 * f + v) Vec.reset with pending := true, window := none } } :=
  if_pos h

theorem msixVectorUnmask_eq (d : Dev) (f v : Nat) :
    msixVectorUnmask f v d =
      { d with
        vecs := Tab.put Vec.reset d.vecs (64 * f + v) { Tab.getD d.vecs (64 * f + v) Vec.reset with masked := false, pending := false }
        out := if (Tab.getD d.vecs (64 * f + v) Vec.reset).pending = true then d.out ++ [.msix f v] else d.out } := by
  cases h : (Tab.getD d.vecs (64 * f + v) Vec.reset).pending <;> simp [msixVectorUnmask, Dev.emitOut, h]

end

end Sys2Proof.Machine

namespace Sys2Proof

open Machine

/-- Settles O12: every row that presents a descriptor submits it, and an accepted one is launched. -/
theorem opcodeRowsRun : Obligations.OpcodeRowsRun := by
  unfold Obligations.OpcodeRowsRun
  intro i s c w hp hrun ht hj
  exact goes_of_accepted hp hrun ht hj

/-- Settles O13: a group of one that its checks refuse completes with their status. -/
theorem opcodeRowsRefusedByCheck : Obligations.OpcodeRowsRefusedByCheck := by
  unfold Obligations.OpcodeRowsRefusedByCheck
  intro i s c w st r4 hp hrun ht hj
  exact goes_of_run hrun (exec_of_presented s hp) (s.dev.submit_refused c w st r4 (presented_ctx_lt hp) ht hj)

/-- Settles O14: nothing is presented, so a running device is framed by itself; another runs no row at all. -/
theorem opcodeRowsNeedAnOpenContext : Obligations.OpcodeRowsNeedAnOpenContext := by
  unfold Obligations.OpcodeRowsNeedAnOpenContext
  intro i s c w hp h
  rw [exec_of_presented s hp]
  cases hrun : s.dev.running with
  | true => rw [s.run_goes _ hrun, s.dev.submit_none c w h, Dev.framed_self]
  | false =>
    obtain ⟨t, ht, -, -, -, hsame⟩ := s.run_next (fun d => d.submit c w)
    rw [ht, hsame hrun]

/-- Settles O16: each doorbell tests its condition, and otherwise counts and reports. -/
theorem doorbellWrites : Obligations.DoorbellWrites := by
  unfold Obligations.DoorbellWrites
  intro f c v s hrun hpage d x bad
  refine ⟨?tail, ?cqHead, ?eqHead⟩
  case tail =>
    intro ring r ok
    have hwrite := sqTailWrite_live (v := v) ring.val hpage
    exact ⟨fun h => goes_of_run hrun rfl (hwrite.trans (if_pos h)), fun h => goes_of_run hrun rfl (hwrite.trans (if_neg h))⟩
  case cqHead =>
    intro ok
    have hwrite := cqHeadWrite_live (v := v) hpage
    exact ⟨fun h => goes_of_run hrun rfl (hwrite.trans (if_pos h)), fun h => goes_of_run hrun rfl (hwrite.trans (if_neg h))⟩
  case eqHead =>
    intro ok
    have hwrite := eqHeadWrite_live (v := v) hpage
    exact ⟨fun h => goes_of_run hrun rfl (hwrite.trans (if_pos h)), fun h => goes_of_run hrun rfl (hwrite.trans (if_neg h))⟩

/-- Settles O17: the page answers neither a doorbell write nor another access. -/
theorem foreignPagesIgnoreWrites : Obligations.ForeignPagesIgnoreWrites := by
  unfold Obligations.ForeignPagesIgnoreWrites
  intro f c v s hrun hf hc
  have hpage : s.dev.pageLive f.val c.val = false := Dev.pageLive_foreign hf hc
  refine ⟨fun ring => ?_, ?_, ?_, fun off size hoff => ?_⟩
  · exact goes_of_run hrun rfl (sqTailWrite_foreign ring.val hpage)
  · exact goes_of_run hrun rfl (cqHeadWrite_foreign hpage)
  · exact goes_of_run hrun rfl (eqHeadWrite_foreign hpage)
  · have hbad : true = true ∧ s.dev.pageLive f.val (off.toNat / 4096) = false := ⟨rfl, by rwa [hoff]⟩
    exact ⟨goes_of_run hrun rfl (barAccessInvalid_ignored true (.inr hbad)), goes_of_run hrun rfl (barAccessInvalid_ignored false (.inr hbad))⟩

/-- Settles O18: an access is performed exactly when its size is 4 or 8, it is aligned to it and inside the BAR. -/
theorem otherAccessesReadZero : Obligations.OtherAccessesReadZero := by
  unfold Obligations.OtherAccessesReadZero
  intro f page off size s hrun
  refine ⟨fun h => ?misfit, fun write hs ha hpage => ?performed, fun wide v h => ?register⟩
  case misfit =>
    have hbad : barAccessOk page off.toNat size = false := barAccessOk_misfit h
    exact ⟨goes_of_run hrun rfl (barAccessInvalid_ignored true (.inl hbad)), goes_of_run hrun rfl (barAccessInvalid_ignored false (.inl hbad))⟩
  case performed =>
    have hin : off.toNat < if page = true then 0x40000 else 0x100000 := by
      split
      · next hp => exact (hpage hp).1
      · exact off.isLt
    exact goes_of_run hrun rfl (barAccessInvalid_performed (barAccessOk_aligned hs ha hin) (fun hp => (hpage hp).2))
  case register =>
    exact goes_of_runSetup (e := s.dev.count cDbErr) hrun rfl (if_pos h) rfl rfl

/-- Settles O22: the seventh word is LATENESS. -/
theorem latenessField : Obligations.LatenessField := by
  unfold Obligations.LatenessField
  intro w r finish l
  have hl : l = lateness finish w.deadline := rfl
  refine ⟨fun h => ?_, fun h z hlo hhi => ?_⟩
  · rw [hl, h, lateness_none]
  · rw [hl, lateness_toInt h hlo hhi]

/-- Settles O19: a window that ends sends, an unmasking sends what was pending. -/
theorem interruptsComplete : Obligations.InterruptsComplete := by
  unfold Obligations.InterruptsComplete
  intro f v s hrun d k x
  refine ⟨fun t hw => ⟨fun ht hm => ?_, fun ht hm => ?_, fun ht => ?_⟩, ?_⟩
  · exact goes_of_run hrun rfl ((irqCoalesceExpiry_due hw ht).trans (Dev.sendVec_unmasked hm))
  · exact goes_of_run hrun rfl ((irqCoalesceExpiry_due hw ht).trans (Dev.sendVec_masked hm))
  · exact goes_of_run hrun rfl (irqCoalesceExpiry_early hw ht)
  · exact goes_of_run hrun rfl (msixVectorUnmask_eq d f.val v.val)

/-- Settles O3: the reset state as it is written down. -/
theorem resetState : Obligations.ResetState := by
  unfold Obligations.ResetState
  refine ⟨rfl, ?contexts, rfl, rfl, rfl, rfl, rfl, rfl, rfl, rfl, rfl⟩
  case contexts =>
    intro c
    have hc : State.reset.dev.ctx c.val = Ctx.reset := by
      simp [Dev.ctx, State.reset, Dev.fresh, Vector.getD]
    rw [hc]
    exact ⟨rfl, rfl⟩

end Sys2Proof
end

section
/-! Records in their rings (R91–R94): a completion and an event lie whole at their index, and no other byte changes. -/

namespace Sys2Proof.Machine

/-! ## Bytes of words -/

@[simp] theorem le32_length (w : DW) : (le32 w).length = 4 := toLe_length _ _

@[simp] theorem leWords_length (l : List DW) : (leWords l).length = 4 * l.length := by
  induction l with
  | nil => rfl
  | cons w l ih =>
    have hcons : leWords (w :: l) = le32 w ++ leWords l := rfl
    rw [hcons, List.length_append, ih, le32_length, List.length_cons, Nat.mul_succ, Nat.add_comm]

/-- Eight words written into memory read back as their 32 bytes. -/
theorem Mem.read_write_words (m : Mem) (a : Nat) {l : List DW} (h : l.length = 8) : Mem.read (Mem.write m a (leWords l)) a 32 = leWords l := by
  have hn : (leWords l).length = 32 := by rw [leWords_length, h]
  exact hn ▸ Mem.read_write m a (leWords l)

/-- Outside the 32 bytes of eight words nothing changes. -/
theorem Mem.get_write_words (m : Mem) {a b : Nat} {l : List DW} (h : l.length = 8) (hb : b < a ∨ a + 32 ≤ b) :
    Mem.get (Mem.write m a (leWords l)) b = Mem.get m b :=
  Mem.get_write_outside m a b _ (by rwa [leWords_length, h])

/-! ## Contexts -/

theorem Dev.ctx_setCtx_ne (d : Dev) {c k : Nat} (x : Ctx) (hk : k < 64) (h : k ≠ c) : (d.setCtx c x).ctx k = d.ctx k := by
  simp [Dev.setCtx, Dev.ctx, Vector.getD, hk, h.symm]

@[simp] theorem Dev.ctx_raiseVec (d : Dev) (c v k : Nat) : (d.raiseVec c v).ctx k = d.ctx k := by simp only [Dev.ctx, Dev.raiseVec_ctxs]

/-! ## Completion records (R91, R92) -/

/-- The words of the next completion record of a context. -/
def Dev.compRecord (d : Dev) (c : Nat) (w : DescWords) (r : Fin_) : List DW :=
  compHead w r (r.finish.getD d.now) ++ [recWord7 (d.ctx c).cqTail (d.ctx c).cqSize]

/-- The address of the next completion record of a context (R91). -/
def Ctx.cqPlace (x : Ctx) : Nat := x.cqBase + 32 * (x.cqTail.toNat % x.cqSize)

/-- A context with one more record in its completion ring, and one fewer owed. -/
def Ctx.recorded (x : Ctx) : Ctx := { x with cqTail := x.cqTail + 1, owed := x.owed - 1 }

/-- The device with the next completion record of a context written. -/
def Dev.recorded (d : Dev) (c : Nat) (w : DescWords) (r : Fin_) : Dev :=
  ({ d with host := Mem.write d.host (d.ctx c).cqPlace (leWords (d.compRecord c w r)) } : Dev).setCtx c (d.ctx c).recorded

/-- Without a teardown the function of a context is under no reset. -/
theorem Dev.not_silent {d : Dev} {c : Nat} (h : (d.ctx c).tear = none) : d.silent c = false := by simp [Dev.silent, h]

section
variable {d : Dev} {c : Nat} (ho : (d.ctx c).st = .opened) (ht : (d.ctx c).tear = none) (w : DescWords) (r : Fin_)
include ho ht

/-- What a completion of an open context does: a refusal of the port is counted, the record written, and its interrupt raised or not. -/
theorem Dev.complete_cases :
    ∃ e, (e = d ∨ e = d.count cRefusePort) ∧
      (d.complete c w r = e.recorded c w r ∨ ∃ v, d.complete c w r = (e.recorded c w r).raiseVec c v) := by
  have hnotClosed : ¬ (d.ctx c).st = .closed := by simp [ho]
  unfold Dev.complete
  extract_lets x e a b f g
  rw [if_neg hnotClosed]
  have he : e = d ∨ e = d.count cRefusePort := by
    unfold e
    split
    · exact .inr rfl
    · exact .inl rfl
  have hsame : e.ctx c = d.ctx c ∧ e.silent c = d.silent c := by rcases he with he | he <;> rw [he] <;> exact ⟨rfl, rfl⟩
  have hg : g = e.recorded c w r := by
    unfold Dev.recorded Dev.compRecord
    rw [hsame.1]
    rfl
  rw [if_neg (by simp [hsame.2, Dev.not_silent ht])]
  refine ⟨e, he, ?_⟩
  rw [← hg]
  split
  · exact .inr ⟨_, rfl⟩
  · exact .inl rfl

/-- What the record leaves, in terms of the device before it. -/
theorem Dev.complete_recorded :
    (d.complete c w r).host = Mem.write d.host (d.ctx c).cqPlace (leWords (d.compRecord c w r)) ∧
      ∀ k, (d.complete c w r).ctx k = (d.setCtx c (d.ctx c).recorded).ctx k := by
  obtain ⟨e, he, hcases⟩ := Dev.complete_cases ho ht w r
  have hhost : (e.recorded c w r).host = Mem.write d.host (d.ctx c).cqPlace (leWords (d.compRecord c w r)) := by
    rcases he with rfl | rfl <;> rfl
  have hctx (k : Nat) : (e.recorded c w r).ctx k = (d.setCtx c (d.ctx c).recorded).ctx k := by
    rcases he with rfl | rfl <;> rfl
  rcases hcases with h | ⟨v, h⟩ <;> rw [h]
  · exact ⟨hhost, hctx⟩
  · exact ⟨(Dev.raiseVec_host _ c v).trans hhost, fun k => (Dev.ctx_raiseVec _ c v k).trans (hctx k)⟩

end

/-! ## Event records (R94) -/

/-- The address of the next event record of a context. -/
def Ctx.eqPlace (x : Ctx) : Nat := x.eqBase + 32 * (x.eqTail.toNat % x.eqSize)

section
variable {d : Dev} {e : Ev}

/-- With room in the ring of an open context the record is written and its interrupt raised. -/
theorem Dev.event_lands (ho : (d.ctx (d.evDest e)).st = .opened)
    (hroom : ((d.ctx (d.evDest e)).eqTail - (d.ctx (d.evDest e)).eqHead).toNat < (d.ctx (d.evDest e)).eqSize) :
    let c := d.evDest e
    let x := d.ctx c
    d.event e =
      ((({ d with host := Mem.write d.host x.eqPlace (e.bytes d.now (recWord7 x.eqTail x.eqSize)) } : Dev).setCtx c
        { x with eqTail := x.eqTail + 1 }).raiseVec c (d.regF (0x1408 + 64 * c) 13 8)) :=
  (if_neg (not_not.2 ho)).trans (if_neg (Nat.not_le.2 hroom))

/-- Without room it is dropped, counted, and its context marked as having lost one. -/
theorem Dev.event_full (ho : (d.ctx (d.evDest e)).st = .opened)
    (hfull : (d.ctx (d.evDest e)).eqSize ≤ ((d.ctx (d.evDest e)).eqTail - (d.ctx (d.evDest e)).eqHead).toNat) :
    let off := cEvtLostLo + 4 * (d.evDest e / 32)
    d.event e = (d.count cEvtDrop).setOwn off (d.own off ||| dwN (2 ^ (d.evDest e % 32))) :=
  (if_neg (not_not.2 ho)).trans (if_pos hfull)

theorem Dev.event_closed (h : (d.ctx (d.evDest e)).st ≠ .opened) : d.event e = d.count cEvtDrop := if_pos h

end

/-- A counter keeps every other word of its own. -/
theorem Dev.own_count_ne (d : Dev) {off k : Nat} (n : Nat) (h : k ≠ off) : (d.count off n).own k = d.own k := by
  show Tab.getD (Tab.put 0 d.regs off _) k 0 = Tab.getD d.regs k 0
  rw [Tab.getD_put, if_neg h]

end Sys2Proof.Machine

namespace Sys2Proof

open Machine

/-- Settles O20: the record is written at its place, the rest of a completion touches neither memory nor contexts. -/
theorem recordsAreWhereTheySay : Obligations.RecordsAreWhereTheySay := by
  unfold Obligations.RecordsAreWhereTheySay
  intro d c w r hc ho ht x e a n
  have hlen : (d.compRecord c w r).length = 8 := rfl
  obtain ⟨hhost, hctx⟩ := Dev.complete_recorded ho ht w r
  refine ⟨?read, fun b hb => ?frame, ?context, fun k hk hne => ?others, d.complete_descs c w r, d.complete_sheets c w r,
    d.complete_plans c w r, d.complete_setup c w r, d.complete_locked c w r⟩
  case read => exact (congrArg (fun m => Mem.read m a 32) hhost).trans (Mem.read_write_words d.host a hlen)
  case frame => exact (congrArg (fun m => Mem.get m b) hhost).trans (Mem.get_write_words d.host hlen hb)
  case context => exact (hctx c).trans (d.ctx_setCtx c _ hc)
  case others => exact (hctx k).trans (d.ctx_setCtx_ne _ hk hne)

/-- Settles O21: by whether the ring's context is open and has room. -/
theorem eventsLandInTheirRing : Obligations.EventsLandInTheirRing := by
  unfold Obligations.EventsLandInTheirRing
  intro d e c x t a hc
  refine ⟨fun ho hroom => ?lands, fun ho hfull => ?full, fun h => Dev.event_closed h⟩
  case lands =>
    have ht : t = _ := Dev.event_lands ho hroom
    have hhost : t.host = Mem.write d.host a (e.bytes d.now (recWord7 x.eqTail x.eqSize)) := by
      rw [ht, Dev.raiseVec_host]
      rfl
    refine ⟨?read, fun b hb => ?frame, ?context, ?regs⟩
    case read => exact (congrArg (fun m => Mem.read m a 32) hhost).trans (Mem.read_write_words d.host a rfl)
    case frame => exact (congrArg (fun m => Mem.get m b) hhost).trans (Mem.get_write_words d.host rfl hb)
    case context =>
      rw [ht, Dev.ctx_raiseVec]
      exact Dev.ctx_setCtx _ c _ hc
    case regs =>
      rw [ht, Dev.raiseVec_regs]
      rfl
  case full =>
    have hne : 0x1010 + 4 * (c / 32) ≠ 0x1018 := by omega
    rw [Dev.own_count_ne d 1 hne]
    exact Dev.event_full ho hfull

end Sys2Proof
end

section
/-! The life of contexts as the host sees it (R79–R81, R103–R106): opening, failing, resetting, closing. -/

namespace Sys2Proof.Machine

/-- A command of a device out of reset that acts through `runAlive` goes where its effect leads. -/
theorem goes_of_runAlive {i : Instr} {s : State} {f : Dev → Dev} {e : Dev} (halive : s.dev.alive = true) (hx : exec i s = s.runAlive f)
    (he : f s.dev = e) : Goes i s e := by
  rw [Goes, hx, s.runAlive_goes f halive, he]

section
variable {d : Dev} {c : Nat}

/-- A CLOSED context of an enabled function may open (R80). -/
theorem Dev.mayOpen_none (hst : (d.ctx c).st = .closed) (hf : d.funcOn (d.func c) = true) : d.mayOpen c = none := by
  simp [Dev.mayOpen, hst, hf]

theorem hstCtxOpenReg_opens (hlock : d.locked = false) (hst : (d.ctx c).st = .closed) (hf : d.funcOn (d.func c) = true) :
    hstCtxOpenReg c d = d.openCtx c := by
  simp [hstCtxOpenReg, hlock, Dev.mayOpen_none hst hf]

theorem hstCtxTeardownReg_starts (hlock : d.locked = false) (hst : (d.ctx c).st = .opened) :
    hstCtxTeardownReg c d = d.tearStart c { cause := 1, owner := none, silent := false } := by
  simp [hstCtxTeardownReg, hlock, hst]

/-- HST_DMA_FAULT of an access to a submission ring (R79). -/
def dmaEvent (c : Nat) (n : Fin 4) (a : QW) : Ev :=
  { code := 0x04, ctx := some c, d4 := dwN a.toNat, d5 := dwN (a.toNat / 2 ^ 32), d6 := dwN n.val }

theorem ringDmaFault_open (n : Fin 4) (a : QW) (hst : (d.ctx c).st = .opened) :
    ringDmaFault c (.sq n) a d = (d.event (dmaEvent c n a)).tearStart c { cause := 3, owner := none, silent := false } := by
  simp [ringDmaFault, hst, dmaEvent]

theorem ringDmaFault_tearing (n : Fin 4) (a : QW) (hst : (d.ctx c).st = .tearing) (hs : d.silent c = false) :
    ringDmaFault c (.sq n) a d = d.event (dmaEvent c n a) := by
  simp [ringDmaFault, hst, hs, dmaEvent]

/-- A context marked by a reset of PF0 opens, its mark cleared (R106). -/
theorem autoOpen_opens (hc : c < 64) (hmark : (d.ctx c).reopen = true) (hst : (d.ctx c).st = .closed) (hf : d.funcOn (d.func c) = true) :
    autoOpen c d = (d.setCtx c { d.ctx c with reopen := false }).openCtx c := by
  have hopen : (d.setCtx c { d.ctx c with reopen := false }).mayOpen c = none :=
    Dev.mayOpen_none (by rw [d.ctx_setCtx c _ hc]; exact hst) hf
  exact (if_pos ⟨hmark, hst⟩).trans (if_neg (by simp [hopen]))

/-- A reset of a VF with one context, which is OPEN, tears it down without further requests (R105). -/
theorem functionLevelReset_one {f : Nat} (hf : f ≠ 0) (hcs : (List.range 64).filter (fun k => f == 0 || d.func k == f) = [c])
    (hst : (d.ctx c).st = .opened) :
    functionLevelReset f d =
      { d.tearStart c { cause := 2, owner := none, silent := true } with
        vecs := (d.tearStart c { cause := 2, owner := none, silent := true }).vecs.filter (fun p => !([f] : List Nat).contains (p.1 / 64)) } := by
  unfold functionLevelReset
  rw [hcs]
  simp [hf, hst]

end

end Sys2Proof.Machine

namespace Sys2Proof

open Machine

/-- Settles O25: each event acts as its row says. -/
theorem contextEventsComplete : Obligations.ContextEventsComplete := by
  unfold Obligations.ContextEventsComplete
  intro c s hrun d x
  refine ⟨?opens, ?tears, ?fault, ?faultTearing, ?finish, ?auto, ?config, ?reset⟩
  case opens =>
    intro hlock hst hf
    exact goes_of_run_settle hrun rfl (hstCtxOpenReg_opens hlock hst hf)
  case tears =>
    intro hlock hst
    exact goes_of_run_settle hrun rfl (hstCtxTeardownReg_starts hlock hst)
  case fault =>
    intro hst n a
    exact goes_of_run_settle hrun rfl (ringDmaFault_open n a hst)
  case faultTearing =>
    intro hst hs n a
    exact goes_of_run_settle hrun rfl (ringDmaFault_tearing n a hst hs)
  case finish =>
    intro _ _ _
    exact goes_of_run_settle (f := fun d => d.tearFinish c.val) hrun rfl rfl
  case auto =>
    intro hmark hst hf e
    exact goes_of_run_settle hrun rfl (autoOpen_opens c.isLt hmark hst hf)
  case config =>
    intro f n vf bm hrrs l b
    have hanswers : ¬ s.dev.sec.rrs = true := Bool.eq_false_iff.1 hrrs
    exact goes_of_runAlive (f := fun d => if d.sec.rrs then d else pcieConfigWrite f.val n vf bm d) (s.dev.alive_of_running hrun) rfl
      (if_neg hanswers)
  case reset =>
    intro f hf hcs hst e
    exact goes_of_run_settle hrun rfl (functionLevelReset_one hf hcs hst)

end Sys2Proof
end

section
/-! Units in and out of service as opcode rows (R101, R102, R348, R351): disabling, enabling, restoring. -/

namespace Sys2Proof.Machine

/-! ## The effect by opcode -/

theorem opDefOf_withOp_restore (w : DescWords) : opDefOf (w.withOp 0x7D) = none := by
  unfold opDefOf
  rw [withOp_opc w 0x7D (by decide)]
  rfl

/-- An accepted FLT_RESTORE has the effect of `Dev.runRestore` on the device that accepted it. -/
theorem goes_of_restore {c : CtxId} {s : State} {w : DescWords} {x : Desc} {e : Dev} (hrun : s.dev.running = true)
    (hs : s.dev.starts c.val (w.withOp 0x7D) x) (he : (s.dev.taken c.val (w.withOp 0x7D)).1.runRestore x = e) :
    Goes (.fltRestore c w) s e.settle := by
  have hop : x.w.opc = 0x7D := hs.opc (by decide)
  obtain ⟨ht, hj, hx, hw⟩ := hs
  have hctl : (s.dev.taken c.val (w.withOp 0x7D)).1.startCtl x true = e := by simp only [Dev.startCtl, hop, he]
  rw [← hctl, ← Dev.launch_ctl true hx (hw ▸ opDefOf_withOp_restore w)]
  exact goes_of_accepted rfl hrun ht hj

section
variable {d : Dev} {x : Desc}

theorem Dev.startCtl_disable {whole : Bool} (h : x.w.opc = 0x05) : d.startCtl x whole = d.runDisable x := by
  simp only [Dev.startCtl, h]

theorem Dev.startCtl_enable {whole : Bool} (h : x.w.opc = 0x06) : d.startCtl x whole = d.runEnable x := by
  simp only [Dev.startCtl, h]

/-! ## UNIT_DISABLE (R101) -/

/-- The drain of a unit from the present instant on, for what still waits, 1 ms at most. -/
def Dev.drainOf (d : Dev) (id i : Nat) (waits : List Nat) : Drain :=
  { owner := id, index := i, until_ := d.now + 1000000, waits := waits, aborted := 0 }

theorem Dev.runDisable_inService (h : ¬ uIdx x.w.target ∈ d.disabled) :
    d.runDisable x =
      (({ d with
          disabled := d.disabled ++ [uIdx x.w.target]
          drains := d.drains ++ [d.drainOf x.id (uIdx x.w.target) (d.drainSet x.w.target x.id)] } : Dev).modDesc x.id
        (fun y => { y with await_ := .drain, phase := .dispatched })).settle := by
  unfold Dev.runDisable
  exact if_neg (by simpa using h)

theorem Dev.runDisable_drained (h : uIdx x.w.target ∈ d.disabled) (hl : d.drains.filter (fun r => r.index == uIdx x.w.target) = []) :
    d.runDisable x = d.endDesc x.id { st := .done } := by
  simp only [Dev.runDisable, hl]
  exact if_pos (by simpa using h)

theorem Dev.runDisable_draining (h : uIdx x.w.target ∈ d.disabled) (hl : d.drains.filter (fun r => r.index == uIdx x.w.target) ≠ []) :
    d.runDisable x =
      ({ d with
          drains := d.drains ++ [d.drainOf x.id (uIdx x.w.target)
            ((d.drains.filter (fun r => r.index == uIdx x.w.target)).map (fun r => r.owner))] } : Dev).modDesc x.id
        (fun y => { y with await_ := .drain, phase := .dispatched }) := by
  unfold Dev.runDisable
  refine (if_pos (by simpa using h)).trans ?_
  split
  · next hnil => exact absurd hnil hl
  · rfl

/-! ## UNIT_ENABLE (R102, R348) -/

theorem Dev.runEnable_disabled (h : uIdx x.w.target ∈ d.disabled) :
    d.runEnable x =
      (({ d with disabled := d.disabled.filter (· != uIdx x.w.target) } : Dev).modDesc x.id
        (fun y => { y with await_ := .enable (uIdx x.w.target), phase := .dispatched })).settle := by
  unfold Dev.runEnable
  exact if_neg (by simpa using h)

theorem Dev.runEnable_inService (h : ¬ uIdx x.w.target ∈ d.disabled) : d.runEnable x = d.endDesc x.id { st := .done } := by
  unfold Dev.runEnable
  exact if_pos (by simpa using h)

/-! ## FLT_RESTORE (R351) -/

theorem Dev.runRestore_outOfService (h : (uIdx x.w.target - 0x170) ∈ d.flt.partOos) :
    d.runRestore x =
      ({ d with flt := { d.flt with restores := d.flt.restores ++ [(uIdx x.w.target - 0x170, d.now, x.id)] } } : Dev).modDesc x.id
        (fun y => { y with await_ := .restore (uIdx x.w.target - 0x170), phase := .dispatched }) := by
  unfold Dev.runRestore
  exact if_pos (by simpa using h)

theorem Dev.runRestore_inService (h : ¬ (uIdx x.w.target - 0x170) ∈ d.flt.partOos) : d.runRestore x = d.endDesc x.id { st := .done } := by
  unfold Dev.runRestore
  exact if_neg (by simpa using h)

end

/-! ## Checks of a group of one (R86, R87, R90) -/

/-- A single entry at its ring's head is refused with what its checks say. -/
theorem Dev.judge_refused {d : Dev} {c : Nat} {w : DescWords} {st : Status} {r4 : DW} (hc : c < 64) (ht : d.takes c)
    (hchain : w.chain = false) (harm : w.opc ≠ 0x70) (hcheck : (d.queued c w).checkRing c w = some (st, r4)) :
    (d.queued c w).judge c 0 = .refused 1 st r4 := by
  obtain ⟨-, -, hempty⟩ := ht
  have hwaits : (d.queued c w).armWaits w = false := by simp [Dev.armWaits, harm]
  unfold Dev.judge
  rw [d.heldOf_queued c w hc hempty]
  simp [groupLen, hchain, hwaits, Dev.checkGroup, hcheck]

/-- The checks of an opcode the device runs itself, once form, class and target are right (R90). -/
theorem Dev.checkAt_ctl {d : Dev} {c : Nat} {w : DescWords} {k : Ctl} (hserv : d.flt.devOos = false) (hhead : headForm w .ring = true)
    (hop : opDefOf w = none) (hk : ctlOf w = some k) (hresv : k.resv w = true) (hport : d.checkPort c w k.owner k.named k.fresh = none) :
    d.checkAt c w .ring = d.checkCtl c w k := by
  unfold Dev.checkAt
  simp [hserv, hhead, hop, hk, hresv, hport]

/-- The checks of UNIT_ENABLE. -/
def enableCtl : Ctl := { resv := fun w => w.zero 6 15, check := Dev.checkUnit true }

/-- UNIT_ENABLE of a unit whose partition is out of service is refused (R102). -/
theorem Dev.checkCtl_enable {d : Dev} {c p : Nat} {w : DescWords} (hop : w.opc = 0x06) (hkind : mayDisable w.target = true)
    (hp : unitPart (uIdx w.target) = some p) (hout : d.partState p = 4) : d.checkCtl c w enableCtl = some .refusedDisabled := by
  have hcheck : d.checkUnit true c w = some .refusedDisabled := by simp [Dev.checkUnit, hkind, hp, hout]
  unfold Dev.checkCtl enableCtl
  simp [hop, hcheck]

theorem Dev.membersOf_congr {d e : Dev} (h : e.gaths = d.gaths) (k : Nat) : e.membersOf k = d.membersOf k := by
  simp only [Dev.membersOf, Dev.gath, h]

/-- Only the gatherings decide whether a handle is fresh (R16). -/
theorem Dev.fresh?_congr {d e : Dev} (h : e.gaths = d.gaths) (n k : Nat) : e.fresh? n k = d.fresh? n k := by
  induction n generalizing k with
  | zero => rfl
  | succ n ih => simp only [Dev.fresh?, Dev.gath, h, Dev.membersOf_congr h, ih]

/-- An entry in a ring takes no part in the checks of a target. -/
theorem Dev.checkTarget_queued (d : Dev) (c : Nat) (w : DescWords) (h : Nat) : (d.queued c w).checkTarget h = d.checkTarget h := by
  have hgaths : (d.queued c w).gaths = d.gaths := rfl
  have hfresh : (d.queued c w).fresh? nestFuel h = d.fresh? nestFuel h := Dev.fresh?_congr hgaths nestFuel h
  have hform : (d.queued c w).handleForm h = d.handleForm h := rfl
  simp only [Dev.checkTarget, hform, hfresh]

/-- An OWNER reaches every target (R17). -/
theorem Dev.checkPort_owner {d : Dev} {c : Nat} {w : DescWords} {owner named : Bool} (ho : d.owner c = true) (ht : d.checkTarget w.target = none) :
    d.checkPort c w owner named = none := by
  simp [Dev.checkPort, Dev.checkTenant, ho, ht]

/-- The checks refuse a UNIT_ENABLE in a partition out of service (R90, R102). -/
theorem Dev.judge_enable_refused {d : Dev} {c p : Nat} {w : DescWords} (hc : c < 64) (ht : d.takes c)
    (hp : unitPart (uIdx w.target) = some p) (hout : d.partState p = 4) (hkind : mayDisable w.target = true) (ho : d.owner c = true)
    (hserv : d.flt.devOos = false) (hchain : (w.withOp 0x06).chain = false) (hhead : headForm (w.withOp 0x06) .ring = true)
    (hzero : (w.withOp 0x06).zero 6 15 = true) (htarget : d.checkTarget w.target = none) :
    (d.queued c (w.withOp 0x06)).judge c 0 = .refused 1 .refusedDisabled 0 := by
  have hop : (w.withOp 0x06).opc = 0x06 := withOp_opc w 0x06 (by decide)
  have hport : (d.queued c (w.withOp 0x06)).checkPort c (w.withOp 0x06) true true = none :=
    Dev.checkPort_owner ho (by rw [withOp_target, Dev.checkTarget_queued, htarget])
  have hcheck : (d.queued c (w.withOp 0x06)).checkAt c (w.withOp 0x06) .ring = some .refusedDisabled :=
    calc (d.queued c (w.withOp 0x06)).checkAt c (w.withOp 0x06) .ring
      _ = (d.queued c (w.withOp 0x06)).checkCtl c (w.withOp 0x06) enableCtl :=
          Dev.checkAt_ctl hserv hhead (opDefOf_withOp_none w (by decide)) (by simp only [ctlOf, hop, enableCtl]) hzero hport
      _ = some .refusedDisabled := Dev.checkCtl_enable hop (by rwa [withOp_target]) (by rwa [withOp_target]) hout
  exact Dev.judge_refused hc ht hchain (by simp [hop]) (by simp only [Dev.checkRing, hcheck])

end Sys2Proof.Machine

namespace Sys2Proof

open Machine

/-- Settles O39: at acceptance by whether the unit is disabled; out of service the checks refuse it. -/
theorem unitEnableRow : Obligations.UnitEnableRow := by
  unfold Obligations.UnitEnableRow
  intro c w s hrun v d i
  have hw {x : Desc} (hs : s.dev.starts c.val v x) : x.w.target = w.target := by rw [hs.2.2.2, withOp_target]
  refine ⟨?disabled, ?inService, ?outOfService⟩
  case disabled =>
    intro x hs hi
    refine goes_of_starts rfl hrun (by decide) hs ?_
    rw [Dev.startCtl_enable (hs.opc (by decide)), Dev.runEnable_disabled (by rwa [hw hs]), hw hs]
  case inService =>
    intro x hs hi
    refine goes_of_starts rfl hrun (by decide) hs ?_
    rw [Dev.startCtl_enable (hs.opc (by decide)), Dev.runEnable_inService (by rwa [hw hs])]
  case outOfService =>
    intro p ht hp hout hkind ho hserv hchain hhead hzero htarget
    have hj := Dev.judge_enable_refused c.isLt ht hp hout hkind ho hserv hchain hhead hzero htarget
    exact goes_of_run hrun rfl (s.dev.submit_refused c.val v .refusedDisabled 0 c.isLt ht hj)

/-- Settles O40: at acceptance by whether the unit is disabled and still drains; of a partition by whether it is out of service. -/
theorem unitDisableAndRestoreRows : Obligations.UnitDisableAndRestoreRows := by
  unfold Obligations.UnitDisableAndRestoreRows
  intro c w x s hrun at_ go i
  have hw {n : Nat} (hs : go n) : x.w.target = w.target := by rw [hs.2.2.2, withOp_target]
  refine ⟨?disable, ?again, ?inService, ?outOfService⟩
  case disable =>
    intro hs hi r
    refine goes_of_starts rfl hrun (by decide) hs ?_
    rw [Dev.startCtl_disable (hs.opc (by decide)), Dev.runDisable_inService (by rwa [hw hs]), hw hs]
    rfl
  case again =>
    intro hs hi l
    refine ⟨?drained, ?draining⟩
    case drained =>
      intro hl
      refine goes_of_starts rfl hrun (by decide) hs ?_
      rw [Dev.startCtl_disable (hs.opc (by decide)), Dev.runDisable_drained (by rwa [hw hs]) (by rwa [hw hs])]
    case draining =>
      intro hl r
      refine goes_of_starts rfl hrun (by decide) hs ?_
      rw [Dev.startCtl_disable (hs.opc (by decide)), Dev.runDisable_draining (by rwa [hw hs]) (by rwa [hw hs]), hw hs]
      rfl
  case inService =>
    intro hs hi
    exact goes_of_restore hrun hs (Dev.runRestore_inService (by rwa [hw hs]))
  case outOfService =>
    intro hs hi
    refine goes_of_restore hrun hs ?_
    rw [Dev.runRestore_outOfService (by rwa [hw hs]), hw hs]

end Sys2Proof
end

section
/-! The service port and debug unlock (R97–R99, R362, R371–R373): what an accepted command does, and what is refused. -/

namespace Sys2Proof.Machine

/-! ## Accepting a service command (R98) -/

/-- The service port takes a command: nothing is outstanding, firmware runs with a vendor record, and the reserved field is clear. -/
structure Dev.ServesCmd (d : Dev) (k : SvcCmd) : Prop where
  idle     : d.svcBusy = false
  vendor   : d.sec.dead = false
  firmware : d.sec.recovery = false
  form     : k.reserved = 0

section
variable {d : Dev} {k : SvcCmd} {f : Dev → Dev} (op : Nat) (h : d.ServesCmd k)
include h

/-- A command whose argument is right has its effect. -/
theorem Dev.svc_accepts {ok : Bool} (hok : ok = true) : d.svc op k ok f = f d := by
  simp [Dev.svc, h.idle, h.vendor, h.firmware, h.form, hok]

/-- A command whose argument is wrong is refused. -/
theorem Dev.svc_malformed {ok : Bool} (hok : ok = false) : d.svc op k ok f = d.svcRefuse op k .refusedMalformed := by
  simp [Dev.svc, h.idle, h.vendor, h.firmware, hok]

end

section
variable {d : Dev} {k : SvcCmd} (h : d.ServesCmd k)
include h

/-! ## INFO and DUMP_SHEET (R98, R99) -/

theorem svcInfo_answers (harg : k.arg = 0) : svcInfo k d = d.emitOut (.service .done k.tag 0 (le32 d.colophon ++ Digest.bytes d.sec.meas)) :=
  Dev.svc_accepts 1 h (by simp [harg])

theorem svcInfo_malformed (harg : k.arg ≠ 0) : svcInfo k d = d.svcRefuse 1 k .refusedMalformed :=
  Dev.svc_malformed 1 h (by simpa using harg)

/-- A sheet DUMP_SHEET may read: a landing sheet, a DEVICE sheet, the dump sheet, or any once debug is unlocked (R99). -/
def Dev.mayDump (d : Dev) (w : DW) : Prop :=
  isLanding (shIdx w) = true ∨ (d.sheet (shIdx w)).access = 2 ∨ d.own 0x15004 = w ∨ d.sec.unlocked = true

theorem svcDumpSheet_reads (hfit : k.arg.toNat < 2 ^ 32) (hlive : d.handleStatus (dwN k.arg.toNat) = none) (hmay : d.mayDump (dwN k.arg.toNat)) :
    let w := dwN k.arg.toNat
    let z := d.sheet (shIdx w)
    svcDumpSheet k d =
      (((d.eccHome (shIdx w) 0 z.size 0 none).1.emitOut (.dump (d.plainRead (shIdx w) 0 z.size))).emitOut
        (.service .done k.tag (BitVec.ofNat 64 (z.round.toNat * (1 + 2 ^ 16) + z.tok.code * (2 ^ 32 + 2 ^ 34))) [])) := by
  unfold svcDumpSheet
  dsimp only
  rw [Dev.svc_accepts 3 h (decide_eq_true hfit), hlive]
  exact if_neg (not_not.2 hmay)

theorem svcDumpSheet_refused (hfit : k.arg.toNat < 2 ^ 32) (hlive : d.handleStatus (dwN k.arg.toNat) = none)
    (hno : ¬ d.mayDump (dwN k.arg.toNat)) : svcDumpSheet k d = d.svcRefuse 3 k .refusedPort := by
  unfold svcDumpSheet
  dsimp only
  rw [Dev.svc_accepts 3 h (decide_eq_true hfit), hlive]
  exact if_pos hno

/-! ## STAGE_FIRMWARE and STAGE_MAP (R362, R371) -/

theorem svcStageFirmware_starts (harg : k.arg = 0) (hfree : d.sec.staging = none) (hgood : fwBad d.vault d.board.variant k.data = none) :
    svcStageFirmware k d = d.startStage k.data none k.tag := by
  refine (Dev.svc_accepts 4 h (by simp [harg])).trans ((if_neg (by simp [hfree])).trans ?_)
  rw [hgood]

theorem svcStageFirmware_rejects (harg : k.arg = 0) (hfree : d.sec.staging = none) {r : Nat}
    (hbad : fwBad d.vault d.board.variant k.data = some r) : svcStageFirmware k d = (d.secReject none 0 r).svcDone k .failedCheck := by
  refine (Dev.svc_accepts 4 h (by simp [harg])).trans ((if_neg (by simp [hfree])).trans ?_)
  rw [hbad]

theorem svcStageMap_noSheet (harg : k.arg = 0) (hnone : d.sheetOf (d.own 0x17010) = none) :
    svcStageMap k d = d.svcRefuse 5 k .refusedDisabled := by
  refine (Dev.svc_accepts 5 h (by simp [harg])).trans ?_
  simp only [hnone]

/-- The device in which STAGE_MAP has asked for the writer token of the staging sheet. -/
def Dev.askedStageMap (d : Dev) (k : SvcCmd) : Dev :=
  let e := d.freshId.2.modSheet (shIdx (d.own 0x17010)) (fun y => y.addWrite d.freshId.1)
  { e with sec := { e.sec with mapWait := some (d.freshId.1, k.tag, k.data) } }

section
variable {z : Sheet} {r : Req} (harg : k.arg = 0) (hz : d.sheetOf (d.own 0x17010) = some z) (hsize : k.data.length ≤ z.size)
  (hr : ((d.askedStageMap k).sheet (shIdx (d.own 0x17010))).q.find? (fun r => r.desc == d.freshId.1) = some r)
include harg hz hsize hr

/-- Its request is granted at once or waits. -/
theorem svcStageMap_asks :
    svcStageMap k d =
      if ((d.askedStageMap k).sheet (shIdx (d.own 0x17010))).grantable r = true then
        ((d.askedStageMap k).grantReq (shIdx (d.own 0x17010)) r).finishStageMap
      else d.askedStageMap k := by
  unfold svcStageMap
  rw [Dev.svc_accepts 5 h (by simp [harg])]
  dsimp only
  rw [hz]
  refine (if_neg (Nat.not_lt.2 hsize)).trans ?_
  unfold Dev.askedStageMap at hr ⊢
  dsimp only at hr ⊢
  rw [hr]

end

end

/-! ## Undefined operations and the end of a staging (R98, R362) -/

theorem svcUndefinedOp_refused {d : Dev} {k : SvcCmd} (h : d.ServesCmd k) {op : Byte} (hop : op.toNat = 0 ∨ 7 < op.toNat) :
    svcUndefinedOp op k d = d.svcRefuse op.toNat k .refusedMalformed := by
  have hundefined : op.toNat = 0 ∨ 7 < op.toNat ∨ k.reserved ≠ 0 := hop.imp_right .inl
  exact (if_pos hundefined).trans (Dev.svc_malformed op.toNat h rfl)

/-- The device with the staged image in its slot. -/
def Dev.staged (d : Dev) (g : Staging) : Dev :=
  { d with
    vault :=
      if d.sec.recovery then (d.vault.setSlot g.slotB g.image).update (fun r => { r with preferred := g.slotB })
      else d.vault.setSlot g.slotB g.image
    sec := { d.sec with staging := none, staged := true } }

section
variable {d : Dev} {g : Staging}

theorem firmwareStageDone_none (h : d.sec.staging = none) : firmwareStageDone d = d := by
  unfold firmwareStageDone
  rw [h]

/-- A staging asked for through the service port is answered there. -/
theorem firmwareStageDone_port (h : d.sec.staging = some g) (ho : g.owner = none) :
    firmwareStageDone d =
      ((d.staged g).event { code := 0xE0, d4 := dwN (b2n g.slotB), d5 := fwSvn g.image }).emitOut (.service .done g.tag 0 []) := by
  unfold firmwareStageDone
  rw [h]
  dsimp only
  rw [ho]
  rfl

/-- A staging asked for by a descriptor completes it. -/
theorem firmwareStageDone_desc {id : Nat} {x : Desc} (h : d.sec.staging = some g) (ho : g.owner = some id) (hx : d.desc? id = some x) :
    firmwareStageDone d =
      ((d.staged g).event { code := 0xE0, d4 := dwN (b2n g.slotB), d5 := fwSvn g.image, tag := x.w.tag, ctx := some x.ctx }).endDesc id
        { st := .done } := by
  have hx' : (d.staged g).desc? id = some x := hx
  unfold Dev.staged at hx' ⊢
  unfold firmwareStageDone
  rw [h]
  dsimp only
  rw [ho]
  dsimp only
  rw [hx']

end

/-! ## Debug unlock (R372, R373) -/

/-- The device without an open challenge. -/
def Dev.noChallenge (d : Dev) : Dev := { d with sec := { d.sec with challenge := none } }

/-- The device with debug unlocked, and the unlock measured (R373). -/
def Dev.debugUnlocked (d : Dev) : Dev :=
  let e := d.addLog 5 (Config.freeDigest d.free)
  { e with free := e.free + 1, sec := { e.sec with unlocked := true } }

section
variable {d : Dev} {k : SvcCmd} (h : d.ServesCmd k) (harg : k.arg = 0)
include h harg

theorem svcUnlockChallenge_answers (hopen : d.sec.lockedTo = none) :
    svcUnlockChallenge k d =
      ({ d with free := d.free + 1, sec := { d.sec with challenge := some (d.challengeOf, d.now) } } : Dev).emitOut
        (.service .done k.tag 0 d.challengeOf) := by
  unfold svcUnlockChallenge
  rw [Dev.svc_accepts 6 h (by simp [harg])]
  exact if_neg (by simp [hopen])

/-- In the second after a failure no challenge is given. -/
theorem svcUnlockChallenge_locked {t : Nat} (hlock : d.sec.lockedTo = some t) (ht : d.now < t) :
    svcUnlockChallenge k d = d.svcRefuse 6 k .refusedDisabled := by
  unfold svcUnlockChallenge
  rw [Dev.svc_accepts 6 h (by simp [harg])]
  exact if_pos (by simp [hlock, ht])

/-- Without an open challenge, or with a key that is not a debug key, a response fails. -/
theorem svcUnlockResponse_fails (hbad : d.openChallenge = none ∨ d.debugKind (k.data.take 1952) = none) :
    svcUnlockResponse k d = d.noChallenge.unlockFail k := by
  have hbad' : d.openChallenge = none ∨ d.noChallenge.debugKind (k.data.take 1952) = none := hbad
  unfold Dev.noChallenge at hbad' ⊢
  unfold svcUnlockResponse
  rw [Dev.svc_accepts 7 h (by simp [harg])]
  dsimp only
  split
  · next c n hc hn => rcases hbad' with hnone | hnone <;> simp_all
  · rfl

/-- A good signature over the open challenge by a debug key unlocks, while the log has room. -/
theorem svcUnlockResponse_unlocks {c : Bytes} {n : Nat} (hc : d.openChallenge = some c) (hn : d.debugKind (k.data.take 1952) = some n)
    (hlen : k.data.length = 5261)
    (hsig : Config.mldsaVerify (k.data.take 1952) (sha3 c) (asciiOf "JGR-DBG") (k.data.drop 1952) = true) (hroom : d.measFull = false) :
    svcUnlockResponse k d = (d.noChallenge.debugUnlocked.event { code := 0xE3, d4 := dwN n }).svcDone k .done := by
  have hn' : d.noChallenge.debugKind (k.data.take 1952) = some n := hn
  have hroom' : ¬ d.noChallenge.measFull = true := Bool.eq_false_iff.1 hroom
  unfold Dev.noChallenge at hn' hroom' ⊢
  unfold svcUnlockResponse
  rw [Dev.svc_accepts 7 h (by simp [harg])]
  dsimp only
  rw [hc, hn']
  exact (if_pos ⟨hlen, hsig⟩).trans (if_neg hroom')

end

section
variable {d : Dev}

theorem unlockChallengeLapse_due {c : Bytes} {t : Nat} (hc : d.sec.challenge = some (c, t)) (ht : t + 60 * 10 ^ 9 ≤ d.now) :
    unlockChallengeLapse d = d.noChallenge := by
  unfold unlockChallengeLapse
  rw [hc]
  exact if_pos ht

theorem unlockLockoutEnd_due {t : Nat} (hlock : d.sec.lockedTo = some t) (ht : t ≤ d.now) :
    unlockLockoutEnd d = { d with sec := { d.sec with lockedTo := none } } := by
  unfold unlockLockoutEnd
  rw [hlock]
  exact if_pos ht

/-! ## The TEST port (R97) -/

/-- While debug is locked each access is counted, and a read gives zero. -/
theorem testDebugAccess_locked (write : Bool) (h : d.sec.unlocked = false) :
    testDebugAccess write d = if write = true then d.count cTestRefuse else (d.count cTestRefuse).emitOut (.readData 0) :=
  if_pos (by simp [h])

/-- Unlocked, a write marks the device, and a read gives a free value. -/
theorem testDebugAccess_unlocked (write : Bool) (h : d.sec.unlocked = true) :
    testDebugAccess write d =
      if write = true then { d with sec := { d.sec with tampered := true } }
      else ({ d with free := d.free + 1 } : Dev).emitOut (.readData (Config.freeValue d.free)) :=
  if_neg (by simp [h])

end

end Sys2Proof.Machine

namespace Sys2Proof

open Machine

/-- Settles O50: each command by its argument and what it names. -/
theorem serviceCommandsComplete : Obligations.ServiceCommandsComplete := by
  unfold Obligations.ServiceCommandsComplete
  intro k s halive hbusy hdead hrec hres d
  have hserves : s.dev.ServesCmd k := ⟨hbusy, hdead, hrec, hres⟩
  refine ⟨?info, ?infoArg, ?dump, ?firmware, ?noSheet, ?stageMap, ?undefinedOp, ?notStaging, ?staged, ?link⟩
  case info =>
    intro harg
    exact goes_of_runAlive halive rfl (svcInfo_answers hserves harg)
  case infoArg =>
    intro harg
    exact goes_of_runAlive halive rfl (svcInfo_malformed hserves harg)
  case dump =>
    intro hfit hlive w z
    refine ⟨fun hmay => goes_of_runAlive halive rfl (svcDumpSheet_reads hserves hfit hlive hmay), fun hland hacc hdump hlock => ?_⟩
    have hno : ¬ s.dev.mayDump w := by
      rintro (h | h | h | h)
      · simp [hland] at h
      · exact hacc h
      · exact hdump h
      · exact absurd (hlock.symm.trans h) Bool.false_ne_true
    exact goes_of_runAlive halive rfl (svcDumpSheet_refused hserves hfit hlive hno)
  case firmware =>
    intro harg hfree
    exact ⟨fun hgood => goes_of_runAlive halive rfl (svcStageFirmware_starts hserves harg hfree hgood),
      fun r hbad => goes_of_runAlive halive rfl (svcStageFirmware_rejects hserves harg hfree hbad)⟩
  case noSheet =>
    intro harg hnone
    exact goes_of_runAlive halive rfl (svcStageMap_noSheet hserves harg hnone)
  case stageMap =>
    intro z harg hz hsize i e g r hr
    have hasks := svcStageMap_asks hserves harg hz hsize hr
    exact ⟨fun hgrant => goes_of_runAlive halive rfl (hasks.trans (if_pos hgrant)),
      fun hwait => goes_of_runAlive halive rfl (hasks.trans (if_neg (Bool.eq_false_iff.1 hwait)))⟩
  case undefinedOp =>
    intro op hop
    exact goes_of_runAlive halive rfl (svcUndefinedOp_refused hserves hop)
  case notStaging =>
    intro hnone
    exact goes_of_runAlive halive rfl (firmwareStageDone_none hnone)
  case staged =>
    intro g hg v e ev
    exact ⟨fun ho => goes_of_runAlive halive rfl (firmwareStageDone_port hg ho),
      fun id x ho hx => goes_of_runAlive halive rfl (firmwareStageDone_desc hg ho hx)⟩
  case link =>
    intro up
    exact goes_of_runAlive (f := svcLinkChange up) halive rfl rfl

/-- Settles O51: each command by the challenge, the lock and the key; the TEST port by whether debug is unlocked. -/
theorem unlockCommandsComplete : Obligations.UnlockCommandsComplete := by
  unfold Obligations.UnlockCommandsComplete
  intro k s halive hbusy hdead hrec hres harg d
  have hserves : s.dev.ServesCmd k := ⟨hbusy, hdead, hrec, hres⟩
  refine ⟨?challenge, ?lockedOut, ?fails, ?unlocks, ?lapse, ?lockoutEnd, ?testPort⟩
  case challenge =>
    intro hopen
    exact goes_of_runAlive halive rfl (svcUnlockChallenge_answers hserves harg hopen)
  case lockedOut =>
    intro t hlock ht
    exact goes_of_runAlive halive rfl (svcUnlockChallenge_locked hserves harg hlock ht)
  case fails =>
    intro hbad
    exact goes_of_runAlive halive rfl (svcUnlockResponse_fails hserves harg hbad)
  case unlocks =>
    intro c n hc hn hlen hsig hroom e g
    exact goes_of_runAlive halive rfl (svcUnlockResponse_unlocks hserves harg hc hn hlen hsig hroom)
  case lapse =>
    intro c t hc ht
    exact goes_of_runAlive halive rfl (unlockChallengeLapse_due hc ht)
  case lockoutEnd =>
    intro t hlock ht
    exact goes_of_runAlive halive rfl (unlockLockoutEnd_due hlock ht)
  case testPort =>
    intro a v
    refine ⟨fun h => ⟨?_, ?_⟩, fun h => ⟨?_, ?_⟩⟩
    · exact goes_of_runAlive halive rfl (testDebugAccess_locked true h)
    · exact goes_of_runAlive halive rfl (testDebugAccess_locked false h)
    · exact goes_of_runAlive halive rfl (testDebugAccess_unlocked true h)
    · exact goes_of_runAlive halive rfl (testDebugAccess_unlocked false h)

end Sys2Proof
end

section
/-! CSI-2 frames of one camera (R112, R115, R116, R127): what a Frame Start, a pixel line and a Frame End do. -/

namespace Sys2Proof.Machine

/-- The frame a Frame Start opens: no line of it has come. -/
def Frame.opened (c : Nat) (dropped : Bool) (i : Nat) (n : BitVec 16) : Frame :=
  { cam := c, dropped := dropped, sheet := i, number := n, lines := 0, trunc := false, crcBad := false, emb := [] }

/-- An open frame after one more of its pixel lines, which should have `line` bytes. -/
def Frame.withLine (f : Frame) (line : Nat) (crcOk : Bool) (data : Bytes) : Frame :=
  { f with crcBad := f.crcBad || !crcOk, lines := f.lines + 1, trunc := f.trunc || decide (data.length ≠ line) }

/-- The device once a pixel line of a camera's open frame stands at its place. -/
def Dev.withLine (d : Dev) (c : Nat) (f : Frame) (crcOk : Bool) (data : Bytes) : Dev :=
  (d.rawWrite f.sheet (d.camLine c * f.lines) (data.take (d.camLine c))).setFrame c (some (f.withLine (d.camLine c) crcOk data))

section
variable {d : Dev} {port vc : Nat}

/-! ## A channel without a camera -/

theorem csiFrameStart_noCamera (n : BitVec 16) (h : d.camsOf port vc = []) : csiFrameStart port vc n d = d.count cCsiDrop := by
  simp [csiFrameStart, h]

theorem csiFrameEnd_noCamera (h : d.camsOf port vc = []) : csiFrameEnd port vc d = d.count cCsiDrop := by
  simp [csiFrameEnd, h]

/-! ## A channel of one camera -/

variable {c : Nat} (h : d.camsOf port vc = [c])
include h

theorem csiFrameStart_takes {i : Nat} {e : Dev} (n : BitVec 16) (hf : d.frame? c = none) (hs : d.slotHeld c = false)
    (ht : d.takeLanding (d.camLine c * d.camH c) = some (i, e)) :
    csiFrameStart port vc n d = e.setFrame c (some (.opened c false i n)) := by
  simp [csiFrameStart, h, hf, hs, ht, Frame.opened]

theorem csiFrameStart_drops (n : BitVec 16) (hf : d.frame? c = none)
    (hno : d.slotHeld c = true ∨ d.takeLanding (d.camLine c * d.camH c) = none) :
    csiFrameStart port vc n d = (d.dropUnit c (d.snsSeq c)).setFrame c (some (.opened c true 0 n)) := by
  have hplace : (if d.slotHeld c then none else d.takeLanding (d.camLine c * d.camH c)) = none := by
    rw [ite_eq_left_iff]
    exact fun hs => hno.resolve_left hs
  simp [csiFrameStart, h, hf, hplace, Frame.opened]

/-- A pixel line of the camera below its height is written, and ends the frame when it is longer than a line (R116). -/
theorem csiLinePacket_writes {dt : Nat} {f : Frame} (crcOk : Bool) (data : Bytes) (hf : d.frame? c = some f) (hemb : dt ≠ 0x12)
    (hdt : d.camDt c = dt) (hkeep : f.dropped = false) (hbelow : f.lines < d.camH c) :
    csiLinePacket port vc dt true crcOk data d =
      if d.camLine c < data.length then (d.withLine c f crcOk data).endFrame c else d.withLine c f crcOk data := by
  simp [csiLinePacket, h, hf, hemb, hdt, hkeep, Nat.not_le.2 hbelow, Dev.withLine, Frame.withLine]

theorem csiFrameEnd_ends {f : Frame} (hf : d.frame? c = some f) : csiFrameEnd port vc d = d.endFrame c := by
  simp [csiFrameEnd, h, hf]

end

end Sys2Proof.Machine

namespace Sys2Proof

open Machine

/-- Settles O33: each packet acts as its row says, on a channel without a camera and on one of a single camera. -/
theorem cameraEventsComplete : Obligations.CameraEventsComplete := by
  unfold Obligations.CameraEventsComplete
  intro p vc s hrun d
  refine ⟨fun hnone n => ⟨?_, ?_⟩, ?camera⟩
  · exact goes_of_run hrun rfl (csiFrameStart_noCamera n hnone)
  · exact goes_of_run hrun rfl (csiFrameEnd_noCamera hnone)
  intro c hone mk
  refine ⟨?takes, ?drops, ?line, ?ends⟩
  case takes =>
    intro n i e hf hs ht
    exact goes_of_run hrun rfl (csiFrameStart_takes hone n hf hs ht)
  case drops =>
    intro n hf hno
    exact goes_of_run hrun rfl (csiFrameStart_drops hone n hf hno)
  case line =>
    intro dt crcOk data f hf hemb hdt hkeep hbelow g
    have hline := csiLinePacket_writes hone crcOk data hf hemb hdt hkeep hbelow
    exact ⟨fun hfit => goes_of_run hrun rfl (hline.trans (if_neg (Nat.not_lt.2 hfit))),
      fun hlong => goes_of_run hrun rfl (hline.trans (if_pos hlong))⟩
  case ends =>
    intro f hf
    exact goes_of_run hrun rfl (csiFrameEnd_ends hone hf)

end Sys2Proof
end

section
/-! Ethernet, CAN, SPI and the links (R109, R110, R111, R127): what a frame, a level, an edge and a transaction do. -/

namespace Sys2Proof.Machine

/-! ## Ethernet frames that are not landed (R109) -/

/-- A good frame that an enabled Ethernet port passes to its filters. -/
structure Dev.EthPasses (d : Dev) (port : Nat) (f : Bytes) : Prop where
  on        : bitOf (d.reg (0x4200 + 16 * port)) 0 = true
  notPtp    : (ethParse f).etype ≠ 0x88F7
  whole     : (ethParse f).frag = false
  fits      : f.length ≤ 9216
  addressed : d.macFor port f = true

/-- The first filter that takes a frame, and what it takes of it. -/
def Dev.ethHit (d : Dev) (port : Nat) (f : Bytes) : Option (Nat × Bytes) :=
  (List.range 16).findSome? (fun k => (d.filterHit k port (ethParse f)).map (fun b => (k, b)))

/-- The sensor of a filter. -/
def Dev.filterSensor (d : Dev) (k : Nat) : Nat := d.regF (0x430C + 16 * k) 7 0

/-- The instant at which a frame reached a port. -/
def Dev.ethArrival (d : Dev) (port : Nat) : Nat := d.now - d.regF (0x8044 + 8 * port) 15 0

section
variable {d : Dev} {port : Nat} {f : Bytes} (buf : Bool)

theorem ethFrameRx_portOff (ok : Bool) (h : bitOf (d.reg (0x4200 + 16 * port)) 0 = false) : ethFrameRx port ok buf f d = d.count cEthDrop := by
  simp [ethFrameRx, h]

theorem ethFrameRx_badFcs (h : bitOf (d.reg (0x4200 + 16 * port)) 0 = true) : ethFrameRx port false buf f d = d.count cFcs := by
  simp [ethFrameRx, h]

theorem ethFrameRx_ptp (h : bitOf (d.reg (0x4200 + 16 * port)) 0 = true) (hptp : (ethParse f).etype = 0x88F7) :
    ethFrameRx port true buf f d = if d.ptpOn port then d else d.count cEthDrop := by
  simp [ethFrameRx, h, hptp]

theorem ethFrameRx_discarded (h : bitOf (d.reg (0x4200 + 16 * port)) 0 = true) (hptp : (ethParse f).etype ≠ 0x88F7)
    (hbad : (ethParse f).frag = true ∨ 9216 < f.length ∨ d.macFor port f = false) :
    ethFrameRx port true buf f d = d.count cEthDrop := by
  simp [ethFrameRx, h, hptp, hbad]

theorem ethFrameRx_noFilter (h : d.EthPasses port f) (hnone : d.ethHit port f = none) : ethFrameRx port true buf f d = d.count cEthDrop := by
  unfold Dev.ethHit at hnone
  simp [ethFrameRx, h.on, h.notPtp, h.whole, Nat.not_lt.2 h.fits, h.addressed, hnone]

variable {k : Nat} {b : Bytes}

theorem ethFrameRx_noSensor (h : d.EthPasses port f) (hhit : d.ethHit port f = some (k, b))
    (hoff : d.snsOn (d.filterSensor k) = false ∨ d.filterSensor k < 0x20) : ethFrameRx port true buf f d = d.count cEthDrop := by
  unfold Dev.ethHit at hhit
  unfold Dev.filterSensor at hoff
  simp [ethFrameRx, h.on, h.notPtp, h.whole, Nat.not_lt.2 h.fits, h.addressed, hhit, hoff]

end

/-! ## Ethernet frames of a sensor (R115, R116, R118) -/

/-- A frame that passes and that a filter takes for an enabled sensor. -/
structure Dev.EthMatches (d : Dev) (port : Nat) (f : Bytes) (k : Nat) (b : Bytes) : Prop where
  passes : d.EthPasses port f
  hit    : d.ethHit port f = some (k, b)
  on     : d.snsOn (d.filterSensor k) = true
  known  : 0x20 ≤ d.filterSensor k

/-- The check of what a filter took, once the port's buffer has been decoded. -/
def Dev.ethCheck (d : Dev) (port k : Nat) (b : Bytes) : Option Bool :=
  (d.ioDecode (8 + port)).1.parserCheck ((d.ioDecode (8 + port)).1.parserOf (d.filterSensor k)) b

/-- The device that has decoded the port's buffer and noted that check. -/
def Dev.ethChecked (d : Dev) (port k : Nat) (b : Bytes) : Dev :=
  (d.ioDecode (8 + port)).1.noteParser ((d.ioDecode (8 + port)).1.parserOf (d.filterSensor k)) (d.ethCheck port k b) b

/-- UNCHECKED of a frame: neither its parser nor its UDP checksum covers it. -/
def Dev.ethUnchecked (d : Dev) (port : Nat) (f : Bytes) (k : Nat) (b : Bytes) : Nat :=
  if (d.ethCheck port k b).isNone && !(ethParse f).summed then aUnchecked else 0

/-- Land what a parser gave of a filter's payload: nothing of it where the frame is bad or a header rule failed. -/
def Dev.landParsed (g : Dev) (z k at_ open_ : Nat) (bad : Bool) (b : Bytes) (r : Parsed) : Dev :=
  let lidar := decide (z < 0x28)
  ({ g with free := g.free + r.points.length } : Dev).landPacked z (if lidar then 1 else if z = 0x50 then 4 else 5)
    ((if bad then aCrcBad else 0) + open_) at_ r.stamp b
    (if bad ∨ r.dead then []
      else if lidar then r.points.flatten else (r.meas.toList.map (fun x => toLe (BitVec.ofInt 64 x).toNat 8)).flatten)
    (if bad ∨ r.dead then 0 else if lidar then r.points.length else 1)
    (if lidar then dwN k else r.msg) (if lidar then 0 else dwN k) r.err

theorem Dev.landParsed_unparsed (g : Dev) (z k at_ open_ q : Nat) (b : Bytes) :
    g.landParsed z k at_ open_ true b (g.unparsed q) =
      let lidar := decide (z < 0x28)
      g.landPacked z (if lidar then 1 else if z = 0x50 then 4 else 5) (aCrcBad + open_) at_ 0 b [] 0
        (dwN (if lidar then k else 0)) (dwN (if lidar then 0 else k)) (g.parserBad q) := by
  unfold Dev.landParsed
  by_cases hl : z < 0x28 <;> simp [hl, Dev.unparsed, dwN]

theorem Dev.landParsed_dead {g : Dev} {z k at_ open_ : Nat} {b : Bytes} {r : Parsed} (h : r.dead = true) :
    g.landParsed z k at_ open_ false b r =
      let lidar := decide (z < 0x28)
      ({ g with free := g.free + r.points.length } : Dev).landPacked z (if lidar then 1 else if z = 0x50 then 4 else 5) open_ at_ r.stamp b [] 0
        (if lidar then dwN k else r.msg) (if lidar then 0 else dwN k) r.err := by
  simp [Dev.landParsed, h]

theorem Dev.landParsed_alive {g : Dev} {z k at_ open_ : Nat} {b : Bytes} {r : Parsed} (h : r.dead = false) :
    g.landParsed z k at_ open_ false b r =
      let lidar := decide (z < 0x28)
      ({ g with free := g.free + r.points.length } : Dev).landPacked z (if lidar then 1 else if z = 0x50 then 4 else 5) open_ at_ r.stamp b
        (if lidar then r.points.flatten else (r.meas.toList.map (fun x => toLe (BitVec.ofInt 64 x).toNat 8)).flatten)
        (if lidar then r.points.length else 1) (if lidar then dwN k else r.msg) (if lidar then 0 else dwN k) r.err := by
  simp [Dev.landParsed, h]

/-- A frame in which nothing failed. -/
structure Dev.EthGood (d : Dev) (port : Nat) (f : Bytes) (k : Nat) (b : Bytes) : Prop where
  sums   : (ethParse f).bad = false
  check  : d.ethCheck port k b ≠ some false
  buffer : (d.ioDecode (8 + port)).2 = false

section
variable {d : Dev} {port : Nat} {f : Bytes} {k : Nat} {b : Bytes} (h : d.EthMatches port f k b)
include h

theorem ethFrameRx_lost :
    ethFrameRx port true false f d =
      (d.dropUnit (d.filterSensor k) (d.snsSeq (d.filterSensor k))).noteMapped (d.filterSensor k) (d.ethArrival port) := by
  obtain ⟨hp, hhit, hon, hknown⟩ := h
  unfold Dev.ethHit at hhit
  unfold Dev.filterSensor at hon hknown ⊢
  simp [ethFrameRx, hp.on, hp.notPtp, hp.whole, Nat.not_lt.2 hp.fits, hp.addressed, hhit, hon, Nat.not_lt.2 hknown, Dev.ethArrival]

theorem ethFrameRx_lands :
    ethFrameRx port true true f d =
      let z := d.filterSensor k
      let q := (d.ioDecode (8 + port)).1.parserOf z
      let g := d.ethChecked port k b
      let bad := (ethParse f).bad || d.ethCheck port k b == some false || (d.ioDecode (8 + port)).2
      g.landParsed z k (d.ethArrival port) (d.ethUnchecked port f k b) bad b
        (if bad then g.unparsed q else g.parse q (decide (z < 0x28)) (fun i => (Sys2Proof.Config.freeValue (g.free + i)).toNat) b) := by
  obtain ⟨⟨hon, hptp, hwhole, hfits, hmac⟩, hhit, hsns, hknown⟩ := h
  unfold Dev.ethHit at hhit
  unfold ethFrameRx
  refine (if_neg (by simp [hon])).trans ((if_neg Bool.false_ne_true).trans ((if_neg hptp).trans ((if_neg ?_).trans ?_)))
  · simp [hwhole, Nat.not_lt.2 hfits, hmac]
  · rw [hhit]
    refine (if_neg ?_).trans ((if_neg Bool.false_ne_true).trans rfl)
    unfold Dev.filterSensor at hsns hknown
    simp [hsns, Nat.not_lt.2 hknown]

theorem ethFrameRx_unusable
    (hbad : (ethParse f).bad = true ∨ d.ethCheck port k b = some false ∨ (d.ioDecode (8 + port)).2 = true) :
    ethFrameRx port true true f d =
      let z := d.filterSensor k
      let g := d.ethChecked port k b
      let lidar := decide (z < 0x28)
      g.landPacked z (if lidar then 1 else if z = 0x50 then 4 else 5) (aCrcBad + d.ethUnchecked port f k b) (d.ethArrival port) 0 b [] 0
        (dwN (if lidar then k else 0)) (dwN (if lidar then 0 else k)) (g.parserBad ((d.ioDecode (8 + port)).1.parserOf z)) := by
  have hcrc : ((ethParse f).bad || d.ethCheck port k b == some false || (d.ioDecode (8 + port)).2) = true := by
    simpa [or_assoc] using hbad
  rw [ethFrameRx_lands h]
  simp only [hcrc, if_true]
  exact Dev.landParsed_unparsed ..

theorem ethFrameRx_parsed (hgood : d.EthGood port f k b) :
    ethFrameRx port true true f d =
      let z := d.filterSensor k
      let g := d.ethChecked port k b
      g.landParsed z k (d.ethArrival port) (d.ethUnchecked port f k b) false b
        (g.parse ((d.ioDecode (8 + port)).1.parserOf z) (decide (z < 0x28)) (fun i => (Sys2Proof.Config.freeValue (g.free + i)).toNat) b) := by
  have hcrc : ((ethParse f).bad || d.ethCheck port k b == some false || (d.ioDecode (8 + port)).2) = false := by
    simp [hgood.sums, hgood.check, hgood.buffer]
  rw [ethFrameRx_lands h]
  simp only [hcrc, Bool.false_eq_true, if_false]

end

/-! ## CAN FD (R110) -/

/-- The device after a good frame on the bus of a controller, acknowledged in NORMAL mode. -/
def Dev.canAcked (d : Dev) (n : Nat) : Dev :=
  if !bitOf (d.reg (0x6000 + 0x200 * n)) 1 then (d.emitOut (.canAck n)).canCount n false else d

theorem Dev.canAcked_canHit (d : Dev) (n : Nat) (f : CanFrame) : (d.canAcked n).canHit n f = d.canHit n f := by
  unfold Dev.canAcked
  split <;> rfl

theorem Dev.canAcked_snsOn (d : Dev) (n s : Nat) : (d.canAcked n).snsOn s = d.snsOn s := by
  unfold Dev.canAcked
  split <;> rfl

theorem Dev.canAcked_now (d : Dev) (n : Nat) : (d.canAcked n).now = d.now := by
  unfold Dev.canAcked
  split <;> rfl

section
variable {d : Dev} {n : Nat} {f : CanFrame} (hon : bitOf (d.reg (0x6000 + 0x200 * n)) 0 = true)
include hon

/-! ### On the bus -/

section
variable (hbus : Tab.get? d.sns.canStart n = none)
include hbus

theorem canFrameRx_good (herr : f.error = false) :
    canFrameRx n f d =
      let e := d.canAcked n
      if f.remote ∨ ¬ d.canHit n f ∨ ¬ d.snsOn (0x40 + n) then e.count cCanFilt
      else
        let io := e.ioDecode (14 + n)
        io.1.landPacked (0x40 + n) 3 (if io.2 then aCrcBad else 0) d.now 0 f.data [] 0
          (dwN (f.id.toNat + b2n f.ext * 2 ^ 29 + b2n f.fd * 2 ^ 30 + b2n f.brs * 2 ^ 31)) (dwN (f.data.length % 128)) none := by
  rw [← d.canAcked_canHit, ← d.canAcked_snsOn n, ← d.canAcked_now n]
  unfold canFrameRx
  refine (if_neg (by simp [hon])).trans ((if_neg (by simp [hbus])).trans ((if_neg (by simp [herr])).trans ?_))
  rfl

theorem canFrameRx_error_normal (herr : f.error = true) (hnormal : (!bitOf (d.reg (0x6000 + 0x200 * n)) 1) = true) :
    canFrameRx n f d = (d.emitOut (.canError n (d.canPassive n))).canCount n true := by
  simp [canFrameRx, hon, hbus, herr, hnormal]

theorem canFrameRx_error_monitor (herr : f.error = true) (hmonitor : (!bitOf (d.reg (0x6000 + 0x200 * n)) 1) = false) :
    canFrameRx n f d = d := by
  simp [canFrameRx, hon, hbus, herr, hmonitor]

theorem snsCanBusOff_leaves :
    snsCanBusOff n d =
      ({ d with sns := { d.sns with canStart := Tab.set d.sns.canStart n d.now } } : Dev).event { code := 0x25, d4 := dwN n } :=
  if_neg (by simp [hon, hbus])

end

/-! ### Bus-off -/

section
variable (hoff : Tab.get? d.sns.canStart n ≠ none)
include hoff

/-- A controller that is bus-off loses a frame it would have landed, and no other is missed. -/
theorem canFrameRx_busOff :
    canFrameRx n f d =
      if f.error ∨ f.remote ∨ ¬ d.canHit n f ∨ ¬ d.snsOn (0x40 + n) then d
      else d.setLanding (0x40 + n) { d.landing (0x40 + n) with ovr := true } := by
  unfold canFrameRx
  refine (if_neg (by simp [hon])).trans ((if_pos (Option.isSome_iff_ne_none.2 hoff)).trans ?_)
  rfl

end

end

theorem canBusOffRecovery_recovers {d : Dev} {n : Nat} (hoff : Tab.get? d.sns.canStart n ≠ none) :
    canBusOffRecovery n d =
      { d with sns := { d.sns with canStart := Tab.del d.sns.canStart n, canRec := Tab.put 0 d.sns.canRec n 0 } } :=
  if_neg (by simpa using hoff)

/-! ## Links -/

/-- A link of no Ethernet port, or one that comes up, only has its level kept and reported. -/
theorem snsLink_kept {p : Nat} {up : Bool} (d : Dev) (h : p < 8 ∨ up = true) :
    snsLink p up d =
      let l := d.sns.csiUp.filter (· != p)
      ({ d with sns := { d.sns with csiUp := if up then insertBy (fun a b => decide (a ≤ b)) p l else l } } : Dev).event
        { code := 0x21, d4 := dwN (p + b2n up * 16) } := by
  have hstays : ¬ (8 ≤ p ∧ ¬ up = true) := fun ⟨heth, hdown⟩ => h.elim (Nat.not_lt.2 heth) hdown
  unfold snsLink
  exact congrArg (fun e : Dev => e.event { code := 0x21, d4 := dwN (p + b2n up * 16) }) (if_neg hstays)

/-! ## SPI (R111) -/

section
variable {d : Dev} {n : Nat}

/-- The device that has missed an edge of a controller whose transaction still runs. -/
def Dev.spiMissed (d : Dev) (n : Nat) : Dev :=
  ((d.count cSpiOvr).setSpi n { d.spi n with missed := (d.spi n).missed + 1 }).setLanding (0x30 + n) { d.landing (0x30 + n) with ovr := true }

theorem spiDrdyEdge_overruns {rising : Bool} {t : Nat} (hact : rising ≠ bitOf (d.reg (0x6800 + 0x40 * n)) 2)
    (hrun : (d.spi n).running = some t) : spiDrdyEdge n rising d = (d.spiMissed n).event { code := 0x24, d4 := dwN n } := by
  simp [spiDrdyEdge, hact, hrun, Dev.spiMissed]

theorem spiDrdyEdge_starts {rising : Bool} (hact : rising ≠ bitOf (d.reg (0x6800 + 0x40 * n)) 2) (hidle : (d.spi n).running = none) :
    spiDrdyEdge n rising d =
      (d.setSpi n { d.spi n with running := some d.now }).emitOut
        (.spiStart n (((List.range 8).flatMap (fun k => le32 (d.reg (0x6800 + 0x40 * n + 0x20 + 4 * k)))).take (d.spiLen n))) := by
  simp [spiDrdyEdge, hact, hidle]

/-- A controller after an unchecked sample of a transaction that started at `t`, with what its parser gave. -/
def Spi.sampled (x : Spi) (t : Nat) (b : Bytes) (r : Parsed) : Spi :=
  { running := none, stamps := x.stamps ++ [t], raw := x.raw ++ [b],
    parsed := x.parsed ++ [(r.meas.map (satS 32)).toList.map dwI], crcBad := x.crcBad, unchecked := true,
    perr := (match x.perr with | some k => some k | none => r.err),
    sstamp := if x.raw.isEmpty then r.stamp else x.sstamp, missed := 0 }

/-- The sample of a disabled sensor joins its block and is not offered to the plough. -/
theorem spiTransactionDone_disabled {rx : Bytes} {t : Nat} (hrun : (d.spi n).running = some t) (hoff : d.snsOn (0x30 + n) = false)
    (hopen : d.parserCheck (d.parserOf (0x30 + n)) (bslice rx 0 (d.spiLen n)) = none) :
    spiTransactionDone n rx d =
      let b := bslice rx 0 (d.spiLen n)
      let r := d.parse (d.parserOf (0x30 + n)) false (fun _ => 0) b
      (d.setSpi n ((d.spi n).sampled t b r)).spiBlock n := by
  have hkept (x : Spi) : (d.setSpi n x).snsOn (0x30 + n) = false := hoff
  simp [spiTransactionDone, hrun, hopen, Dev.noteParser, hkept, Spi.sampled] <;> rfl

end

end Sys2Proof.Machine

namespace Sys2Proof

open Machine

/-- Settles O34: each port by what reaches it, down to what lands. -/
theorem packetPortsComplete : Obligations.PacketPortsComplete := by
  unfold Obligations.PacketPortsComplete
  intro s hrun d
  refine ⟨?eth, ?can, ?recovery, ?link, ?edge, ?transaction⟩
  case eth =>
    intro p ok buf f e
    refine ⟨fun hoff => goes_of_run hrun rfl (ethFrameRx_portOff buf ok hoff), fun hon => ⟨?fcs, ?ptp, ?discarded, ?passes⟩⟩
    case fcs =>
      rintro rfl
      exact goes_of_run hrun rfl (ethFrameRx_badFcs buf hon)
    case ptp =>
      rintro rfl hptp
      exact goes_of_run hrun rfl (ethFrameRx_ptp buf hon hptp)
    case discarded =>
      rintro rfl hptp hbad
      exact goes_of_run hrun rfl (ethFrameRx_discarded buf hon hptp hbad)
    case passes =>
      rintro rfl hptp hwhole hfits hmac hit
      have hpass : d.EthPasses p.val f := ⟨hon, hptp, hwhole, hfits, hmac⟩
      refine ⟨fun hnone => goes_of_run hrun rfl (ethFrameRx_noFilter buf hpass hnone), ?_⟩
      intro k b hhit z at_
      refine ⟨fun hoff => goes_of_run hrun rfl (ethFrameRx_noSensor buf hpass hhit hoff), ?lost, ?lands⟩
      case lost =>
        rintro hsns hknown rfl
        exact goes_of_run hrun rfl (ethFrameRx_lost ⟨hpass, hhit, hsns, hknown⟩)
      case lands =>
        rintro hsns hknown rfl io q chk g lidar kind open_
        have hmatch : d.EthMatches p.val f k b := ⟨hpass, hhit, hsns, hknown⟩
        refine ⟨fun hbad => goes_of_run hrun rfl (ethFrameRx_unusable hmatch hbad), ?_⟩
        intro hsums hchk hbuf r h out
        have hparsed := ethFrameRx_parsed hmatch ⟨hsums, hchk, hbuf⟩
        exact ⟨fun halive => goes_of_run hrun rfl (hparsed.trans (Dev.landParsed_alive halive)),
          fun hdead => goes_of_run hrun rfl (hparsed.trans (Dev.landParsed_dead hdead))⟩
  case can =>
    intro n f o normal e hit hon
    have hcan : d.canHit n.val f = hit := rfl
    refine ⟨fun hbus => ⟨?lands, ?filtered, ?error, ?busOff⟩, fun hoff => ⟨?lost, ?other⟩⟩
    case lands =>
      intro herr hremote hhit hsns
      exact goes_of_run hrun rfl ((canFrameRx_good hon hbus herr).trans (if_neg (by simp [hremote, hsns, hcan, hhit])))
    case filtered =>
      intro herr hno
      exact goes_of_run hrun rfl ((canFrameRx_good hon hbus herr).trans (if_pos (by simpa [hcan] using hno)))
    case error =>
      intro herr
      exact ⟨fun hnormal => goes_of_run hrun rfl (canFrameRx_error_normal hon hbus herr hnormal),
        fun hmonitor => goes_of_run hrun rfl (canFrameRx_error_monitor hon hbus herr hmonitor)⟩
    case busOff =>
      exact goes_of_run hrun rfl (snsCanBusOff_leaves hon hbus)
    case lost =>
      intro herr hremote hhit hsns
      exact goes_of_run hrun rfl ((canFrameRx_busOff hon hoff).trans (if_neg (by simp [herr, hremote, hsns, hcan, hhit])))
    case other =>
      intro hno
      exact goes_of_run hrun rfl ((canFrameRx_busOff hon hoff).trans (if_pos (by rcases hno with h | h | h <;> simp [hcan, h])))
  case recovery =>
    intro n hoff
    exact goes_of_run hrun rfl (canBusOffRecovery_recovers hoff)
  case link =>
    intro p up h l
    exact goes_of_run hrun rfl (snsLink_kept d h)
  case edge =>
    intro n rising hact
    exact ⟨fun t hon => goes_of_run hrun rfl (spiDrdyEdge_overruns hact hon),
      fun hidle => goes_of_run hrun rfl (spiDrdyEdge_starts hact hidle)⟩
  case transaction =>
    intro n rx t hon hoff hopen x b r
    exact goes_of_run hrun rfl (spiTransactionDone_disabled hon hoff hopen)

end Sys2Proof
end

section
/-! Selectors that close by time, and landed units that are released (R114, R121, R123). -/

namespace Sys2Proof.Machine

section
variable {d : Dev}

/-! ## SELECTOR_CLOSE_TIME (R121) -/

theorem selectorCloseTime_due {id job : Nat} {x : Desc} {m : SelMatch} (hx : d.desc? id = some x) (hm : x.sels[job]? = some m)
    (h : m.stop + m.waitUs * 1000 ≤ d.now) : selectorCloseTime id job d = d.closeSel id job true := by
  simp [selectorCloseTime, hx, hm, h]

theorem selectorCloseTime_early {id job : Nat} {x : Desc} {m : SelMatch} (hx : d.desc? id = some x) (hm : x.sels[job]? = some m)
    (h : d.now < m.stop + m.waitUs * 1000) : selectorCloseTime id job d = d := by
  simp [selectorCloseTime, hx, hm, Nat.not_le.2 h]

/-! ## A landing sheet that a unit has left (R114) -/

/-- A unit landed or being received lies in a landing sheet. -/
def Dev.sheetUsed (d : Dev) (sheet : Nat) : Bool :=
  d.sns.units.any (fun p => p.2.sheet == sheet) || d.mir.rx.any (fun p => !p.2.dropped && p.2.sheet == sheet)

theorem Dev.landingLeft_used {sheet : Nat} (s : Nat) (h : d.sheetUsed sheet = true) : d.landingLeft s sheet = d := if_pos h

theorem Dev.landingLeft_freed {s sheet : Nat} (h : d.sheetUsed sheet = false) (hl : (d.landing s).sheet ≠ some sheet) :
    d.landingLeft s sheet = (d.freeSheet sheet).sweepFree :=
  (if_neg (Bool.eq_false_iff.1 h)).trans (congrArg (fun e : Dev => (e.freeSheet sheet).sweepFree) (if_neg hl))

/-- The sensor's current landing sheet is let go with its last unit. -/
theorem Dev.landingLeft_current {s sheet : Nat} (h : d.sheetUsed sheet = false) (hl : (d.landing s).sheet = some sheet) :
    d.landingLeft s sheet = ((d.setLanding s { d.landing s with sheet := none, fill := 0 }).freeSheet sheet).sweepFree :=
  (if_neg (Bool.eq_false_iff.1 h)).trans (congrArg (fun e : Dev => (e.freeSheet sheet).sweepFree) (if_pos hl))

/-! ## UNIT_RELEASE (R123) -/

variable {u : Nat} {x : LUnit} (hu : Tab.get? d.sns.units u = some x)

/-- The device without a landed unit, which is forwarded no more. -/
def Dev.withoutUnit (d : Dev) (u : Nat) : Dev :=
  { d with
    sns := { d.sns with units := Tab.del d.sns.units u }
    mir := { d.mir with fwd := d.mir.fwd.filter (fun w => w.unit != u) } }

include hu

theorem unitRelease_retained (h : d.now ≤ x.mapped + d.retainNs x.sensor) : unitRelease u d = d := by
  simp [unitRelease, hu, h]

theorem unitRelease_released (hpast : x.mapped + d.retainNs x.sensor < d.now) (hheld : x.held = [])
    (hopen : x.bad = true ∨ d.mayMatch x.sensor false x.mapped = false) :
    unitRelease u d = (d.withoutUnit u).landingLeft x.sensor x.sheet := by
  unfold unitRelease
  rw [hu]
  refine if_neg (not_or.2 ⟨Nat.not_le.2 hpast, not_or.2 ⟨by simp [hheld], ?_⟩⟩)
  rintro ⟨hgood, hmay⟩
  exact hopen.elim hgood (fun hno => absurd hmay (Bool.eq_false_iff.1 hno))

end

end Sys2Proof.Machine

namespace Sys2Proof

open Machine

/-- Settles O35: a selector by the instant of its end, a unit by its retention and by what else its landing sheet holds. -/
theorem selectorsAndUnitsComplete : Obligations.SelectorsAndUnitsComplete := by
  unfold Obligations.SelectorsAndUnitsComplete
  intro s hrun d
  refine ⟨?selector, ?unit⟩
  case selector =>
    intro id job x m hx hm
    exact ⟨fun hdue => goes_of_run_settle hrun rfl (selectorCloseTime_due hx hm hdue),
      fun hearly => goes_of_run_settle hrun rfl (selectorCloseTime_early hx hm hearly)⟩
  case unit =>
    intro u x hu
    refine ⟨fun hkept => goes_of_run hrun rfl (unitRelease_retained hu hkept), ?_⟩
    intro hpast hheld hopen e used
    have hreleased := unitRelease_released hu hpast hheld hopen
    exact ⟨fun hused => goes_of_run hrun rfl (hreleased.trans (Dev.landingLeft_used _ hused)),
      fun hlast hother => goes_of_run hrun rfl (hreleased.trans (Dev.landingLeft_freed hlast hother)),
      fun hlast hcurrent => goes_of_run hrun rfl (hreleased.trans (Dev.landingLeft_current hlast hcurrent))⟩

end Sys2Proof
end

section
/-! Split mode, forwarding and the bounds of repairs (R124, R163, R313, R320, R321, R326): what each event of the mirror does. -/

namespace Sys2Proof.Machine

/-! ## Split mode (R326) -/

section
variable {d : Dev}

theorem mirSplitEnter_enters {w : FwdWait} {rest : List FwdWait} (hf : d.mir.fwd = w :: rest) (hup : d.mir.state = 1)
    (hlate : w.since + d.regF 0x14000 25 16 * 1000000 < d.now) : mirSplitEnter d = (d.sendSplit true).setSplit true := by
  simp [mirSplitEnter, hf, hup, hlate]

theorem mirSplitLeave_leaves {t : Nat} (hq : d.mir.quiet = some t) (hsplit : d.mir.state = 2) (hlong : t + 10 ^ 9 ≤ d.now) :
    mirSplitLeave d = (d.sendSplit false).setSplit false := by
  unfold mirSplitLeave
  rw [hq]
  exact if_pos ⟨hsplit, hlong⟩

/-- The partner's SPLIT is followed where it says something new. -/
theorem mirSplitRx_follows {port : Nat} {b : Bytes} {m : Msg} {on : Bool} (h : d.hears port 0x06 b m) (hon : bitOf (bw m.pay 0) 0 = on)
    (hstate : (d.received port 0).mir.state = if on then 1 else 2) : mirSplitRx port b d = (d.received port 0).setSplit on := by
  rw [mirSplitRx, d.mirCtl_hears port 0x06 b m _ _ h]
  cases on <;> simp [hon, hstate]

end

/-! ## Fragments of forwarded units (R124, R313) -/

/-- The data bytes of a UNIT fragment. -/
def Msg.unitData (m : Msg) : Bytes :=
  (m.pay.drop 128).take (Nat.min (64 * m.len - 128) ((bw m.pay 1).toNat - (bw m.pay 2).toNat))

/-- The own ID of the sensor a UNIT fragment names. -/
def Msg.unitOwn (m : Msg) : Nat := bits (bw m.pay 0) 7 0

/-- A UNIT fragment of the right length is delivered. -/
def Dev.takesUnit (d : Dev) (port : Nat) (b : Bytes) (m : Msg) : Prop :=
  d.delivers port 1 0x10 b m (decide (2 ≤ m.len ∧ m.len ≤ 16384) &&
    m.len == 2 + cdiv (Nat.min (64 * m.len - 128) ((bw m.pay 1).toNat - (bw m.pay 2).toNat)) 64)

/-- The device once the first fragment of a unit has opened its landing. -/
def Dev.unitOpened (d : Dev) (port : Nat) (m : Msg) : Dev :=
  (d.received port 1).openRx m.unitOwn (bw m.pay 1).toNat (bslice m.pay 64 64)

section
variable {d : Dev} {port : Nat} {b : Bytes} {m : Msg} (h : d.takesUnit port b m)
include h

theorem mirUnitRx_noSensor (hown : ownSensor m.unitOwn = false) : mirUnitRx port b d = (d.received port 1).count cMirDrop := by
  rw [mirUnitRx, d.mirRx_delivers port 1 0x10 b m]
  · exact if_pos (Bool.eq_false_iff.1 hown)
  · exact h

/-- A fragment of a disabled sensor is dropped; the unit is counted with its first one, or with the one that ends its landing. -/
theorem mirUnitRx_disabled (hown : ownSensor m.unitOwn = true) (hoff : (d.received port 1).snsOn (m.unitOwn + 128) = false) :
    mirUnitRx port b d =
      let g := (d.received port 1).dropRx m.unitOwn
      if (bw m.pay 2).toNat = 0 ∨ Tab.get? (d.received port 1).mir.rx m.unitOwn ≠ none then
        { g with mir := { g.mir with rxSeq := Tab.del g.mir.rxSeq m.unitOwn } }.count cMirDrop
      else g := by
  rw [mirUnitRx, d.mirRx_delivers port 1 0x10 b m]
  · refine (if_neg (not_not.2 hown)).trans ((if_pos (Bool.eq_false_iff.1 hoff)).trans ?_)
    exact if_congr (by simp [Option.isSome_iff_ne_none, Msg.unitOwn]) rfl rfl
  · exact h

/-- The first fragment of an enabled sensor's unit opens its landing; then its check value and its length decide. -/
theorem mirUnitRx_first {u : RxUnit} (hown : ownSensor m.unitOwn = true) (hon : (d.received port 1).snsOn (m.unitOwn + 128) = true)
    (hfirst : (bw m.pay 2).toNat = 0) (hu : Tab.get? (d.unitOpened port m).mir.rx m.unitOwn = some u) (hnew : u.data = []) :
    mirUnitRx port b d =
      let g := d.unitOpened port m
      if crc32c m.unitData ≠ bw m.pay 3 then
        let e := (g.mirCrcBad port 1 m.seq (bw m.pay 3) (crc32c m.unitData)).dropRx m.unitOwn
        if u.dropped then e else e.dropForward (m.unitOwn + 128) (bslice m.pay 64 64)
      else if m.unitData.length < (bw m.pay 1).toNat then
        { g with mir := { g.mir with rx := Tab.set g.mir.rx m.unitOwn { u with data := m.unitData } } }
      else
        let e := { g with mir := { g.mir with rx := Tab.del g.mir.rx m.unitOwn } }
        if u.dropped then e else e.landForward (m.unitOwn + 128) { u with data := m.unitData } := by
  rw [mirUnitRx, d.mirRx_delivers port 1 0x10 b m]
  · refine (if_neg (not_not.2 hown)).trans ((if_neg (not_not.2 hon)).trans ?_)
    unfold Dev.unitOpened Msg.unitOwn at hu
    unfold Dev.unitOpened Msg.unitOwn Msg.unitData
    simp only [hfirst, if_true, hu, hnew, List.length_nil, ne_eq, not_true_eq_false, if_false, List.nil_append]
  · exact h

end

/-! ## Forwarded plough records (R163) -/

theorem mirPloughRx_logs {d : Dev} {port : Nat} {b : Bytes} {m : Msg}
    (h : d.delivers port 1 0x11 b m (decide (1 ≤ m.len) && m.len == 1 + cdiv (16 * (bw m.pay 1).toNat) 64)) :
    mirPloughRx port b d =
      (List.range (bw m.pay 1).toNat).foldl (fun d k => d.logWrite (4 + bits (bw m.pay 0) 1 0) (bslice m.pay (64 + 16 * k) 16))
        (d.received port 1) := by
  rw [mirPloughRx, d.mirRx_delivers port 1 0x11 b m]
  exact h

/-! ## The bound of a repair (R320) -/

section
variable {d : Dev} {slot : Nat}

theorem mirRepairWaitExpiry_due {p : Plan} (hp : d.mplan slot = some p) (hidle : p.running = false) (hwait : d.syncReady slot = false)
    (hdue : p.readyAt + d.regF 0x14008 15 0 * 1000 ≤ d.now) :
    mirRepairWaitExpiry slot d =
      (d.repairExpire slot).fire slot (((Tab.get? (d.repairExpire slot).plans slot).map (d.repairExpire slot).schedLate).getD false) := by
  unfold mirRepairWaitExpiry
  rw [hp]
  exact if_neg (by simp [hidle, hwait, hdue])

/-- A plan fires when it is its turn, with the partner's debt or without it as it is asked. -/
theorem Dev.fire_asDue {q : Plan} (hq : Tab.get? d.plans slot = some q) :
    d.fire slot (((Tab.get? d.plans slot).map d.schedLate).getD false) =
      if d.firingTurn slot then d.startFiring slot q (d.schedLate q) else d := by
  simp [Dev.fire, hq]

/-! ## The budget of a bulk resync (R321) -/

/-- The lines a bulk resync sends next. -/
def Dev.bulkLines (d : Dev) (slot pos n : Nat) : List DeltaRec :=
  (List.range n).filterMap (fun i => (lineAt (d.trackedSegs slot) (pos + i)).map (fun q => d.lineNow q.1 q.2))

/-- A bulk resync that has sent `n` more lines of the tracked sheets in a period. -/
def Bulk.sent (b : Bulk) (segs : List (DW × Nat)) (k n : Nat) : Bulk :=
  { b with done := some k, pos := b.pos + n, lines := b.lines + n, doneSending := decide (segLines segs ≤ b.pos + n) }

/-- The source of a bulk resync may send its part of a period. -/
structure Dev.SendsBulk (d : Dev) (slot : Nat) (p : Plan) (b : Bulk) (k : BitVec 64) : Prop where
  plan   : d.mplan slot = some p
  bulk   : (d.mslot slot).bulk = some b
  period : (d.mslot slot).fillFor = some k
  sync   : (d.mslot slot).sync = .bulk
  source : (d.mslot slot).adopt = false
  ended  : (d.mslot slot).fillEnd = true
  idle   : p.running = false
  up     : d.mirUp = true
  owes   : b.done ≠ some k.toNat

theorem mirBulkBudgetEnd_sends {p : Plan} {b : Bulk} {k : BitVec 64} (lines : Nat) (h : d.SendsBulk slot p b k) :
    mirBulkBudgetEnd slot lines d =
      let segs := d.trackedSegs slot
      let n := Nat.min lines (segLines segs - b.pos)
      (d.sendFill k.toNat (d.bulkLines slot b.pos n)).modSlot slot (fun m => { m with bulk := some (b.sent segs k.toNat n) }) := by
  unfold mirBulkBudgetEnd
  simp only [h.plan, h.bulk, h.period]
  exact if_neg (by simp [h.sync, h.source, h.ended, h.idle, h.up, h.owes])

end

end Sys2Proof.Machine

namespace Sys2Proof

open Machine

/-- Settles O47: a message acts on the device that received it, an expiry or a budget on the slot it is of. -/
theorem mirrorForwardAndRepairComplete : Obligations.MirrorForwardAndRepairComplete := by
  unfold Obligations.MirrorForwardAndRepairComplete
  intro s hrun d
  refine ⟨?enters, ?leaves, ?follows, ?unit, ?plough, ?repair, ?bulk⟩
  case enters =>
    intro w rest hf hup hlate
    exact goes_of_run hrun rfl (mirSplitEnter_enters hf hup hlate)
  case leaves =>
    intro t hq hsplit hlong
    exact goes_of_run hrun rfl (mirSplitLeave_leaves hq hsplit hlong)
  case follows =>
    intro p b m h e
    exact ⟨fun hon hstate => goes_of_run hrun rfl (mirSplitRx_follows h hon hstate),
      fun hoff hstate => goes_of_run hrun rfl (mirSplitRx_follows h hoff hstate)⟩
  case unit =>
    intro p b m n own data e h
    refine ⟨fun hown => ?_, ?_, ?_⟩
    · exact goes_of_run hrun rfl (mirUnitRx_noSensor h hown)
    · intro hown hoff g
      have hdis := mirUnitRx_disabled h hown hoff
      exact ⟨fun hcounts => goes_of_run hrun rfl (hdis.trans (if_pos hcounts)),
        fun hlater hnone => goes_of_run hrun rfl (hdis.trans (if_neg (not_or.2 ⟨hlater, not_not.2 hnone⟩)))⟩
    · intro u hown hon hfirst g l hu hnew _
      have hopen := mirUnitRx_first h hown hon hfirst hu hnew
      refine ⟨fun hcrc hwhole => ?_, fun hcrc hpart => ?_, fun hcrc hkept => ?_⟩
      · have hlands := hopen.trans ((if_neg (not_not.2 hcrc)).trans (if_neg (Nat.not_lt.2 hwhole.ge)))
        exact ⟨fun hkept => goes_of_run hrun rfl (hlands.trans (if_neg (Bool.eq_false_iff.1 hkept))),
          fun hdropped => goes_of_run hrun rfl (hlands.trans (if_pos hdropped))⟩
      · exact goes_of_run hrun rfl (hopen.trans ((if_neg (not_not.2 hcrc)).trans (if_pos hpart)))
      · exact goes_of_run hrun rfl (hopen.trans ((if_pos hcrc).trans (if_neg (Bool.eq_false_iff.1 hkept))))
  case plough =>
    intro p b m h
    exact goes_of_run hrun rfl (mirPloughRx_logs h)
  case repair =>
    intro slot p q e hp hidle hwait hdue hq
    have hfire := (mirRepairWaitExpiry_due hp hidle hwait hdue).trans (Dev.fire_asDue hq)
    exact ⟨fun hother => goes_of_run hrun rfl (hfire.trans (if_neg (Bool.eq_false_iff.1 hother))),
      fun hturn => goes_of_run hrun rfl (hfire.trans (if_pos hturn))⟩
  case bulk =>
    intro slot lines p b k m segs n hplan hbulk hperiod hsync hsource hended hidle hup howes
    exact goes_of_run hrun rfl
      (mirBulkBudgetEnd_sends lines ⟨hplan, hbulk, hperiod, hsync, hsource, hended, hidle, hup, howes⟩)

end Sys2Proof
end

section
/-! PTP (R135–R138, log 20): transmit stamps in their queue, what each message makes of its port, and what a port sends. -/

namespace Sys2Proof.Machine

section
variable {d : Dev} {p : Nat}

/-! ## Port identities (R135) -/

/-- A port's identity is read from setup words. -/
theorem SameSetup.portId {e : Dev} (h : SameSetup d e) (p : Nat) : e.portId p = d.portId p := by
  simp only [Dev.portId, Dev.clockId, Dev.regF, h.reg]

@[simp] theorem Dev.modTb_portId (d : Dev) (f : Tb → Tb) (p : Nat) : (d.modTb f).portId p = d.portId p := SameSetup.portId ⟨rfl, rfl⟩ p
@[simp] theorem Dev.setPtp_portId (d : Dev) (q : Nat) (x : PtpPort) (p : Nat) : (d.setPtp q x).portId p = d.portId p := d.modTb_portId _ p
@[simp] theorem Dev.emitOut_portId (d : Dev) (o : Out) (p : Nat) : (d.emitOut o).portId p = d.portId p := SameSetup.portId ⟨rfl, rfl⟩ p

/-! ## The queue of transmit stamps (R138) -/

theorem Dev.pushStamp_room (p sid stamp : Nat) (h : d.tb.txq.length < 64) :
    d.pushStamp p sid stamp = (d.modTb (fun t => { t with txq := t.txq ++ [(BitVec.ofNat 16 sid, p, stamp)] }), true) :=
  if_neg (Nat.not_le.2 h)

/-- The event that reports the first loss leaves the timebase alone, so that only the count and TX_OVF are left of a dropped stamp. -/
theorem Dev.pushStamp_full (p sid stamp : Nat) (h : 64 ≤ d.tb.txq.length) :
    (d.pushStamp p sid stamp).2 = false ∧ (d.pushStamp p sid stamp).1.tb = { d.tb with txDrop := d.tb.txDrop + 1, txOvf := true } := by
  unfold Dev.pushStamp
  rw [if_pos h]
  refine ⟨rfl, ?_⟩
  dsimp only
  split
  · rfl
  · exact Dev.event_tb _ _

/-! ## Messages received (R135–R137) -/

theorem ptpMessageRx_off {m : PtpMsg} (h : d.ptpOn p = false) : ptpMessageRx p m d = d.count cEthDrop := if_pos (by simp [h])

/-- A message that its port processes: the port runs PTP, in the domain of the message. -/
structure Dev.TakesPtp (d : Dev) (p : Nat) (m : PtpMsg) : Prop where
  on     : d.ptpOn p = true
  domain : m.domain.toNat = d.regF 0x8034 7 0

/-- The receive stamp of a message that arrives now. -/
def Dev.rxStamp (d : Dev) (p : Nat) : Nat := d.now - d.regF (0x8044 + 8 * p) 15 0

section
variable {m : PtpMsg} (h : d.TakesPtp p m)
include h

theorem ptpMessageRx_syncOneStep {o : QW} {c : Int} (hb : m.body = .sync false o c) (hst : (d.ptp p).st = .slave) :
    ptpMessageRx p m d =
      (d.setPtp p { d.ptp p with lastSync := some d.now, sync := none }).ptpOffset p (d.rxStamp p) o c := by
  simp [ptpMessageRx, Dev.rxStamp, h.on, h.domain, hb, hst]

theorem ptpMessageRx_followUp {o : QW} {c c0 : Int} {r : Nat} (hb : m.body = .followUp o c) (hsync : (d.ptp p).sync = some (m.seq, r, c0))
    (hst : (d.ptp p).st = .slave) : ptpMessageRx p m d = (d.setPtp p { d.ptp p with sync := none }).ptpOffset p r o (c + c0) := by
  simp [ptpMessageRx, h.on, h.domain, hb, hst, hsync]

theorem ptpMessageRx_pdelayResp {t2 : QW} (hb : m.body = .pdelayResp t2 (d.portId p)) (hseq : m.seq = (d.ptp p).reqSeq)
    (ht1 : (d.ptp p).t1.isSome = true) :
    ptpMessageRx p m d = d.setPtp p { d.ptp p with t4 := some (d.rxStamp p), t2 := some t2.toNat } := by
  simp [ptpMessageRx, Dev.rxStamp, h.on, h.domain, hb, hseq, ht1]

theorem ptpMessageRx_pdelayReq (hb : m.body = .pdelayReq) :
    ptpMessageRx p m d = d.setPtp p { d.ptp p with reqRx := some (m.seq, m.source, d.rxStamp p) } := by
  simp [ptpMessageRx, Dev.rxStamp, h.on, h.domain, hb]

theorem ptpMessageRx_announceFirst {v : PtpPrio} (hb : m.body = .announce v) (hbest : (d.ptp p).best = none) :
    ptpMessageRx p m d = (d.setPtp p { d.ptp p with best := some (v, m.source, d.now) }).ptpStates := by
  simp [ptpMessageRx, h.on, h.domain, hb, hbest]

end

theorem ptpAnnounceTimeout_forgets {v : PtpPrio} {w : PtpId} {t : Nat} (hbest : (d.ptp p).best = some (v, w, t))
    (hlate : t + 3000000000 ≤ d.now) : ptpAnnounceTimeout p d = (d.setPtp p { d.ptp p with best := none }).ptpStates := by
  simp only [ptpAnnounceTimeout, hbest]
  exact if_pos hlate

/-! ## Messages sent (R135, R136, R138) -/

/-- A PTP message from a port, in the device's domain. -/
def Dev.ptpOut (d : Dev) (p : Nat) (seq : BitVec 16) (b : PtpBody) : Out :=
  .ptp p { domain := BitVec.ofNat 8 (d.regF 0x8034 7 0), seq := seq, source := d.portId p, body := b }

/-- A MASTER port sends a Sync that is due; with its stamp queued the Follow_Up goes out. -/
theorem ptpMessageTx_sync (hon : d.ptpOn p = true) (hst : (d.ptp p).st = .master) (hroom : d.tb.txq.length < 64)
    (hdue : d.due (d.ptp p).syncAt (d.syncNs p) = true) :
    ptpMessageTx p .sync d =
      let x := d.ptp p
      let stamp := d.now + d.regF (0x8044 + 8 * p) 31 16
      { d with
        tb := { d.tb with
          ports := d.tb.ports.setIfInBounds p { x with seqSync := x.seqSync + 1, syncAt := some d.now }
          txq := d.tb.txq ++ [(BitVec.ofNat 16 (x.seqSync.toNat % 2 ^ 14), p, stamp)] }
        out := d.out ++ [d.ptpOut p x.seqSync (.sync true 0 0)] ++ [d.ptpOut p x.seqSync (.followUp (BitVec.ofNat 64 stamp) 0)] } := by
  unfold ptpMessageTx
  rw [if_neg (by simp [hon])]
  dsimp only
  rw [if_neg (not_or.2 ⟨not_not.2 hst, not_not.2 hdue⟩), Dev.pushStamp_room]
  · simp only [if_true, Dev.emitOut_portId, Dev.modTb_portId, Dev.setPtp_portId]
    dsimp only [Dev.emitOut, Dev.modTb, Dev.setPtp]
    rfl
  · exact hroom

theorem ptpMessageTx_announce (hon : d.ptpOn p = true) (hst : (d.ptp p).st = .master) (hdue : d.due (d.ptp p).annAt (10 ^ 9) = true) :
    ptpMessageTx p .announce d =
      (d.setPtp p { d.ptp p with seqAnn := (d.ptp p).seqAnn + 1, annAt := some d.now }).emitOut
        (d.ptpOut p (d.ptp p).seqAnn (.announce d.annPrio)) := by
  unfold ptpMessageTx
  rw [if_neg (by simp [hon])]
  dsimp only
  rw [if_neg (not_or.2 ⟨not_not.2 hst, not_not.2 hdue⟩), Dev.setPtp_portId]
  rfl

theorem ptpMessageTx_signaling (hon : d.ptpOn p = true) :
    ptpMessageTx p .signaling d =
      (d.setPtp p { d.ptp p with seqSig := (d.ptp p).seqSig + 1 }).emitOut
        (d.ptpOut p (d.ptp p).seqSig
          (.signaling (sext 8 (d.regF (0x8040 + 8 * p) 23 16)) (sext 8 (d.regF (0x8040 + 8 * p) 15 8)))) :=
  if_neg (by simp [hon])

end

end Sys2Proof.Machine

namespace Sys2Proof

open Machine

/-- Settles O31: by whether the queue has room. -/
theorem txStampQueueHolds64 : Obligations.TxStampQueueHolds64 := by
  unfold Obligations.TxStampQueueHolds64
  intro d p sid stamp r
  have hroom (h : d.tb.txq.length < 64) : r = _ := Dev.pushStamp_room p sid stamp h
  have hfull (h : 64 ≤ d.tb.txq.length) : r.2 = false ∧ r.1.tb = _ := Dev.pushStamp_full p sid stamp h
  refine ⟨fun h => ?queued, fun h => ?dropped, fun h => ?bound⟩
  case queued =>
    rw [hroom h]
    exact ⟨rfl, rfl, rfl⟩
  case dropped =>
    obtain ⟨hno, htb⟩ := hfull h
    rw [htb]
    exact ⟨hno, rfl, rfl, rfl⟩
  case bound =>
    rcases Nat.lt_or_ge d.tb.txq.length 64 with hlt | hge
    · rw [hroom hlt]
      simpa using hlt
    · rw [(hfull hge).2]
      exact h

/-- Settles O30: a message received by its body, one sent by its kind. -/
theorem ptpEventsComplete : Obligations.PtpEventsComplete := by
  unfold Obligations.PtpEventsComplete
  intro p s hrun d x rx
  refine ⟨?off, ?received, ?sync, ?sent, ?forgotten⟩
  case off =>
    intro m hoff
    exact goes_of_run hrun rfl (ptpMessageRx_off hoff)
  case received =>
    intro m hon hdomain
    have h : d.TakesPtp p.val m := ⟨hon, hdomain⟩
    refine ⟨?_, ?_, ?_, ?_, ?_⟩
    · intro o c hb hst
      exact goes_of_run hrun rfl (ptpMessageRx_syncOneStep h hb hst)
    · intro o c r c0 hb hsync hst
      exact goes_of_run hrun rfl (ptpMessageRx_followUp h hb hsync hst)
    · intro t2 hb hseq ht1
      exact goes_of_run hrun rfl (ptpMessageRx_pdelayResp h hb hseq ht1)
    · intro hb
      exact goes_of_run hrun rfl (ptpMessageRx_pdelayReq h hb)
    · intro v hb hbest
      exact goes_of_run hrun rfl (ptpMessageRx_announceFirst h hb hbest)
  case sync =>
    intro hon hst hroom hdue msg stamp
    exact goes_of_run hrun rfl (ptpMessageTx_sync hon hst hroom hdue)
  case sent =>
    intro hon say
    exact ⟨fun hst hdue => goes_of_run hrun rfl (ptpMessageTx_announce hon hst hdue),
      goes_of_run hrun rfl (ptpMessageTx_signaling hon)⟩
  case forgotten =>
    intro v w t hbest hlate
    exact goes_of_run hrun rfl (ptpAnnounceTimeout_forgets hbest hlate)

end Sys2Proof
end

section
/-! Triggers, captures, waiting steps and holdover (R132, R133, R139, R142, R143): what falls due. -/

namespace Sys2Proof.Machine

section
variable {d : Dev} {o : Nat}

/-! ## Triggers (R142, R143) -/

/-- Driving an output takes no time. -/
@[simp] theorem Dev.drive_now (d : Dev) (o : Nat) (level : Bool) : (d.drive o level).now = d.now := by
  unfold Dev.drive
  dsimp only
  split <;> rfl

@[simp] theorem Dev.setTrig_now (d : Dev) (o : Nat) (t : Trig) : (d.setTrig o t).now = d.now := rfl

/-- A periodic schedule that no descriptor owns is installed with its first edge ahead. -/
theorem trigInstall_periodic {q : TrigWait} {rest : List TrigWait} (hq : (d.trig o).queue = q :: rest) (hdue : q.at_ ≤ d.now)
    (hidle : (d.trig o).pulse = none) (howner : q.owner = none) (hmode : q.sched.mode = 2) :
    trigInstall o d =
      ((d.setTrig o { d.trig o with cur := q.sched, next := some (edgeFrom q.sched d.now), queue := rest }).setOwn
        (0x8200 + 32 * o) 0).drive o q.sched.low := by
  have hnow : ¬ (d.now < q.at_ ∨ (d.trig o).pulse.isSome = true) := by simp [hdue, hidle]
  unfold trigInstall
  simp [hq, hnow, howner, hmode]

/-- The trailing edge of a pulse, less than a clock tick late. -/
theorem trigEdge_trailing {e : Nat} (hpulse : (d.trig o).pulse = some e) (hdue : e ≤ d.now) (htick : d.now < e + 4) :
    trigEdge o d = (d.setTrig o { d.trig o with pulse := none }).drive o (d.trig o).cur.low := by
  unfold trigEdge
  simp [hpulse, Nat.not_lt.2 hdue, Nat.not_le.2 htick]

/-- A leading edge whose pulse has not passed, less than a clock tick late. -/
theorem trigEdge_leading {e : Nat} (hpulse : (d.trig o).pulse = none) (hnext : (d.trig o).next = some e) (hdue : e ≤ d.now)
    (htick : d.now < e + 4) (hwidth : d.now < e + (d.trig o).cur.width) :
    trigEdge o d =
      (d.setTrig o
        { d.trig o with
          next := if (d.trig o).cur.mode = 2 then some (e + (d.trig o).cur.period) else none
          pulse := some (e + (d.trig o).cur.width) }).drive o (!(d.trig o).cur.low) := by
  unfold trigEdge
  simp [hpulse, hnext, Nat.not_lt.2 hdue, Nat.not_le.2 htick, Nat.not_le.2 hwidth]

/-! ## Waiting steps (R133) -/

theorem tbStepPpsTimeout_one {x : Desc} (h : d.descs.filter d.ppsLate = [x]) : tbStepPpsTimeout d = d.endDesc x.id { st := .failedTimeout } := by
  unfold tbStepPpsTimeout
  rw [h]
  rfl

/-! ## Captures (R139) -/

section
variable {n : Nat}

/-- EDGE of a capture pin takes edges of a polarity. -/
def Dev.takesEdge (d : Dev) (n : Nat) (rising : Bool) : Prop :=
  let m := d.regF (0x8080 + 16 * n) 1 0
  m = 3 ∨ (rising = true ∧ m = 1) ∨ (rising = false ∧ m = 2)

theorem Dev.edgeClose_apart (h : (d.tb.caps.getD n Cap.reset).any = false ∨ (d.tb.caps.getD n Cap.reset).last.toNat + 100 ≤ d.now) :
    d.edgeClose n = false := by
  unfold Dev.edgeClose
  rcases h with h | h <;> simp [h]

/-- An edge that its pin takes is stamped, unless it is too close to the last; PPS_IN apart, that is all. -/
theorem capEdge_stamps {rising : Bool} (hpin : n ≠ 8) (htakes : d.takesEdge n rising) (hapart : d.edgeClose n = false) :
    capEdge n rising d = d.stampEdge n true := by
  have hmine : (d.regF (0x8080 + 16 * n) 1 0 == 3 || (rising && d.regF (0x8080 + 16 * n) 1 0 == 1) ||
      (!rising && d.regF (0x8080 + 16 * n) 1 0 == 2)) = true := by
    rcases htakes with h | ⟨hr, h⟩ | ⟨hr, h⟩ <;> simp [*]
  unfold capEdge
  simp only [hmine]
  simp [hpin, hapart]

/-- A pin that serves no sensor of the device and raises no event keeps the time of the edge and counts it. -/
theorem Dev.stampEdge_quiet (mine : Bool) (hsns : ownSensor (d.regF (0x8080 + 16 * n) 15 8) = false)
    (hevt : bitOf (d.reg (0x8080 + 16 * n)) 2 = false) :
    d.stampEdge n mine =
      let c := d.tb.caps.getD n Cap.reset
      d.modTb (fun t => { t with caps := t.caps.setIfInBounds n { c with count := c.count + 1, last := t.time, any := true } }) := by
  unfold Dev.stampEdge
  extract_lets c e z l f
  have hf : f = e := if_neg (fun h => Bool.false_ne_true (hsns.symm.trans h.2))
  rw [hf]
  exact if_neg (fun h => Bool.false_ne_true (hevt.symm.trans h.2))

end

/-! ## Holdover (R132) -/

theorem Dev.enterHoldover_begins (h : d.tb.holdover = false) :
    d.enterHoldover = (d.modTb (fun t => { t with holdover := true, rate := t.freq, slewOnly := true })).event { code := 0x32, d4 := 1 } :=
  if_neg (by simp [h])

theorem holdoverEntry_pps (hsource : d.tbSource = 2) (hsilent : d.tb.ppsLast + 1500000000 ≤ d.now) : holdoverEntry d = d.enterHoldover := by
  have hptp : ¬ d.tbSource = 1 := by simp [hsource]
  unfold holdoverEntry
  rw [if_neg hptp, if_pos ⟨hsource, hsilent⟩]

end

end Sys2Proof.Machine

namespace Sys2Proof

open Machine

/-- Settles O29: each event acts on what has fallen due. -/
theorem timebaseEventsComplete : Obligations.TimebaseEventsComplete := by
  unfold Obligations.TimebaseEventsComplete
  intro s hrun d
  refine ⟨?install, ?edge, ?step, ?capture, ?holdover⟩
  case install =>
    intro o q rest t hq hdue hidle howner hmode
    exact goes_of_run hrun rfl (trigInstall_periodic hq hdue hidle howner hmode)
  case edge =>
    intro o e t
    exact ⟨fun hpulse hdue htick => goes_of_run hrun rfl (trigEdge_trailing hpulse hdue htick),
      fun hidle hnext hdue htick hwidth => goes_of_run hrun rfl (trigEdge_leading hidle hnext hdue htick hwidth)⟩
  case step =>
    intro x hx
    exact goes_of_run hrun rfl (tbStepPpsTimeout_one hx)
  case capture =>
    intro n rising c m hpin htakes hapart hsns hevt
    exact goes_of_run hrun rfl ((capEdge_stamps hpin htakes (Dev.edgeClose_apart hapart)).trans (Dev.stampEdge_quiet true hsns hevt))
  case holdover =>
    intro hsource hsilent hfresh
    exact goes_of_run hrun rfl ((holdoverEntry_pps hsource hsilent).trans (Dev.enterHoldover_begins hfresh))

end Sys2Proof
end

section
/-! Plans and the timebase as opcode rows (R133, R141, R149, R295, R296, R315, R323): what an accepted one does. -/

namespace Sys2Proof.Machine

/-! ## The effect by opcode -/

/-- A row of the device's own, whatever its opcode, has the effect of `Dev.startCtl` on the device that accepted its descriptor. -/
theorem goes_of_starts_ctl {i : Instr} {s : State} {c n : Nat} {w : DescWords} {x : Desc} {e : Dev} (hp : i.presented = some (c, w.withOp n))
    (hrun : s.dev.running = true) (hctl : opDefOf (w.withOp n) = none) (hs : s.dev.starts c (w.withOp n) x)
    (he : (s.dev.taken c (w.withOp n)).1.startCtl x true = e) : Goes i s e.settle := by
  obtain ⟨ht, hj, hx, hw⟩ := hs
  rw [← he, ← Dev.launch_ctl true hx (hw ▸ hctl)]
  exact goes_of_accepted hp hrun ht hj

/-- No leaf runs an opcode of plans or of the mirror. -/
theorem opDefOf_withOp_plan (w : DescWords) {n : Nat} (h : n = 0x70 ∨ n = 0x71 ∨ n = 0x78 ∨ n = 0x79) : opDefOf (w.withOp n) = none := by
  unfold opDefOf
  rw [withOp_opc w n (by omega)]
  rcases h with rfl | rfl | rfl | rfl <;> rfl

section
variable {d : Dev} {x : Desc} {whole : Bool}

theorem Dev.startCtl_trigger (h : x.w.opc = 0x10) : d.startCtl x whole = d.runTbTrigger x := by
  simp only [Dev.startCtl, h]

theorem Dev.startCtl_step (h : x.w.opc = 0x11) : d.startCtl x whole = d.runTbStep x := by
  simp only [Dev.startCtl, h]

theorem Dev.startCtl_swap (h : x.w.opc = 0x14) : d.startCtl x whole = d.runPlgSwap x := by
  simp only [Dev.startCtl, h]

theorem Dev.startCtl_arm (h : x.w.opc = 0x70) : d.startCtl x whole = d.runArm x := by
  simp only [Dev.startCtl, h]

theorem Dev.startCtl_disarm (h : x.w.opc = 0x71) : d.startCtl x whole = d.runDisarm x := by
  simp only [Dev.startCtl, h]

theorem Dev.startCtl_track (h : x.w.opc = 0x78) :
    d.startCtl x whole = (d.runTrack x.w).endDesc x.id { st := .done, r4 := 0, r5 := 0 } := by
  simp only [Dev.startCtl, h]

theorem Dev.startCtl_resync (h : x.w.opc = 0x79) :
    d.startCtl x whole =
      (d.modDesc x.id (fun y => { y with await_ := .resync (x.w.f 6 3 0), phase := .dispatched })).runResync x := by
  simp only [Dev.startCtl, h]

/-! ## TB_STEP (R133) -/

theorem Dev.runTbStep_now (h : bitOf (x.w.dw 8) 0 = false) :
    d.runTbStep x =
      let delta := x.w.q 6 - d.now
      let e := d.stepTime delta
      (if e.tbSource = 0 then e.tbValid else e).endDesc x.id { st := .done, r4 := dwN delta, r5 := dwN (delta / 2 ^ 32) } :=
  if_neg (by simp [h])

theorem Dev.runTbStep_waits (h : bitOf (x.w.dw 8) 0 = true) :
    d.runTbStep x = d.modDesc x.id (fun y => { y with await_ := .pps (BitVec.ofNat 64 (x.w.q 6)) (d.now + 2000000000) }) :=
  if_pos h

/-! ## SCH_DISARM (R296) -/

theorem Dev.runDisarm_none (h : Tab.get? d.plans (x.w.f 6 3 0) = none) : d.runDisarm x = d.endDesc x.id { st := .done } := by
  simp only [Dev.runDisarm, h]

theorem Dev.runDisarm_armed {p : Plan} (h : Tab.get? d.plans (x.w.f 6 3 0) = some p) :
    d.runDisarm x =
      ((d.modDesc x.id (fun y => { y with await_ := .disarm (x.w.f 6 3 0) p.armId, phase := .dispatched })).stopPlan
        (x.w.f 6 3 0)).disarmNow (x.w.f 6 3 0) := by
  simp only [Dev.runDisarm, h]

/-! ## MIR_TRACK (R315) -/

/-- A sheet tracked anew goes to the end of the list. -/
theorem Dev.runTrack_eq (w : DescWords) :
    d.runTrack w = d.modSlot (w.f 6 3 0) (fun m =>
      { m with tracked := m.tracked.filter (fun t => t != w.dw 7) ++ (if bitOf (w.dw 6) 4 then [] else [w.dw 7]) }) := by
  unfold Dev.runTrack
  cases bitOf (w.dw 6) 4 <;> simp

/-! ## MIR_RESYNC (R323, R327) -/

section
variable {p : Plan}

theorem Dev.askResync_unpaired {slot : Nat} (h : (d.mslot slot).sync = .unpaired) : d.askResync slot x = d := by
  unfold Dev.askResync
  split
  · exact if_pos h
  · rfl

theorem Dev.askResync_paired {slot : Nat} (hp : d.mplan slot = some p) (h : (d.mslot slot).sync ≠ .unpaired) :
    d.askResync slot x = (d.startBulk slot (d.resyncWho x.w) p.nextPeriod (some x.id)).sendResync slot (d.resyncWho x.w) true := by
  simp only [Dev.askResync, hp, if_neg h]

/-- The adopter that a MIR_RESYNC names: this device or its partner. -/
theorem Dev.resyncWho_named {w : DescWords} (h : w.f 6 5 4 = 1 ∨ w.f 6 5 4 = 2) :
    d.resyncWho w = if w.f 6 5 4 = 1 then (if d.mir.verso then 2 else 1) else 3 - (if d.mir.verso then 2 else 1) := by
  rcases h with h | h <;> simp [Dev.resyncWho, h]

end

end

end Sys2Proof.Machine

namespace Sys2Proof

open Machine

/-- Settles O42: each row has its own effect at acceptance, its operands read from the words presented. -/
theorem planAndTimebaseRowsComplete : Obligations.PlanAndTimebaseRowsComplete := by
  unfold Obligations.PlanAndTimebaseRowsComplete
  intro c w x s hrun at_ go slot
  have hw {n : Nat} (hs : go n) : x.w = w.withOp n := hs.2.2.2
  have hslot {n : Nat} (hs : go n) : x.w.f 6 3 0 = slot := by rw [hw hs, withOp_f_six]
  have hmode {n : Nat} (hs : go n) : bitOf (x.w.dw 8) 0 = bitOf (w.dw 8) 0 := by rw [hw hs, withOp_dw w n 8 (by decide)]
  have htime {n : Nat} (hs : go n) : x.w.q 6 = w.q 6 := by rw [hw hs, withOp_q w n (by decide)]
  refine ⟨?trigger, ?stepNow, ?stepWaits, ?swap, ?arm, ?disarmNone, ?disarm, ?track, ?resync, ?resyncWaits⟩
  case trigger =>
    intro hs
    refine goes_of_starts rfl hrun (by decide) hs ?_
    rw [Dev.startCtl_trigger (hs.opc (by decide)), Dev.runTbTrigger, hslot hs, hw hs]
  case stepNow =>
    intro hs hnow delta e
    refine goes_of_starts rfl hrun (by decide) hs ?_
    rw [Dev.startCtl_step (hs.opc (by decide)), Dev.runTbStep_now ((hmode hs).trans hnow), htime hs]
  case stepWaits =>
    intro hs hpps
    refine goes_of_starts rfl hrun (by decide) hs ?_
    rw [Dev.startCtl_step (hs.opc (by decide)), Dev.runTbStep_waits ((hmode hs).trans hpps), htime hs]
  case swap =>
    intro hs
    exact goes_of_starts rfl hrun (by decide) hs (Dev.startCtl_swap (hs.opc (by decide)))
  case arm =>
    intro hs
    exact goes_of_starts_ctl rfl hrun (opDefOf_withOp_plan w (by decide)) hs (Dev.startCtl_arm (hs.opc (by decide)))
  case disarmNone =>
    intro hs hplan
    refine goes_of_starts_ctl rfl hrun (opDefOf_withOp_plan w (by decide)) hs ?_
    rw [Dev.startCtl_disarm (hs.opc (by decide)), Dev.runDisarm_none (by rwa [hslot hs])]
  case disarm =>
    intro p hs hplan
    refine goes_of_starts_ctl rfl hrun (opDefOf_withOp_plan w (by decide)) hs ?_
    rw [Dev.startCtl_disarm (hs.opc (by decide)), Dev.runDisarm_armed (p := p) (by rwa [hslot hs]), hslot hs]
  case track =>
    intro hs add
    refine goes_of_starts_ctl rfl hrun (opDefOf_withOp_plan w (by decide)) hs ?_
    rw [Dev.startCtl_track (hs.opc (by decide)), Dev.runTrack_eq, hslot hs, hw hs, withOp_dw w _ 6 (by decide), withOp_dw w _ 7 (by decide)]
  case resync =>
    intro p hs hnamed hplan hpaired who
    have hwho : (at_ 0x79).resyncWho x.w = who := by
      rw [hw hs, Dev.resyncWho_named (by rwa [withOp_f_six]), withOp_f_six]
    refine goes_of_starts_ctl rfl hrun (opDefOf_withOp_plan w (by decide)) hs ?_
    rw [Dev.startCtl_resync (hs.opc (by decide)), Dev.runResync, hslot hs, ← hwho]
    exact Dev.askResync_paired hplan hpaired
  case resyncWaits =>
    intro p hs hplan hunpaired
    refine goes_of_starts_ctl rfl hrun (opDefOf_withOp_plan w (by decide)) hs ?_
    rw [Dev.startCtl_resync (hs.opc (by decide)), Dev.runResync, hslot hs]
    exact Dev.askResync_unpaired hunpaired

end Sys2Proof
end

section
/-! The plough (R149, R157, R159, R160): what a record does to its channel, and what the events of the plough do. -/

namespace Sys2Proof.Machine

/-! ## Channels -/

section
variable {d : Dev} {k : Nat}

theorem Dev.pch_setPch_same (c : PlgCh) (h : k < 32) : (d.setPch k c).pch k = c := by
  simp [Dev.pch, Dev.setPch, Vector.getD, h]

@[simp] theorem Dev.setPch_plog (c : PlgCh) (l : Nat) : (d.setPch k c).plog l = d.plog l := rfl

/-! ## Records (R157) -/

/-- A channel when a record is due: a record that is not saturated, or holds no inserted sample, ends the run of such records. -/
def PlgCh.recordDue (c : PlgCh) (sat gap : Bool) : PlgCh :=
  { c with satRun := if sat then c.satRun else false, gapRun := if gap then c.gapRun else false }

/-- A record not later than the channel's last leaves no trace but in the channel's runs. -/
theorem Dev.plgRecord_suppressed {stamp t : Nat} {value : Int} {settling sat gap scs : Bool} (hlast : (d.pch k).lastRec = some t)
    (hle : stamp ≤ t) : d.plgRecord k stamp value settling sat gap scs = d.setPch k ((d.pch k).recordDue sat gap) :=
  if_pos (by simp [hlast, hle])

/-- Any other record reaches the log, and becomes the channel's last if the log counts it. -/
theorem Dev.plgRecord_offered {stamp : Nat} (value : Int) (settling sat gap scs : Bool)
    (hnew : ∀ t, (d.pch k).lastRec = some t → t < stamp) :
    ∃ e : Dev, d.plgRecord k stamp value settling sat gap scs =
      if (e.plog (k / 8)).count = (d.plog (k / 8)).count then e else e.setPch k { e.pch k with lastRec := some stamp } := by
  refine ⟨_, if_neg ?_⟩
  cases hlast : (d.pch k).lastRec with
  | none => simp
  | some t => simpa using hnew t hlast

/-- A record that the log counts is later than the channel's last. -/
theorem Dev.lt_of_plgRecord_counted {stamp t : Nat} {value : Int} {settling sat gap scs : Bool}
    (hcount : ((d.plgRecord k stamp value settling sat gap scs).plog (k / 8)).count ≠ (d.plog (k / 8)).count)
    (hlast : (d.pch k).lastRec = some t) : t < stamp := by
  by_contra hle
  rw [Dev.plgRecord_suppressed hlast (Nat.not_lt.1 hle)] at hcount
  exact hcount rfl

theorem Dev.lastRec_of_plgRecord_counted {stamp : Nat} {value : Int} {settling sat gap scs : Bool} (hk : k < 32)
    (hcount : ((d.plgRecord k stamp value settling sat gap scs).plog (k / 8)).count ≠ (d.plog (k / 8)).count) :
    ((d.plgRecord k stamp value settling sat gap scs).pch k).lastRec = some stamp := by
  obtain ⟨e, he⟩ := Dev.plgRecord_offered value settling sat gap scs (fun _ => Dev.lt_of_plgRecord_counted hcount)
  rw [he] at hcount ⊢
  split at hcount
  next hsame => exact absurd hsame hcount
  next hmore => rw [if_neg hmore, Dev.pch_setPch_same _ hk]

end

/-! ## Slots (R149) -/

section
variable {d : Dev} {k : Nat}

theorem Dev.swapDone_idle (hswap : d.plg.swap = none) : d.swapDone = d := by
  rw [Dev.swapDone, hswap]

/-- With no swap pending the oldest sample, a value, leaves its channel, which takes it if it is enabled. -/
theorem ploughSlot_value {p : PSample} {rest : List PSample} {v : Int} (hk : k < 32) (hpend : (d.pch k).pend = p :: rest)
    (hen : d.plg.en = true) (hswap : d.plg.swap = none) (hval : p.value = some v) :
    ploughSlot k d =
      let e := d.setPch k { d.pch k with pend := rest }
      (if chEn (d.pch k).cfg then e.plgSample k p p.stamp else e).swapDone := by
  have hidle (c : PlgCh) : (d.setPch k c).plg.swap = none := hswap
  unfold ploughSlot
  simp only [hpend, hen, hval, hidle, Dev.pch_setPch_same _ hk, Bool.not_true, Bool.false_eq_true, if_false]

end

/-! ## Swaps (R159, R160) -/

section
variable {d : Dev}

/-- A channel 10 ms after SWAP_TIME: it switches to the other bank, unless it has, or had input in those 10 ms. -/
def Dev.idleSwitched (d : Dev) (z : PlgSwap) (k : Nat) (c : PlgCh) : PlgCh :=
  let got := z.feeds k c && (z.passed c || c.pend.any (fun p => decide (z.at_ ≤ p.stamp ∧ p.stamp ≤ z.at_ + 10000000)))
  if c.switched ∨ got then c else { (c.install (z.cfgOf k c) (!d.plg.active)) with switched := true }

theorem plgSwapIdleSwitch_due {z : PlgSwap} (hz : d.plg.swap = some z) (hdue : z.at_ + 10000000 ≤ d.now) :
    plgSwapIdleSwitch d = { d with plg := { d.plg with chans := d.plg.chans.mapIdx (d.idleSwitched z) } }.swapDone := by
  rw [plgSwapIdleSwitch, hz]
  exact if_neg (Nat.not_lt.2 hdue)

/-- Bytes of the image of a PLG_SWAP: the coefficients, and the channel words where it applies them. -/
def Desc.swapBytes (x : Desc) : Nat := if bitOf (x.w.dw 8) 0 then 448 else 320

/-- The image of a PLG_SWAP. -/
def Dev.swapImage (d : Dev) (x : Desc) : Bytes := d.rd x (x.w.dw 6) (x.w.dw 7).toNat x.swapBytes

/-- The plough with the coefficients of an image in its inactive bank. -/
def Plg.withImage (p : Plg) (b : Bytes) : Plg :=
  (List.range 80).foldl (fun (p : Plg) i => if i % 16 < 14 then p.setCoef (!p.active) (i / 16) (i % 16) (bw b i) else p) p

/-- The swap that a PLG_SWAP arms with its image. -/
def Desc.armedSwap (x : Desc) (id : Nat) (b : Bytes) : PlgSwap :=
  { owner := some id, at_ := x.w.q 10, applyCh := bitOf (x.w.dw 8) 0,
    chans := if bitOf (x.w.dw 8) 0 then (List.range 32).map (fun k => bw b (80 + k)) else [], switchedOn := 0 }

/-- The first waiting PLG_SWAP, granted its image, finds it whole and well formed: the image is loaded and the swap armed. -/
theorem plgSwapLoad_loads {id : Nat} {rest : List Nat} {x : Desc} {fl : BitVec 16} (hswap : d.plg.swap = none)
    (hwait : d.plg.waiting = id :: rest) (hx : (d.grantFor id).desc? id = some x) (htok : (d.grantFor id).tokens id = (none, true))
    (hecc : (d.grantFor id).eccDecodeReads x [(x.w.dw 6, (x.w.dw 7).toNat, x.swapBytes)] = (d.grantFor id, fl, false))
    (hok : imageOk ((d.grantFor id).swapImage x) (bitOf (x.w.dw 8) 0) = true) :
    plgSwapLoad d =
      let e := d.grantFor id
      let b := e.swapImage x
      ({ e with plg := { e.plg.withImage b with waiting := rest } }.modDesc id
        (fun y => { y with phase := .dispatched, flags := y.flags ||| fl })).armSwap (x.armedSwap id b) := by
  unfold Desc.swapBytes at hecc
  unfold Dev.swapImage Desc.swapBytes at hok
  unfold plgSwapLoad
  simp only [hswap, hwait, hx, htok, hecc, hok, Bool.not_true, Bool.false_eq_true, if_false]
  rfl

end

end Sys2Proof.Machine

namespace Sys2Proof

open Machine

/-- Settles O37: a suppressed record touches its own channel only, and one that the log counts was not suppressed. -/
theorem ploughStampsRise : Obligations.PloughStampsRise := by
  unfold Obligations.PloughStampsRise
  intro d k stamp value settling sat gap scs hk e
  refine ⟨?suppressed, ?written⟩
  case suppressed =>
    intro t hlast hle
    have he : e = d.setPch k ((d.pch k).recordDue sat gap) := Dev.plgRecord_suppressed hlast hle
    rw [he]
    exact ⟨rfl, rfl, rfl, rfl, rfl, (congrArg PlgCh.lastRec (Dev.pch_setPch_same _ hk)).trans hlast⟩
  case written =>
    intro hcount
    exact ⟨Dev.lastRec_of_plgRecord_counted hk hcount, fun _ => Dev.lt_of_plgRecord_counted hcount⟩

/-- Settles O36: a slot, the end of the 10 ms after SWAP_TIME, and the loading of an image. -/
theorem ploughEventsComplete : Obligations.PloughEventsComplete := by
  unfold Obligations.PloughEventsComplete
  intro s hrun d
  refine ⟨?slot, ?idle, ?load⟩
  case slot =>
    intro k p rest v c hpend hen hswap hval
    have hslot := ploughSlot_value k.isLt hpend hen hswap hval
    exact ⟨fun hon => goes_of_run hrun rfl (hslot.trans (congrArg Dev.swapDone (if_pos hon))),
      fun hoff => goes_of_run hrun rfl
        (hslot.trans ((congrArg Dev.swapDone (if_neg (Bool.eq_false_iff.1 hoff))).trans (Dev.swapDone_idle hswap)))⟩
  case idle =>
    intro z hz hdue sw
    exact goes_of_run hrun rfl (plgSwapIdleSwitch_due hz hdue)
  case load =>
    intro id rest x hswap hwait e ap off n b hx htok hecc hok p
    exact goes_of_run hrun rfl (plgSwapLoad_loads hswap hwait hx htok hecc hok)

end Sys2Proof
end

section
/-! VIS_SGM (R179, R180): the branches a disparity pixel ends in, and the confidence each of them gives. -/

namespace Sys2Proof.Machine

/-! ## What a choice can pick -/

/-- The best of a list is one of its members. -/
theorem mem_of_bestBy {α : Type} {lt : α → α → Bool} {l : List α} {a : α} (h : bestBy lt l = some a) : a ∈ l := by
  cases l with
  | nil => cases h
  | cons b t =>
    obtain rfl := Option.some.inj h
    exact List.foldlRecOn t _ List.mem_cons_self fun best hbest x hx => by
      split
      · exact List.mem_cons_of_mem b hx
      · exact hbest

/-- A clamped value does not pass the upper limit. -/
theorem clampI_le {x lo hi : Int} (h : lo ≤ hi) : clampI x lo hi ≤ hi := by
  unfold clampI
  split
  · exact h
  · split <;> omega

/-! ## The candidates of a pixel (R179) -/

/-- The candidates of a pixel, each as its place in the window with its sum. -/
def Sgm.candidates (s : Sgm) (sum : Array (Array Nat)) (x y : Nat) : List (Nat × Nat) :=
  (List.range 256).zip (sum.getD (y * s.l.w + x) #[]).toList

/-- The candidate of the smallest sum. -/
def sgmWinner (v : List (Nat × Nat)) : Nat × Nat := (bestBy (fun (a b : Nat × Nat) => decide (a.2 < b.2)) v).getD (0, 0)

/-- The candidates further than one from the winner. -/
def sgmFar (v : List (Nat × Nat)) : List (Nat × Nat) :=
  v.filter (fun p => decide (p.1 + 1 < (sgmWinner v).1 ∨ (sgmWinner v).1 + 1 < p.1))

/-- The runner-up's sum s2, none when no candidate lies further than one from the winner. -/
def sgmRunnerUp (v : List (Nat × Nat)) : Option Nat :=
  if (sgmFar v).isEmpty then none else some (minL ((sgmFar v).map (·.2)))

/-- The confidence of a valid pixel (R180). -/
def sgmConfidence (v : List (Nat × Nat)) : Nat :=
  match sgmRunnerUp v with
  | none => 255
  | some 0 => 0
  | some m => 255 * (m - (sgmWinner v).2) / m

/-- The winner's place lies in the window. -/
theorem sgmWinner_lt (s : Sgm) (sum : Array (Array Nat)) (x y : Nat) : (sgmWinner (s.candidates sum x y)).1 < 256 := by
  unfold sgmWinner
  cases h : bestBy (fun (a b : Nat × Nat) => decide (a.2 < b.2)) (s.candidates sum x y) with
  | none => decide
  | some a => exact List.mem_range.1 (List.of_mem_zip (mem_of_bestBy h)).1

theorem sgmConfidence_of_far_nil {v : List (Nat × Nat)} (h : sgmFar v = []) : sgmConfidence v = 255 := by
  simp [sgmConfidence, sgmRunnerUp, h]

theorem sgmConfidence_of_far_ne_nil {v : List (Nat × Nat)} (h : sgmFar v ≠ []) :
    sgmConfidence v = 255 * (minL ((sgmFar v).map (·.2)) - (sgmWinner v).2) / minL ((sgmFar v).map (·.2)) := by
  have hr : sgmRunnerUp v = some (minL ((sgmFar v).map (·.2))) := by simp [sgmRunnerUp, h]
  unfold sgmConfidence
  rw [hr]
  cases minL ((sgmFar v).map (·.2)) with
  | zero => simp
  | succ m => rfl

/-! ## The outcomes of a pixel (R179, R180) -/

/-- The output of a valid pixel: its disparity in sixteenths, with the subpixel part. -/
def sgmValue (ds : Nat) (sub : Int) : Nat := (16 * (ds : Int) + sub).toNat

/-- The greatest output is 0xFFD8, so no valid pixel reads as a code (R179). -/
theorem sgmValue_lt_code {ds : Nat} {sub : Int} (hds : ds ≤ 4093) (hsub : sub ≤ 8) : sgmValue ds sub < 0xFFFA := by
  unfold sgmValue
  omega

/-- A pixel has a code and confidence 0, or it is valid: its winner lies below the window's last place. -/
theorem Sgm.pixel_code_or_valid (s : Sgm) (sum : Array (Array Nat)) (sat tex uniq x y : Nat) :
    (∃ c, 0xFFFA ≤ c ∧ s.pixel sum sat tex uniq x y = (c, 0)) ∨
    (∃ sub, (sgmWinner (s.candidates sum x y)).1 ≠ 255 ∧ sub ≤ 8 ∧ s.pixel sum sat tex uniq x y =
      (sgmValue (s.win x y + (sgmWinner (s.candidates sum x y)).1) sub, sgmConfidence (s.candidates sum x y))) := by
  unfold Sgm.pixel
  extract_lets d0 v at_ best ds s0 total far s2 notU occ den sub conf
  -- One branch per test of R179, in its order: mask, blind, saturated, texture, window edge, uniqueness, left-right.
  split
  · exact .inl ⟨0xFFFD, by decide, rfl⟩
  split
  · exact .inl ⟨0xFFFE, by decide, rfl⟩
  split
  · exact .inl ⟨0xFFFC, by decide, rfl⟩
  split
  · exact .inl ⟨0xFFFF, by decide, rfl⟩
  split
  · exact .inl ⟨0xFFFB, by decide, rfl⟩
  rename_i hedge
  split
  · exact .inl ⟨0xFFFA, by decide, rfl⟩
  split
  · exact .inl ⟨0xFFFE, by decide, rfl⟩
  have hsub : sub ≤ 8 := by
    unfold sub
    split
    · exact clampI_le (by decide)
    · decide
  exact .inr ⟨sub, fun h => hedge (.inl (congrArg (d0 + ·) h)), hsub, rfl⟩

end Sys2Proof.Machine

namespace Sys2Proof

open Machine

/-- Settles O60: a code comes with confidence 0, and what is no code is a valid pixel, whose confidence is the one of R180. -/
theorem disparityConfidence : Obligations.DisparityConfidence := by
  unfold Obligations.DisparityConfidence
  intro s sum sat tex uniq x y hwin v best far s2 p
  obtain ⟨c, hc, hp⟩ | ⟨sub, hedge, hsub, hp⟩ := s.pixel_code_or_valid sum sat tex uniq x y
  · have hnot : ¬ p.1 < 0xFFFA := by
      rw [show p = (c, 0) from hp]
      exact Nat.not_lt.2 hc
    exact ⟨fun _ => congrArg Prod.snd hp, fun h => absurd h hnot, fun h => absurd h hnot, fun h => absurd h hnot⟩
  · have hlt : p.1 < 0xFFFA := by
      have hwinner := sgmWinner_lt s sum x y
      rw [show p.1 = _ from congrArg Prod.fst hp]
      exact sgmValue_lt_code (by omega) hsub
    have hconf : p.2 = sgmConfidence v := congrArg Prod.snd hp
    have hfar (h : far ≠ []) : p.2 = 255 * (s2 - best.2) / s2 := hconf.trans (sgmConfidence_of_far_ne_nil h)
    refine ⟨fun h => absurd hlt (Nat.not_lt.2 h), fun _ h => hconf.trans (sgmConfidence_of_far_nil h), ?_, fun _ h _ => hfar h⟩
    intro _ h h0
    rw [hfar h, h0, Nat.div_zero]

end Sys2Proof
end

section
/-! Requantisation (R196): the half-to-even quotient `rdiv`, the clamp, and the saturation flag. -/

namespace Sys2Proof.Machine

/-! ## The rounded quotient -/

/-- What is left of the exact quotient after the floor lies in [0, d). -/
theorem sub_fdiv_mul_bounds (n : Int) {d : Nat} (hd : 0 < d) : 0 ≤ n - n.fdiv d * d ∧ n - n.fdiv d * d < d := by
  have hpos : (0 : Int) < d := Int.natCast_pos.2 hd
  rw [Int.mul_comm, ← Int.fmod_def]
  exact ⟨Int.fmod_nonneg_of_pos n hpos, Int.fmod_lt_of_pos n hpos⟩

/-- `rdiv` rounds down below the half and from an even floor at the half, and up otherwise. -/
theorem rdiv_floor_or_succ (n : Int) (d : Nat) :
    (rdiv n d = n.fdiv d ∧ (2 * (n - n.fdiv d * d) < d ∨ 2 * (n - n.fdiv d * d) = d ∧ n.fdiv d % 2 = 0)) ∨
    (rdiv n d = n.fdiv d + 1 ∧ (d < 2 * (n - n.fdiv d * d) ∨ 2 * (n - n.fdiv d * d) = d ∧ n.fdiv d % 2 = 1)) := by
  unfold rdiv
  generalize n.fdiv d = q
  dsimp only
  split
  · exact .inr ⟨rfl, by omega⟩
  · exact .inl ⟨rfl, by omega⟩

/-- The error of the rounded quotient, scaled by the divisor: at most a half, and at a half the quotient is even. -/
theorem rdiv_half_even (n : Int) {d : Nat} (hd : 0 < d) :
    2 * (n - rdiv n d * d) ≤ d ∧ -(d : Int) ≤ 2 * (n - rdiv n d * d) ∧
      ((2 * (n - rdiv n d * d) = d ∨ 2 * (n - rdiv n d * d) = -(d : Int)) → rdiv n d % 2 = 0) := by
  obtain ⟨hnonneg, hlt⟩ := sub_fdiv_mul_bounds n hd
  obtain ⟨hq, hdown⟩ | ⟨hq, hup⟩ := rdiv_floor_or_succ n d
  · rw [hq]
    omega
  · have herr : n - (n.fdiv d + 1) * d = n - n.fdiv d * d - d := by ring
    rw [hq, herr]
    omega

/-! ## The clamp -/

/-- A clamped value does not pass the lower limit. -/
theorem le_clampI {x lo hi : Int} (h : lo ≤ hi) : lo ≤ clampI x lo hi := by
  unfold clampI
  split
  · exact Int.le_refl lo
  · split <;> omega

theorem clampI_of_mem {x lo hi : Int} (hlo : lo ≤ x) (hhi : x ≤ hi) : clampI x lo hi = x := by
  rw [clampI, if_neg (Int.not_lt.2 hlo), if_neg (Int.not_lt.2 hhi)]

theorem clampI_of_lt {x lo hi : Int} (h : x < lo) : clampI x lo hi = lo := if_pos h

theorem clampI_of_gt {x lo hi : Int} (hle : lo ≤ hi) (h : hi < x) : clampI x lo hi = hi := by
  rw [clampI, if_neg (by omega), if_pos h]

/-! ## The requantised element (R196) -/

/-- The rounded product plus ZP, before the clamp: `y` of R196. -/
def requantRaw (v mult : Int) (shift : Nat) (zp : Int) : Int := rdiv (v * mult) (2 ^ (31 + shift)) + zp

/-- When the clamp ends at `z`, the element is `z` and its flag says whether `z` is another value than `y`. -/
theorem requant_of_clampI {v mult zp lo hi z : Int} {shift : Nat} (h : clampI (requantRaw v mult shift zp) lo hi = z) :
    requant v mult shift zp lo hi = (z, decide (z ≠ requantRaw v mult shift zp)) := by
  subst h
  rfl

section
variable {v mult zp lo hi : Int} {shift : Nat}

theorem requant_of_mem (hlo : lo ≤ requantRaw v mult shift zp) (hhi : requantRaw v mult shift zp ≤ hi) :
    requant v mult shift zp lo hi = (requantRaw v mult shift zp, false) := by
  rw [requant_of_clampI (clampI_of_mem hlo hhi), decide_eq_false (not_not_intro rfl)]

theorem requant_of_lt (h : requantRaw v mult shift zp < lo) : requant v mult shift zp lo hi = (lo, true) := by
  rw [requant_of_clampI (clampI_of_lt h), decide_eq_true (Int.ne_of_gt h)]

theorem requant_of_gt (hle : lo ≤ hi) (h : hi < requantRaw v mult shift zp) : requant v mult shift zp lo hi = (hi, true) := by
  rw [requant_of_clampI (clampI_of_gt hle h), decide_eq_true (Int.ne_of_lt h)]

end

end Sys2Proof.Machine

namespace Sys2Proof

open Machine

/-- Settles O59: the error bound and tie rule of `rdiv`, and the cases of the clamp with their flags. -/
theorem requantiseRoundsAndClamps : Obligations.RequantiseRoundsAndClamps := by
  unfold Obligations.RequantiseRoundsAndClamps
  refine ⟨fun n d hd => rdiv_half_even n hd, ?_⟩
  intro v mult zp lo hi shift hle
  exact ⟨le_clampI hle, clampI_le hle, fun ⟨hlo, hhi⟩ => requant_of_mem hlo hhi, requant_of_lt, requant_of_gt hle⟩

end Sys2Proof
end

section
/-! Plans that fire, final digests and a cut solve (R259, R297, R300–R302, R304, R316): what each event does. -/

namespace Sys2Proof.Machine

section
variable {d : Dev} {slot : Nat} {p : Plan}

/-! ## The turn of a firing (R297, R304) -/

/-- No plan that may start is before a given slot and instant: an earlier instant, or the same one in a lower slot (R297). -/
def Dev.NoneBefore (d : Dev) (slot t : Nat) : Prop :=
  ∀ k u, k < 16 → d.mayFire k = some u → t < u ∨ (t = u ∧ slot ≤ k)

theorem Dev.firingTurn_iff {t : Nat} (ht : d.mayFire slot = some t) : d.firingTurn slot = true ↔ d.NoneBefore slot t := by
  simp only [Dev.firingTurn, ht, Dev.NoneBefore, List.all_eq_true, List.mem_range, Option.all_eq_true, decide_eq_true_eq]
  exact forall_congr' fun k => forall_comm

theorem Dev.not_noneBefore {t : Nat} (h : ∃ k u, k < 16 ∧ d.mayFire k = some u ∧ (u < t ∨ (u = t ∧ k < slot))) : ¬ d.NoneBefore slot t := by
  obtain ⟨k, u, hk, hu, hbefore⟩ := h
  intro hnone
  have := hnone k u hk hu
  omega

theorem Dev.firingTurn_none (hnone : d.mayFire slot = none) : d.firingTurn slot = false := by
  rw [Dev.firingTurn, hnone]

/-- A plan whose turn it is starts by the event that answers whether its wait for the partner has run out. -/
theorem Dev.fire_starts {expired : Bool} (hp : Tab.get? d.plans slot = some p) (hturn : d.firingTurn slot = true)
    (hlate : d.schedLate p = expired) : d.fire slot expired = d.startFiring slot p expired := by
  simp [Dev.fire, hp, hturn, hlate]

/-- The other of the two events leaves it alone. -/
theorem Dev.fire_other {expired : Bool} (hp : Tab.get? d.plans slot = some p) (hlate : d.schedLate p = !expired) :
    d.fire slot expired = d := by
  simp [Dev.fire, hp, hlate]

theorem Dev.fire_notTurn (expired : Bool) (hturn : d.firingTurn slot = false) : d.fire slot expired = d := by
  unfold Dev.fire
  cases Tab.get? d.plans slot <;> simp [hturn]

/-! ## The end of a firing (R300–R302) -/

theorem firingComplete_closes (hp : Tab.get? d.plans slot = some p) (hrunning : p.running = true) (hall : p.stages.length ≤ p.recs.length) :
    firingComplete slot d = (d.closeFiring slot).settle := by
  unfold firingComplete
  rw [hp]
  exact if_pos ⟨hrunning, hall⟩

/-! ## The digest of a firing (R316, R317) -/

/-- FAULT of a firing's DIGEST: its own, or that of a device tampered with. -/
def Dev.digFault (d : Dev) (f : Bool) : Bool := f || d.sec.tampered

/-- The final digest of the last firing of a slot. -/
def Dev.finalDig (d : Dev) (slot : Nat) (k : BitVec 64) (f : Bool) : Dig :=
  let own := (d.mslot slot).own
  { period := k, digest := sha3 (deltaStream k.toNat slot own), count := dwN own.length, bytes := BitVec.ofNat 64 (80 * own.length),
    fault := d.digFault f }

/-- A slot that keeps a final digest; the part of a bulk resync for that period begins with it. -/
def MirSlot.keepDig (z : MirSlot) (dg : Dig) : MirSlot :=
  let z := { z with owns := ((dg, z.own) :: z.owns).take mirKeep, unsent := none }
  if z.sync = .bulk ∧ (z.bulk.map (fun b => decide (b.since ≤ dg.period.toNat))).getD false then
    { z with fill := z.fill.filter (fun q => decide (dg.period.toNat ≤ q.1)), fillFor := some dg.period, fillEnd := false }
  else z

/-- The device that keeps the digest of the last firing of a slot. -/
def Dev.keepDig (d : Dev) (slot : Nat) (k : BitVec 64) (f : Bool) : Dev :=
  d.modSlot slot (fun z => z.keepDig (d.finalDig slot k f))

/-- What a final digest sends of a slot that was `m`: the delta where the slot is paired, the DIGEST, the debt in SCHED. -/
def Dev.sendFinal (g : Dev) (slot : Nat) (p : Plan) (m : MirSlot) (dg : Dig) : Dev :=
  let k := dg.period
  let h := if m.sync = .unpaired then g else g.sendDelta slot p k m.own
  let db := Digest.bytes dg.digest
  let h := h.mirControl 0x05 k.toNat (db.take 16)
    (toLe (slotWord slot p.ctx p.ctxGen.toNat dg.fault) 4 ++ le32 dg.count ++ le64 dg.bytes ++ db.drop 16)
  h.mirControl 0x04 k.toNat [] (toLe (slotWord slot p.ctx p.ctxGen.toNat false) 4 ++ toLe p.debt 4)

section
variable {k : BitVec 64} {f : Bool} (hp : d.mplan slot = some p) (hunsent : (d.mslot slot).unsent = some (k, f))
include hp hunsent

/-- The digest is kept, sent where the pair is up, and compared. -/
theorem digestFinal_eq :
    digestFinal slot d =
      let g := d.keepDig slot k f
      let h := if !g.mirUp then g else g.sendFinal slot p (d.mslot slot) (d.finalDig slot k f)
      (h.compareDig slot k.toNat).advanceSync slot := by
  unfold digestFinal
  simp only [hp, hunsent]
  rfl

theorem digestFinal_alone (hdown : (d.keepDig slot k f).mirUp = false) :
    digestFinal slot d = ((d.keepDig slot k f).compareDig slot k.toNat).advanceSync slot := by
  simp [digestFinal_eq hp hunsent, hdown]

theorem digestFinal_sends (hup : (d.keepDig slot k f).mirUp = true) :
    digestFinal slot d =
      (((d.keepDig slot k f).sendFinal slot p (d.mslot slot) (d.finalDig slot k f)).compareDig slot k.toNat).advanceSync slot := by
  simp [digestFinal_eq hp hunsent, hup]

end

end

/-! ## The deadline of a solve (R259) -/

/-- A solve on its leaf sees its DEADLINE, and has not been cut before. -/
structure Dev.SolveDue (d : Dev) (id : Nat) (x : Desc) : Prop where
  desc     : d.desc? id = some x
  solve    : x.w.opc = 0x53
  runs     : x.phase = .dispatched
  deadline : x.w.deadline ≠ 0
  reached  : tbReached d.now x.w.deadline = true
  uncut    : x.cutAt = none

theorem prsDeadlineHit_cuts {d : Dev} {id : Nat} {x : Desc} (iters : Nat) (within : Bool) (h : d.SolveDue id x) :
    prsDeadlineHit id iters within d =
      (d.modDesc id (fun y => { y with cutAt := some (iters, within, d.now), parts := endParts d.now y.parts })).crcTake := by
  unfold prsDeadlineHit
  rw [h.desc]
  exact if_neg (by simp [h.solve, h.runs, h.deadline, h.reached, h.uncut])

end Sys2Proof.Machine

namespace Sys2Proof

open Machine

/-- Settles O44: a plan starts exactly in its turn, by the event its wait for the partner calls for; each other event by its row. -/
theorem planEventsComplete : Obligations.PlanEventsComplete := by
  unfold Obligations.PlanEventsComplete
  intro s hrun d
  refine ⟨?turn, ?waits, ?closes, ?digest, ?deadline⟩
  case turn =>
    intro slot p t hp ht
    refine ⟨fun hfirst => ?_, fun hlater => ?_⟩
    · have hturn := (Dev.firingTurn_iff ht).2 hfirst
      refine ⟨fun hlate => ⟨?_, ?_⟩, fun hlate => ⟨?_, ?_⟩⟩
      · exact goes_of_run hrun rfl (Dev.fire_starts hp hturn hlate)
      · exact goes_of_run hrun rfl (Dev.fire_other hp hlate)
      · exact goes_of_run hrun rfl (Dev.fire_starts hp hturn hlate)
      · exact goes_of_run hrun rfl (Dev.fire_other hp hlate)
    · have hturn := Bool.eq_false_iff.2 (mt (Dev.firingTurn_iff ht).1 (Dev.not_noneBefore hlater))
      exact ⟨goes_of_run hrun rfl (Dev.fire_notTurn false hturn), goes_of_run hrun rfl (Dev.fire_notTurn true hturn)⟩
  case waits =>
    intro slot hnone
    have hturn := Dev.firingTurn_none hnone
    exact ⟨goes_of_run hrun rfl (Dev.fire_notTurn false hturn), goes_of_run hrun rfl (Dev.fire_notTurn true hturn)⟩
  case closes =>
    intro slot p hp hrunning hall
    exact goes_of_run hrun rfl (firingComplete_closes hp hrunning hall)
  case digest =>
    intro slot p k f m hp hunsent dg g
    exact ⟨fun hdown => goes_of_run hrun rfl (digestFinal_alone hp hunsent hdown),
      fun hup => goes_of_run hrun rfl (digestFinal_sends hp hunsent hup)⟩
  case deadline =>
    intro id iters within x hdesc hsolve hruns hdeadline hreached huncut
    exact goes_of_run hrun rfl (prsDeadlineHit_cuts iters within ⟨hdesc, hsolve, hruns, hdeadline, hreached, huncut⟩)

end Sys2Proof
end

section
/-!
PROOFS. Voxel keys (R272): the Morton code of three indices and the fields of a key, each read back from the key.
-/
namespace Sys2Proof.Machine

/-! ## Three numbers interleaved bit by bit -/

/-- The low `k` bits of three numbers, bit i of each at bits 3i, 3i + 1 and 3i + 2 of the result. -/
def interleave3 (k a b c : Nat) : Nat := spread3 k a + 2 * spread3 k b + 4 * spread3 k c

theorem interleave3_succ (k a b c : Nat) :
    interleave3 (k + 1) a b c = a % 2 + 2 * (b % 2) + 4 * (c % 2) + 8 * interleave3 k (a / 2) (b / 2) (c / 2) := by
  simp only [interleave3, spread3]
  omega

theorem interleave3_lt (k a b c : Nat) : interleave3 k a b c < 8 ^ k := by
  induction k generalizing a b c with
  | zero => simp [interleave3, spread3]
  | succ k ih =>
    have hhigh := ih (a / 2) (b / 2) (c / 2)
    rw [interleave3_succ, pow_succ]
    omega

/-- Gathering from bit 0, 1 or 2 reads back the first, second or third number. -/
theorem gather3_interleave3 {k a b c : Nat} (ha : a < 2 ^ k) (hb : b < 2 ^ k) (hc : c < 2 ^ k) :
    gather3 k (interleave3 k a b c) = a ∧ gather3 k (interleave3 k a b c / 2) = b ∧
      gather3 k (interleave3 k a b c / 4) = c := by
  induction k generalizing a b c with
  | zero => simp only [gather3]; omega
  | succ k ih =>
    rw [pow_succ] at ha hb hc
    obtain ⟨hga, hgb, hgc⟩ := ih (a := a / 2) (b := b / 2) (c := c / 2) (by omega) (by omega) (by omega)
    rw [interleave3_succ]
    generalize interleave3 k (a / 2) (b / 2) (c / 2) = n at hga hgb hgc
    have hx : (a % 2 + 2 * (b % 2) + 4 * (c % 2) + 8 * n) / 8 = n := by omega
    have hy : (a % 2 + 2 * (b % 2) + 4 * (c % 2) + 8 * n) / 2 / 8 = n / 2 := by omega
    have hz : (a % 2 + 2 * (b % 2) + 4 * (c % 2) + 8 * n) / 4 / 8 = n / 4 := by omega
    simp only [gather3, hx, hy, hz, hga, hgb, hgc]
    omega

/-! ## The fields of a voxel key -/

theorem vinside_iff {i : Int} : vinside i = true ↔ -262144 ≤ i ∧ i ≤ 262143 := decide_eq_true_iff

/-- An index in range, offset by 2^18, fits 19 bits. -/
theorem offset_lt_of_vinside {i : Int} (h : vinside i = true) : (i + 262144).toNat < 2 ^ 19 := by
  rw [vinside_iff] at h
  omega

theorem offset_sub_of_vinside {i : Int} (h : vinside i = true) : ((i + 262144).toNat : Int) - 262144 = i := by
  rw [vinside_iff] at h
  omega

theorem morton_eq_interleave3 (x y z : Int) :
    morton x y z = interleave3 19 (x + 262144).toNat (y + 262144).toNat (z + 262144).toNat := rfl

theorem morton_lt (x y z : Int) : morton x y z < 2 ^ 57 := interleave3_lt 19 _ _ _

theorem vkey_toNat {kind level : Nat} (x y z : Int) (hkind : kind < 2) (hlevel : level < 16) :
    (vkey kind level x y z).toNat = kind * 2 ^ 62 + level * 2 ^ 58 + morton x y z := by
  have hm := morton_lt x y z
  rw [vkey, BitVec.toNat_ofNat]
  omega

theorem keyKind_vkey {kind level : Nat} (x y z : Int) (hkind : kind < 2) (hlevel : level < 16) :
    keyKind (vkey kind level x y z) = kind := by
  have hm := morton_lt x y z
  rw [keyKind, vkey_toNat x y z hkind hlevel]
  omega

theorem keyLevel_vkey {kind level : Nat} (x y z : Int) (hkind : kind < 2) (hlevel : level < 16) :
    keyLevel (vkey kind level x y z) = level := by
  have hm := morton_lt x y z
  rw [keyLevel, vkey_toNat x y z hkind hlevel]
  omega

theorem vkey_toNat_mod {kind level : Nat} (x y z : Int) (hkind : kind < 2) (hlevel : level < 16) :
    (vkey kind level x y z).toNat % 2 ^ 57 = morton x y z := by
  have hm := morton_lt x y z
  rw [vkey_toNat x y z hkind hlevel]
  omega

theorem unmorton_vkey {kind level : Nat} {x y z : Int} (hkind : kind < 2) (hlevel : level < 16)
    (hx : vinside x = true) (hy : vinside y = true) (hz : vinside z = true) :
    unmorton (vkey kind level x y z) = (x, y, z) := by
  obtain ⟨hgx, hgy, hgz⟩ :=
    gather3_interleave3 (offset_lt_of_vinside hx) (offset_lt_of_vinside hy) (offset_lt_of_vinside hz)
  simp only [unmorton, vkey_toNat_mod x y z hkind hlevel, morton_eq_interleave3, hgx, hgy, hgz,
    offset_sub_of_vinside hx, offset_sub_of_vinside hy, offset_sub_of_vinside hz]

/-- The Morton code ends below bit 57, so a voxel key never has that bit set. -/
theorem badKey_vkey {kind level : Nat} (x y z : Int) (hkind : kind < 2) (hlevel : level < 16) :
    badKey (vkey kind level x y z) = false := by
  have hm := morton_lt x y z
  have hkind3 : kind ≠ 3 := by omega
  have hbit57 : (vkey kind level x y z).toNat / 2 ^ 57 % 2 = 0 := by
    rw [vkey_toNat x y z hkind hlevel]
    omega
  rw [badKey, keyKind_vkey x y z hkind hlevel, hbit57]
  simp [hkind3]

theorem MIdx.levelOf_le (m : MIdx) (r : DW) : m.levelOf r ≤ 7 := Nat.min_le_left _ _

end Sys2Proof.Machine

namespace Sys2Proof

open Machine

/-- Settles O58: gathering undoes the interleaving of the indices, and kind and level lie above the Morton code. -/
theorem voxelKeysRoundTrip : Obligations.VoxelKeysRoundTrip := by
  unfold Obligations.VoxelKeysRoundTrip
  refine ⟨?key, MIdx.levelOf_le⟩
  case key =>
    intro kind level x y z hkind hlevel hx hy hz
    exact ⟨keyKind_vkey x y z hkind hlevel, keyLevel_vkey x y z hkind hlevel, unmorton_vkey hkind hlevel hx hy hz,
      badKey_vkey x y z hkind hlevel⟩

end Sys2Proof
end

section
/-! The device resets (R308, R354, R376, R378, R385, R393): what of a device no command changes, and which commands act at all. -/

namespace Sys2Proof.Machine

/-! ## ROM, board and role -/

/-- Two devices with the same board, the same ROM and the same keys of the vendor. -/
structure SameRom (d e : Dev) : Prop where
  board : e.board = d.board
  rom   : e.vault.romDigest = d.vault.romDigest
  root  : e.vault.rootKey = d.vault.rootKey
  unlock : e.vault.debugKey = d.vault.debugKey

/-- The same role too. -/
structure SameRomAndRole (d e : Dev) : Prop extends SameRom d e where
  verso : e.mir.verso = d.mir.verso

theorem SameRom.trans {d e f : Dev} (h : SameRom d e) (g : SameRom e f) : SameRom d f :=
  ⟨g.board.trans h.board, g.rom.trans h.rom, g.root.trans h.root, g.unlock.trans h.unlock⟩

theorem SameRom.colophon {d e : Dev} (h : SameRom d e) : e.colophon = d.colophon := by rw [Dev.colophon, Dev.colophon, h.board]

theorem SameRomAndRole.refl (d : Dev) : SameRomAndRole d d := ⟨⟨rfl, rfl, rfl, rfl⟩, rfl⟩

theorem SameRomAndRole.trans {d e f : Dev} (h : SameRomAndRole d e) (g : SameRomAndRole e f) : SameRomAndRole d f :=
  ⟨h.toSameRom.trans g.toSameRom, g.verso.trans h.verso⟩

/-- Board, vault and mirror decide ROM, board and role. -/
theorem SameRomAndRole.of_eq {d e : Dev} (hb : e.board = d.board) (hv : e.vault = d.vault) (hm : e.mir = d.mir) : SameRomAndRole d e :=
  ⟨⟨hb, by rw [hv], by rw [hv], by rw [hv]⟩, by rw [hm]⟩

theorem SameRomAndRole.setPwr {d e : Dev} (h : SameRomAndRole d e) (p : Pwr) : SameRomAndRole d { e with pwr := p } :=
  h.trans (.of_eq rfl rfl rfl)

theorem SameRomAndRole.event {d e : Dev} (h : SameRomAndRole d e) (x : Ev) : SameRomAndRole d (e.event x) :=
  h.trans (.of_eq (e.event_board x) (e.event_vault x) (e.event_mir x))

theorem SameRomAndRole.framed (d e : Dev) : SameRomAndRole d (d.framed e) := ⟨⟨rfl, rfl, rfl, rfl⟩, rfl⟩

/-! ## What a reset leaves -/

theorem Dev.wipe_sameRomAndRole (d : Dev) (f : Pwr → Pwr) : SameRomAndRole d (d.wipe f) := ⟨⟨rfl, rfl, rfl, rfl⟩, rfl⟩

theorem Dev.pinsSafe_sameRomAndRole (d : Dev) : SameRomAndRole d d.pinsSafe := by
  unfold Dev.pinsSafe
  induction resetLevels generalizing d with
  | nil => exact .refl d
  | cons p l ih =>
    have hp : SameRomAndRole d (d.emitOut (.pin p.1 p.2)) := .of_eq rfl rfl rfl
    exact hp.trans (ih _)

theorem Dev.setFaultN_sameRomAndRole (d : Dev) (on : Bool) : SameRomAndRole d (d.setFaultN on) := by
  unfold Dev.setFaultN
  split <;> exact .of_eq rfl rfl rfl

theorem Dev.setTherm_sameRomAndRole (d : Dev) (on : Bool) : SameRomAndRole d (d.setTherm on) := by
  unfold Dev.setTherm
  split <;> exact .of_eq rfl rfl rfl

theorem Dev.releasePins_sameRomAndRole (d : Dev) : SameRomAndRole d d.releasePins := by
  unfold Dev.releasePins
  extract_lets cool e
  have he : SameRomAndRole d e := iteInduction (fun _ => d.setTherm_sameRomAndRole false) (fun _ => .refl d)
  exact iteInduction (fun _ => he) (fun _ => he.trans (e.setFaultN_sameRomAndRole false))

theorem Dev.tempStates_sameRomAndRole (d : Dev) (tj : Int) : SameRomAndRole d (d.tempStates tj) := by
  unfold Dev.tempStates
  extract_lets p wc d5 wl hl d1 p1 d2 p2
  have h1 : SameRomAndRole d d1 := .of_eq rfl rfl rfl
  have h2 : SameRomAndRole d d2 := by
    unfold d2
    split
    · exact (h1.setPwr _).event _
    · split
      · exact h1.setPwr _
      · exact h1
  split
  · exact (h2.setPwr _).event _
  · split
    · exact (h2.setPwr _).event _
    · exact h2

/-! ## The commands that may reset the device -/

theorem perstAssert_sameRomAndRole (d : Dev) : SameRomAndRole d (perstAssert d) :=
  ((d.wipe_sameRomAndRole _).trans (Dev.pinsSafe_sameRomAndRole _)).trans (Dev.releasePins_sameRomAndRole _)

theorem railOutOfRange_sameRomAndRole (r mv : Nat) (d : Dev) : SameRomAndRole d (railOutOfRange r mv d) := by
  unfold railOutOfRange
  extract_lets p e
  have he : SameRomAndRole d e := .of_eq rfl rfl rfl
  refine iteInduction (fun _ => he) (fun _ => ?_)
  exact ((he.trans (e.wipe_sameRomAndRole _)).trans (Dev.pinsSafe_sameRomAndRole _)).trans (Dev.setFaultN_sameRomAndRole _ true)

theorem railRecovered_sameRomAndRole (d : Dev) : SameRomAndRole d (railRecovered d) := by
  unfold railRecovered
  refine iteInduction (fun _ => .refl d) (fun _ => ?_)
  extract_lets p e
  have he : SameRomAndRole d e := .of_eq rfl rfl rfl
  exact iteInduction (fun _ => he) (fun _ => he.trans (e.setFaultN_sameRomAndRole false))

theorem tempSample_sameRomAndRole (c s i : BitVec 16) (d : Dev) : SameRomAndRole d (tempSample c s i d) := by
  unfold tempSample
  extract_lets t tj alive p e
  have he : SameRomAndRole d e := .of_eq rfl rfl rfl
  refine iteInduction (fun _ => iteInduction (fun _ => he.trans e.releasePins_sameRomAndRole) (fun _ => he)) (fun _ => ?_)
  refine iteInduction (fun _ => ?trip) (fun _ => iteInduction (fun _ => he.trans (e.tempStates_sameRomAndRole tj)) (fun _ => he))
  case trip =>
    exact (((he.trans (e.wipe_sameRomAndRole _)).trans (Dev.pinsSafe_sameRomAndRole _)).trans (Dev.setFaultN_sameRomAndRole _ true)).trans
      (Dev.setTherm_sameRomAndRole _ true)

/-! ## Boot (R356–R359, R365) -/

/-- No copy of the state record is correct. -/
def Vault.lost (v : Vault) : Bool := v.stateA.isNone && v.stateB.isNone

/-- The vault a boot starts from before it counts itself: a state record with no correct copy starts afresh. -/
def Vault.found (v : Vault) (free : Nat) : Vault :=
  if v.stateA.isSome ∨ v.stateB.isSome then v
  else { v with stateA := some { v.record with rollback := dwN (Config.freeValue free).toNat, bootCnt := dwN (Config.freeValue (free + 1)).toNat } }

theorem Vault.boot_eq (v : Vault) (free : Nat) :
    v.boot free = { (v.found free).update (fun r => { r with bootCnt := r.bootCnt + 1 }) with owner := v.installed } := rfl

theorem Vault.found_of_kept (v : Vault) (free : Nat) (h : v.lost = false) : v.found free = v := by
  have hsome : v.stateA.isSome ∨ v.stateB.isSome := by
    unfold Vault.lost at h
    cases hA : v.stateA <;> cases hB : v.stateB <;> simp_all
  exact if_pos hsome

section
variable (v : Vault) (free : Nat)

theorem Vault.found_frame : ∃ a, v.found free = { v with stateA := a } := by
  unfold Vault.found
  split
  · exact ⟨v.stateA, rfl⟩
  · exact ⟨_, rfl⟩

@[simp] theorem Vault.boot_owner : (v.boot free).owner = v.installed := rfl

@[simp] theorem Vault.boot_romDigest : (v.boot free).romDigest = v.romDigest := by
  obtain ⟨a, ha⟩ := v.found_frame free
  simp [Vault.boot_eq, ha]

@[simp] theorem Vault.boot_rootKey : (v.boot free).rootKey = v.rootKey := by
  obtain ⟨a, ha⟩ := v.found_frame free
  simp [Vault.boot_eq, ha]

@[simp] theorem Vault.boot_debugKey : (v.boot free).debugKey = v.debugKey := by
  obtain ⟨a, ha⟩ := v.found_frame free
  simp [Vault.boot_eq, ha]

@[simp] theorem Vault.boot_vendorOk : (v.boot free).vendorOk = v.vendorOk := by
  obtain ⟨a, ha⟩ := v.found_frame free
  simp [Vault.boot_eq, ha]

@[simp] theorem Vault.boot_slot (b : Bool) : (v.boot free).slot b = v.slot b := by
  obtain ⟨a, ha⟩ := v.found_frame free
  simp [Vault.boot_eq, ha, Vault.slot]

end

/-- The first copy is in force when the second is not newer. -/
theorem Vault.record_eq_stateA {v : Vault} {a : StateRec} (hA : v.stateA = some a) (h : ∀ b, v.stateB = some b → b.seq.toNat ≤ a.seq.toNat) :
    v.record = a := by
  cases hB : v.stateB with
  | none => simp [Vault.record, hA, hB]
  | some b => simp [Vault.record, hA, hB, Nat.not_lt.2 (h b hB)]

/-- The second copy is in force when it is newer than the first. -/
theorem Vault.record_eq_stateB {v : Vault} {b : StateRec} (hB : v.stateB = some b) (h : ∀ a, v.stateA = some a → a.seq.toNat < b.seq.toNat) :
    v.record = b := by
  cases hA : v.stateA with
  | none => simp [Vault.record, hA, hB]
  | some a => simp [Vault.record, hA, hB, h a hA]

/-- No second copy is newer than the record in force. -/
theorem Vault.seq_le_record {v : Vault} {b : StateRec} (hB : v.stateB = some b) : b.seq.toNat ≤ v.record.seq.toNat := by
  cases hA : v.stateA with
  | none => simp [Vault.record, hA, hB]
  | some a =>
    simp only [Vault.record, hA, hB]
    split <;> omega

/-- An update is written over the copy that is not in force, with the next SEQ, and so is in force (R359). -/
theorem Vault.record_update (v : Vault) (f : StateRec → StateRec) (hseq : v.record.seq.toNat + 1 < 2 ^ 32) :
    (v.update f).record = { f v.record with seq := v.record.seq + 1 } := by
  have hnext : (v.record.seq + 1).toNat = v.record.seq.toNat + 1 := by
    rw [BitVec.toNat_add]
    exact Nat.mod_eq_of_lt hseq
  have hnewer : v.record.seq.toNat < (v.record.seq + 1).toNat := by omega
  rw [Vault.update]
  dsimp only
  split
  case isTrue hA =>
    refine Vault.record_eq_stateB rfl (fun a ha => ?_)
    cases hA.symm.trans ha
    exact hnewer
  case isFalse => exact Vault.record_eq_stateA rfl (fun b hB => (Vault.seq_le_record (v := v) hB).trans hnewer.le)

theorem Vault.boot_record (v : Vault) (free : Nat) (h : v.lost = false) (hseq : v.record.seq.toNat + 1 < 2 ^ 32) :
    (v.boot free).record = { v.record with seq := v.record.seq + 1, bootCnt := v.bootCnt + 1 } := by
  rw [Vault.boot_eq, v.found_of_kept free h]
  exact v.record_update _ hseq

/-- The device a boot starts from, before it has decided what runs. -/
def Dev.bootBase (d : Dev) (verso : Bool) : Dev :=
  Dev.fresh d.board Pcie.reset (d.vault.boot d.free) { Sec.reset [] 0 with idOk := (d.vault.boot d.free).vendorOk }
    { d.pwr with perst := false, off := false, faultN := false, tjMax := 0 } verso d.host (d.free + 2) d.out

/-- The image in a slot started, with its four entries in the measurement log (R365). -/
def Dev.bootStart (d : Dev) (verso slot fallback : Bool) : Dev :=
  let v := d.vault.boot d.free
  let e := d.bootBase verso
  let sec := e.sec.bootLog [v.romDigest, v.vendorDigest, (v.owner.map (·.digest)).getD 0, fwMeas (v.slot slot)]
  { e with sec := { sec with
    slotB := slot, fallback := fallback, fbEvent := fallback, runSvn := fwSvn (v.slot slot), meas := fwMeas (v.slot slot) } }.pmbus 0x20 none

/-- Firmware that does not run: recovery, with FAULT_N (R357). -/
def Dev.bootRecovery (d : Dev) (verso : Bool) : Dev :=
  let e := d.bootBase verso
  { e with sec := { e.sec with recovery := true, rrs := true } }.setFaultN true

/-- No vendor record: no firmware at all, with FAULT_N (R358). -/
def Dev.bootDead (d : Dev) (verso : Bool) : Dev :=
  let e := d.bootBase verso
  { e with sec := { e.sec with dead := true, rrs := true } }.setFaultN true

/-- The image in a slot passes the checks of a boot. -/
def Dev.bootOk (d : Dev) (slot : Bool) : Prop := fwBad (d.vault.boot d.free) d.board.variant (d.vault.slot slot) = none

theorem Dev.boot_eq (d : Dev) (verso : Bool) :
    d.boot verso =
      let p := (d.vault.boot d.free).preferred
      let ok (slot : Bool) : Bool := (fwBad (d.vault.boot d.free) d.board.variant ((d.vault.boot d.free).slot slot)).isNone
      if !(d.vault.boot d.free).vendorOk then d.bootDead verso
      else if d.vault.lost then d.bootRecovery verso
      else if ok p then d.bootStart verso p false
      else if ok !p then d.bootStart verso (!p) true
      else d.bootRecovery verso :=
  rfl

section
variable {d : Dev} (verso : Bool)

theorem Dev.boot_dead (hv : d.vault.vendorOk = false) : d.boot verso = d.bootDead verso := by
  simp [Dev.boot_eq, hv]

section
variable (hv : d.vault.vendorOk = true)
include hv

theorem Dev.boot_lost (hl : d.vault.lost = true) : d.boot verso = d.bootRecovery verso := by
  simp [Dev.boot_eq, hv, hl]

variable (hl : d.vault.lost = false)
include hl

theorem Dev.boot_preferred (h : d.bootOk (d.vault.boot d.free).preferred) :
    d.boot verso = d.bootStart verso (d.vault.boot d.free).preferred false := by
  rw [Dev.bootOk] at h
  simp [Dev.boot_eq, hv, hl, h]

variable (hp : ¬ d.bootOk (d.vault.boot d.free).preferred)
include hp

theorem Dev.boot_fallback (h : d.bootOk (!(d.vault.boot d.free).preferred)) :
    d.boot verso = d.bootStart verso (!(d.vault.boot d.free).preferred) true := by
  rw [Dev.bootOk] at h hp
  simp [Dev.boot_eq, hv, hl, hp, h]

theorem Dev.boot_neither (h : ¬ d.bootOk (!(d.vault.boot d.free).preferred)) : d.boot verso = d.bootRecovery verso := by
  rw [Dev.bootOk] at h hp
  simp [Dev.boot_eq, hv, hl, hp, h]

end

end

@[simp] theorem Dev.setFaultN_sec (d : Dev) (on : Bool) : (d.setFaultN on).sec = d.sec := by
  unfold Dev.setFaultN
  split <;> rfl

@[simp] theorem Dev.setFaultN_faultN (d : Dev) (on : Bool) : (d.setFaultN on).pwr.faultN = on := by
  unfold Dev.setFaultN
  split
  · assumption
  · rfl

theorem Dev.bootStart_sec (d : Dev) (verso slot fallback : Bool) :
    let s := (d.bootStart verso slot fallback).sec
    s.dead = false ∧ s.recovery = false ∧ s.slotB = slot ∧ s.fallback = fallback ∧ s.log.length = 4 ∧ s.meas = fwMeas (d.vault.slot slot) := by
  refine ⟨rfl, rfl, rfl, rfl, rfl, ?_⟩
  rw [← d.vault.boot_slot d.free]
  rfl

theorem Dev.bootRecovery_state (d : Dev) (verso : Bool) :
    (d.bootRecovery verso).sec.recovery = true ∧ (d.bootRecovery verso).sec.rrs = true ∧ (d.bootRecovery verso).pwr.faultN = true ∧
      (d.bootRecovery verso).sec.log = [] := by
  simp [Dev.bootRecovery, Dev.bootBase, Dev.fresh, Sec.reset]

theorem Dev.bootDead_state (d : Dev) (verso : Bool) :
    (d.bootDead verso).sec.dead = true ∧ (d.bootDead verso).pwr.faultN = true ∧ (d.bootDead verso).sec.log = [] := by
  simp [Dev.bootDead, Dev.bootBase, Dev.fresh, Sec.reset]

/-- A fresh device with the vault of the boot and the role sampled. -/
def Dev.Booted (d : Dev) (verso : Bool) (e : Dev) : Prop :=
  ∃ sec pwr out, e = Dev.fresh d.board Pcie.reset (d.vault.boot d.free) sec pwr verso d.host (d.free + 2) out

theorem Dev.Booted.setFaultN {d e : Dev} {verso : Bool} (h : d.Booted verso e) (on : Bool) : d.Booted verso (e.setFaultN on) := by
  obtain ⟨sec, pwr, out, rfl⟩ := h
  unfold Dev.setFaultN
  split <;> exact ⟨_, _, _, rfl⟩

/-- Whatever a boot decides, it leaves a fresh device. -/
theorem Dev.boot_booted (d : Dev) (verso : Bool) : d.Booted verso (d.boot verso) := by
  have hdead : d.Booted verso (d.bootDead verso) := Dev.Booted.setFaultN ⟨_, _, _, rfl⟩ true
  have hrecovery : d.Booted verso (d.bootRecovery verso) := Dev.Booted.setFaultN ⟨_, _, _, rfl⟩ true
  have hstart (slot fallback : Bool) : d.Booted verso (d.bootStart verso slot fallback) := ⟨_, _, _, rfl⟩
  rw [d.boot_eq verso]
  refine iteInduction (fun _ => hdead) (fun _ => iteInduction (fun _ => hrecovery) (fun _ => ?_))
  exact iteInduction (fun _ => hstart _ _) (fun _ => iteInduction (fun _ => hstart _ _) (fun _ => hrecovery))

section
variable (d : Dev) (verso : Bool)

theorem Dev.boot_vault : (d.boot verso).vault = d.vault.boot d.free := by
  obtain ⟨sec, pwr, out, h⟩ := d.boot_booted verso
  rw [h]
  rfl

theorem Dev.boot_verso : (d.boot verso).mir.verso = verso := by
  obtain ⟨sec, pwr, out, h⟩ := d.boot_booted verso
  rw [h]
  rfl

theorem Dev.boot_locked : (d.boot verso).locked = false := by
  obtain ⟨sec, pwr, out, h⟩ := d.boot_booted verso
  rw [h]
  rfl

theorem Dev.boot_sameRom : SameRom d (d.boot verso) := by
  obtain ⟨sec, pwr, out, h⟩ := d.boot_booted verso
  rw [h]
  exact ⟨rfl, d.vault.boot_romDigest _, d.vault.boot_rootKey _, d.vault.boot_debugKey _⟩

end

theorem perstDeassert_sameRom (verso : Bool) (d : Dev) : SameRom d (perstDeassert verso d) :=
  iteInduction (fun _ => (SameRomAndRole.refl d).toSameRom) (fun _ =>
    iteInduction (fun _ => ((SameRomAndRole.refl d).setPwr _).toSameRom) (fun _ => d.boot_sameRom verso))

/-! ## Every command -/

/-- No command but a deassertion of PERST_N touches role, ROM or board. -/
theorem exec_sameRomAndRole (i : Instr) (s : State) (h : ∀ v, i ≠ .perstDeassert v) : IfNext (fun t => SameRomAndRole s.dev t.dev) (exec i s) := by
  cases hr : i.resets with
  | false =>
    have ho := exec_outcomes i s
    generalize exec i s = o at ho ⊢
    have hk {t : State} (hk : Keeps s t) : SameRomAndRole s.dev t.dev := ⟨⟨hk.board, hk.rom, hk.root, hk.debug⟩, hk.verso⟩
    cases ho with
    | run f => obtain ⟨t, ht, ht_keeps, -⟩ := s.run_next f; rw [ht]; exact hk ht_keeps
    | alive f => obtain ⟨t, ht, ht_keeps, -⟩ := s.runAlive_next f; rw [ht]; exact hk ht_keeps
    | setup f _ => obtain ⟨t, ht, ht_keeps, -⟩ := s.runSetup_next f; rw [ht]; exact hk ht_keeps
    | raw f hraw => simp [hr] at hraw
    | stop _ => trivial
  | true =>
    unfold Instr.resets at hr
    split at hr
    case h_1 => exact perstAssert_sameRomAndRole s.dev
    case h_2 v => exact absurd rfl (h v)
    case h_3 r mv =>
      show IfNext _ (execRailOutOfRange r mv s)
      unfold execRailOutOfRange
      split
      · trivial
      · exact railOutOfRange_sameRomAndRole r.val mv s.dev
    case h_4 => exact railRecovered_sameRomAndRole s.dev
    case h_5 c m o => exact tempSample_sameRomAndRole c m o s.dev
    case h_6 => exact absurd hr Bool.false_ne_true

theorem exec_sameRom (i : Instr) (s : State) : IfNext (fun t => SameRom s.dev t.dev) (exec i s) := by
  by_cases h : ∃ v, i = .perstDeassert v
  · obtain ⟨v, rfl⟩ := h
    exact perstDeassert_sameRom v s.dev
  · exact (exec_sameRomAndRole i s (fun v hv => h ⟨v, hv⟩)).mono (fun _ => SameRomAndRole.toSameRom)

theorem State.tick_sameRom (s : State) : SameRom s.dev s.tick.dev := by
  unfold State.tick
  split
  · exact (SameRomAndRole.refl _).toSameRom
  · exact (SameRomAndRole.framed _ _).toSameRom

/-- Bit 0 of MIR_STATUS is the role; the other fields lie above it. -/
theorem Dev.roRest_role (d : Dev) : bitOf (d.roRest 0x1400C) 0 = d.mir.verso := by
  have hstatus : d.roRest 0x1400C = dwN (b2n d.mir.verso + d.mir.state * 2 + d.mir.reason * 16 +
      d.pairedLinks.foldl (fun n m => n + 2 ^ m) 0 * 2 ^ 8 + b2n d.mir.configDiff * 2 ^ 10) := rfl
  rw [hstatus]
  generalize d.pairedLinks.foldl (fun n m => n + 2 ^ m) 0 = links
  have hbit : bitOf (dwN (b2n d.mir.verso + d.mir.state * 2 + d.mir.reason * 16 + links * 2 ^ 8 + b2n d.mir.configDiff * 2 ^ 10)) 0 =
      decide (b2n d.mir.verso % 2 = 1) := by
    simp only [bitOf, dwN, BitVec.toNat_ofNat, decide_eq_decide]
    omega
  rw [hbit]
  cases d.mir.verso <;> rfl

/-! ## Commands of a device held in reset (R376, R378) -/

theorem overstress_resets {i : Instr} (h : Overstress i) : i.resets = true := by
  unfold Overstress at h
  split at h
  · rfl
  · exact h.elim

theorem Dev.not_running_of_not_alive {d : Dev} (h : d.alive = false) : d.running = false := by simp [Dev.running, h]

theorem exec_of_not_alive (i : Instr) (s : State) (h : s.dev.alive = false) (hr : i.resets = false) : exec i s = .next s := by
  have ho := exec_outcomes i s
  generalize exec i s = o at ho ⊢
  have hrun : s.dev.running = false := Dev.not_running_of_not_alive h
  cases ho with
  | run f => obtain ⟨t, ht, -, -, -, hsame⟩ := s.run_next f; rw [ht, hsame hrun]
  | alive f => obtain ⟨t, ht, -, -, -, hsame⟩ := s.runAlive_next f; rw [ht, hsame h]
  | setup f _ => obtain ⟨t, ht, -, -, hsame⟩ := s.runSetup_next f; rw [ht, hsame hrun]
  | raw f hraw => simp [hr] at hraw
  | stop hstop => simp [overstress_resets hstop] at hr

theorem exec_overstress {i : Instr} (s : State) (h : Overstress i) : exec i s = .fault .overstress := by
  unfold Overstress at h
  split at h
  · exact if_pos h
  · exact h.elim

theorem exec_pending (i : Instr) (s : State) : IfNext (fun t => t.pending = s.pending) (exec i s) := by
  have ho := exec_outcomes i s
  generalize exec i s = o at ho ⊢
  cases ho with
  | run f => obtain ⟨t, ht, hk, -⟩ := s.run_next f; rw [ht]; exact hk.pending
  | alive f => obtain ⟨t, ht, hk, -⟩ := s.runAlive_next f; rw [ht]; exact hk.pending
  | setup f _ => obtain ⟨t, ht, hk, -⟩ := s.runSetup_next f; rw [ht]; exact hk.pending
  | raw f _ => rfl
  | stop _ => trivial

theorem exec_next (i : Instr) (s : State) (h : ¬ Overstress i) : NextWith (fun _ => True) (exec i s) := by
  have ho := exec_outcomes i s
  generalize exec i s = o at ho ⊢
  cases ho with
  | run f => trivial
  | alive f => trivial
  | setup f _ => trivial
  | raw f _ => trivial
  | stop hstop => exact h hstop

end Sys2Proof.Machine

namespace Sys2Proof

open Machine

/-- Settles O7: only a deassertion of PERST_N boots, and every other command is framed or a reset that keeps the role. -/
theorem roleHoldsUntilPerst : Obligations.RoleHoldsUntilPerst := by
  unfold Obligations.RoleHoldsUntilPerst
  refine ⟨?sampled, fun i s h => (exec_sameRomAndRole i s h).mono (fun _ => SameRomAndRole.verso), Dev.roRest_role⟩
  case sampled =>
    intro v s hperst hrails hbrown htherm
    have hboot : perstDeassert v s.dev = s.dev.boot v := by simp [perstDeassert, hperst, hrails, hbrown, htherm]
    show (perstDeassert v s.dev).mir.verso = v
    rw [hboot, Dev.boot_verso]

/-- Settles O8: ROM, keys of the vendor and board outlive every command and every idle step. -/
theorem romAndBoardNeverChange : Obligations.RomAndBoardNeverChange := by
  unfold Obligations.RomAndBoardNeverChange
  intro s
  have hstep : IfNext (fun t => SameRom s.dev t.dev) (step s) := by
    unfold step
    split
    · exact s.tick_sameRom
    · next c rest _ => exact exec_sameRom c { s with pending := rest }
  exact hstep.mono (fun _ h => ⟨h.rom, h.root, h.unlock, h.board, h.colophon⟩)

/-- Settles O1: what `step` does with a queue that is not empty. -/
theorem stepRunsFrontCommand : Obligations.StepRunsFrontCommand := by
  unfold Obligations.StepRunsFrontCommand
  intro c rest s h
  rw [step, h]

/-- Settles O4: the reset state lists neither a setup word nor a byte of host memory. -/
theorem resetIsCanonical : Obligations.ResetIsCanonical := ⟨.of_setup_nil rfl, rfl⟩

/-- Settles O10: every kind of outcome leaves the queue. -/
theorem queueUntouched : Obligations.QueueUntouched := exec_pending

/-- Settles O11: a device held in reset acts on no command that is not a reset. -/
theorem heldInResetNothingRuns : Obligations.HeldInResetNothingRuns := exec_of_not_alive

/-- Settles O9: the stop is the one of a rail beyond its absolute maximum. -/
theorem onlyOverstressStops : Obligations.OnlyOverstressStops := fun i s => ⟨exec_overstress s, exec_next i s⟩

/-- Settles O53: a boot decides by the vendor record, the state record and the images in the slots; what it decides leaves a fresh device. -/
theorem bootChoosesTheSlot : Obligations.BootChoosesTheSlot := by
  unfold Obligations.BootChoosesTheSlot
  intro d v e w ok lost
  have hw : w = d.vault.boot d.free := d.boot_vault v
  have hlost : lost ↔ d.vault.lost = true := by simp [lost, Vault.lost]
  have hkept : ¬ lost ↔ d.vault.lost = false := by rw [hlost, Bool.not_eq_true]
  have hok (slot : Bool) : ok slot ↔ d.bootOk slot := by rw [Dev.bootOk, ← hw]
  refine ⟨d.boot_verso v, by rw [hw, Vault.boot_owner], d.boot_locked v, d.boot_setup v, ?record, ?dead, ?lost, ?preferred, ?fallback,
    ?neither⟩
  case record =>
    intro hl hseq
    rw [hw, d.vault.boot_record d.free (hkept.1 hl) hseq]
  case dead =>
    intro hv
    rw [show e = d.bootDead v from Dev.boot_dead v hv]
    exact d.bootDead_state v
  case lost =>
    intro hv hl
    rw [show e = d.bootRecovery v from Dev.boot_lost v hv (hlost.1 hl)]
    exact d.bootRecovery_state v
  case preferred =>
    intro hv hl hp
    rw [hok, hw] at hp
    rw [show e = d.bootStart v _ false from Dev.boot_preferred v hv (hkept.1 hl) hp, hw]
    exact d.bootStart_sec v _ _
  case fallback =>
    intro hv hl hp ho
    rw [hok, hw] at hp ho
    obtain ⟨-, hrec, hslot, hfb, hlog, -⟩ := d.bootStart_sec v (!(d.vault.boot d.free).preferred) true
    rw [show e = d.bootStart v _ true from Dev.boot_fallback v hv (hkept.1 hl) hp ho, hw]
    exact ⟨hrec, hslot, hfb, hlog⟩
  case neither =>
    intro hv hl hp ho
    rw [hok, hw] at hp ho
    rw [show e = d.bootRecovery v from Dev.boot_neither v hv (hkept.1 hl) hp ho]
    exact d.bootRecovery_state v

end Sys2Proof
end

section
/-! Resets, rails, the governor and the temperatures (R356–R358, R375, R376, R378, R380–R387): what each event does. -/

namespace Sys2Proof.Machine

/-- A pin or rail acts in every state of the device. -/
theorem exec_of_runRaw {i : Instr} {s : State} {f : Dev → Dev} {e : Dev} (hx : exec i s = s.runRaw f) (he : f s.dev = e) :
    exec i s = .next { s with dev := e } := by
  rw [hx, State.runRaw, he]

/-! ## PERST_N (R376, R378, R385) -/

theorem Dev.releasePins_eq (d : Dev) :
    let cool : Bool := d.pwr.temps.toList.all (fun t => decide (t < 110 * 16))
    let g := if cool then d.setTherm false else d
    d.releasePins = if g.pwr.brown = true ∨ g.pwr.therm = true then g else g.setFaultN false := by
  unfold Dev.releasePins
  simp only [Bool.decide_eq_true]

section
variable {d : Dev} (verso : Bool)

theorem perstDeassert_boots (hp : d.pwr.perst = true) (hr : d.railsIn = true) (hb : d.pwr.brown = false) (ht : d.pwr.therm = false) :
    perstDeassert verso d = d.boot verso := by
  simp [perstDeassert, hp, hr, hb, ht]

theorem perstDeassert_held (hp : d.pwr.perst = true) (h : d.railsIn = false ∨ d.pwr.brown = true ∨ d.pwr.therm = true) :
    perstDeassert verso d = { d with pwr := { d.pwr with perst := false, off := true } } := by
  simp [perstDeassert, hp, h]

theorem perstDeassert_ignored (hp : d.pwr.perst = false) : perstDeassert verso d = d := by simp [perstDeassert, hp]

end

/-! ## Rails (R375, R376) -/

theorem execRail_within (r : Fin 9) {mv : Nat} (s : State) (h : mv ≤ railMax r.val) :
    exec (.railOutOfRange r mv) s = s.runRaw (railOutOfRange r.val mv) :=
  if_neg (Nat.not_lt.2 h)

theorem railOutOfRange_taken {r mv : Nat} {d : Dev} (h : railIn d.pwr.setMv r mv = true ∨ d.alive = false) :
    railOutOfRange r mv d = { d with pwr := { d.pwr with rails := d.pwr.rails.setIfInBounds r mv } } :=
  if_pos (h.imp_right (by simp [·]))

theorem railOutOfRange_resets {r mv : Nat} {d : Dev} (hout : railIn d.pwr.setMv r mv = false) (halive : d.alive = true) :
    let e := { d with pwr := { d.pwr with rails := d.pwr.rails.setIfInBounds r mv } }
    railOutOfRange r mv d = ((e.wipe (fun p => { p with off := true, brown := true })).pinsSafe).setFaultN true :=
  if_neg (by simp [hout, halive])

theorem railRecovered_alive {d : Dev} (h : d.alive = true) : railRecovered d = d := if_pos h

theorem railRecovered_held {d : Dev} (h : d.alive = false) :
    let e := { d with pwr := { d.pwr with rails := Pwr.reset.rails, brown := false } }
    railRecovered d = if d.pwr.therm = true then e else e.setFaultN false :=
  if_neg (by simp [h])

/-! ## The end of RRS (R357) -/

theorem recoveryRrsEnd_due {d : Dev} (hrec : d.sec.recovery = true) (hrrs : d.sec.rrs = true) (hdue : d.sec.bootAt + 10 ^ 9 ≤ d.now) :
    recoveryRrsEnd d = { d with sec := { d.sec with rrs := false } } :=
  if_pos ⟨hrec, hrrs, hdue⟩

theorem recoveryRrsEnd_early {d : Dev} (h : d.now < d.sec.bootAt + 10 ^ 9) : recoveryRrsEnd d = d :=
  if_neg (fun hdue => absurd hdue.2.2 (Nat.not_le.2 h))

/-! ## The governor (R380, R381) -/

section
variable {d : Dev}

/-- A step that is acknowledged is taken; at 0.72 V and above a waiting SCH_ARM is released. -/
theorem governorStep_taken (hf : d.pwr.pmbFault = false) (hs : d.govSettled = true) (ht : d.pwr.setMv ≠ d.govTarget) :
    let mv := govNext d.pwr.setMv d.govTarget
    let e := d.pmbus 0x21 (some (voutWord mv))
    let g := { e.pmbOk with pwr := { e.pmbOk.pwr with setMv := mv, stepAt := d.now, rails := d.pwr.rails.setIfInBounds 0 mv } }
    governorStep true d = if 720 ≤ mv then g.releaseArms.settle else g :=
  if_neg (by simp [hf, hs, ht])

theorem governorStep_failed (hf : d.pwr.pmbFault = false) (hs : d.govSettled = true) (ht : d.pwr.setMv ≠ d.govTarget) :
    let e := d.pmbus 0x21 (some (voutWord (govNext d.pwr.setMv d.govTarget)))
    governorStep false d = (e.pmbFail).releaseArms.settle :=
  if_neg (by simp [hf, hs, ht])

/-- READ_VOUT is kept; a voltage too low for an armed plan is reported as it falls. -/
theorem pmbVoutPoll_kept {w : BitVec 16} (h : 710 ≤ w.toNat ∨ d.planArmed = false) :
    let e := d.pmbus 0x8B none
    pmbVoutPoll (some w) d = { e.pmbOk with pwr := { e.pmbOk.pwr with measMv := w.toNat, lowVout := false } } := by
  have hlow : (decide (w.toNat < 710) && d.planArmed) = false := by
    obtain h | h := h
    · simp [Nat.not_lt.2 h]
    · simp [h]
  exact (if_neg (fun hc => absurd (hlow.symm.trans hc.1) (by decide))).trans (by rw [← hlow]; rfl)

theorem pmbVoutPoll_falls {w : BitVec 16} (h : w.toNat < 710) (hp : d.planArmed = true) (hl : d.pwr.lowVout = false) :
    let e := d.pmbus 0x8B none
    pmbVoutPoll (some w) d = ({ e.pmbOk with pwr := { e.pmbOk.pwr with measMv := w.toNat, lowVout := true } } : Dev).event
      { code := 0xEB, d4 := 1, d5 := dwN d.pwr.status.toNat } := by
  have hlow : (decide (w.toNat < 710) && d.planArmed) = true := by simp [h, hp]
  have hfell : ¬ d.pwr.lowVout = true := by simp [hl]
  exact (if_pos ⟨hlow, hfell⟩).trans (by rw [← hlow]; rfl)

/-! ## The power limit (R382) -/

theorem powerLimitTick_lowers {c p i : DW} :
    let e := ({ d with pwr := { d.pwr with mw := #v[c, p, i] } } : Dev).setCap d.capNow
    d.limitMw < c.toNat → e.capFloor < e.pwr.cap →
      powerLimitTick c p i d =
        (({ e with pwr := { e.pwr with underMs := 0 } } : Dev).setCap (Nat.max e.capFloor (e.pwr.cap - 25))).count cPwrThrottle := by
  intro e hover hfloor
  exact (if_pos hover).trans (if_pos hfloor)

/-- Between 90 % of the limit and the limit the cap stays. -/
theorem powerLimitTick_holds {c p i : DW} :
    let e := ({ d with pwr := { d.pwr with mw := #v[c, p, i] } } : Dev).setCap d.capNow
    c.toNat ≤ d.limitMw → d.limitMw * 9 < c.toNat * 10 →
      powerLimitTick c p i d = { e with pwr := { e.pwr with limit := false, underMs := 0 } } := by
  intro e hin hnear
  exact (if_neg (Nat.not_lt.2 hin)).trans (if_neg (Nat.not_le.2 hnear))

/-! ## Ramps (R383) -/

section
variable {q : Nat} (up : Bool) (hq : partPresent d.board.variant q = true) (hr : d.rampTick.pwr.ramps.any (fun r => r.1 == q) = false)
  (hw : d.rampTick.pwr.rampQ.any (fun r => r.1 == q) = false)

include hr in
theorem Dev.rampTick_not_running : (d.rampTick.pwr.ramps.any (fun r => r.1 == q && r.2.2 == up)) = false := by
  rw [List.any_eq_false] at hr ⊢
  intro r hmem
  simp [hr r hmem]

include hw in
theorem Dev.rampTick_not_waiting : (d.rampTick.pwr.rampQ.any (fun r => r.1 == q && r.2.2 == up)) = false := by
  rw [List.any_eq_false] at hw ⊢
  intro r hmem
  simp [hw r hmem]

include hq hr hw

/-- A quire that neither ramps nor waits takes a free slot when none waits before it. -/
theorem quireRamp_starts (hfree : d.rampTick.pwr.ramps.length < 3) (hnone : d.rampTick.pwr.rampQ = []) :
    let e := d.rampTick
    quireRamp q up d = { e with pwr := { e.pwr with ramps := e.pwr.ramps ++ [(q, e.now, up)] } } := by
  have hnew := Dev.rampTick_not_running up hr
  have hnowait := Dev.rampTick_not_waiting up hw
  have hboard : d.rampTick.board = d.board := rfl
  refine (if_neg ?_).trans (if_pos ⟨hfree, by simp [hnone], by simp [hr]⟩)
  simp [hboard, hq, hnew, hnowait]

theorem quireRamp_waits (hfull : 3 ≤ d.rampTick.pwr.ramps.length) :
    let e := d.rampTick
    quireRamp q up d =
      ({ e with pwr := { e.pwr with rampQ := insertBy rampLe (q, e.now, up) e.pwr.rampQ } } : Dev).count cPwrRampWait := by
  have hnew := Dev.rampTick_not_running up hr
  have hnowait := Dev.rampTick_not_waiting up hw
  have hboard : d.rampTick.board = d.board := rfl
  refine (if_neg ?_).trans (if_neg (fun h => absurd h.1 (Nat.not_lt.2 hfull)))
  simp [hboard, hq, hnew, hnowait]

end

/-! ## Temperatures (R384, R385) -/

theorem tempSample_trips {c p i : BitVec 16} (halive : d.alive = true) :
    let tj := max (max c.toInt p.toInt) i.toInt
    let e := { d with pwr := { d.pwr with temps := #v[c.toInt, p.toInt, i.toInt], tjMax := max d.pwr.tjMax tj } }
    125 * 16 ≤ tj →
      tempSample c p i d = (((e.wipe (fun p => { p with off := true })).pinsSafe).setFaultN true).setTherm true := by
  intro tj e hhot
  exact (if_neg (by simp [halive])).trans (if_pos hhot)

theorem tempSample_states {c p i : BitVec 16} (hrun : d.running = true) :
    let tj := max (max c.toInt p.toInt) i.toInt
    let e := { d with pwr := { d.pwr with temps := #v[c.toInt, p.toInt, i.toInt], tjMax := max d.pwr.tjMax tj } }
    tj < 125 * 16 → tempSample c p i d = e.tempStates tj := by
  intro tj e hcool
  have hrun_e : e.running = true := hrun
  exact (if_neg (by simp [d.alive_of_running hrun])).trans ((if_neg (not_le.2 hcool)).trans (if_pos hrun_e))

/-! ## Trigger shorts (R387) -/

theorem pwrTrigShort_new {n : Nat} (h : d.pwr.short.contains n = false) :
    let e := { d with pwr := { d.pwr with short := insertBy (fun a b => decide (a ≤ b)) n d.pwr.short } }
    pwrTrigShort n d = (e.setOwn 0x18090 (e.own 0x18090 ||| dwN (2 ^ (16 + n)))).event { code := 0xEC, d4 := dwN n } :=
  if_neg (by simpa using h)

theorem pwrTrigShort_known {n : Nat} (h : d.pwr.short.contains n = true) : pwrTrigShort n d = d := if_pos h

end

/-! ## Bounds of the governor (R381, R382, R384) -/

theorem govNext_bounds (a b : Nat) :
    let n := govNext a b
    n ≤ a + 10 ∧ a ≤ n + 10 ∧ (a ≤ b → a ≤ n ∧ n ≤ b) ∧ (b ≤ a → b ≤ n ∧ n ≤ a) ∧ (a ≤ b + 10 → b ≤ a + 10 → n = b) := by
  simp only [govNext, Nat.min_eq_min, Nat.max_eq_max]
  split <;> omega

theorem Dev.planArmed_iff (d : Dev) : d.planArmed = true ↔ d.plans ≠ [] := by simp [Dev.planArmed]

theorem Dev.govTarget_cases (d : Dev) :
    let t := d.govTarget
    (t = 660 ∨ t = 720 ∨ t = 820) ∧ (t = 660 → d.plans = [] ∧ d.armHeld = false) ∧
      (t = 820 → d.plans ≠ [] ∧ d.pwr.hot = false ∧ d.pwr.limit = false) := by
  unfold Dev.govTarget
  split
  case isTrue harmed =>
    split
    case isTrue h =>
      obtain ⟨-, hhot, hlimit⟩ := h
      exact ⟨.inr (.inr rfl), by simp, fun _ => ⟨d.planArmed_iff.1 harmed, by simpa using hhot, by simpa using hlimit⟩⟩
    case isFalse => exact ⟨.inr (.inl rfl), by simp, by simp⟩
  case isFalse hfree =>
    split
    case isTrue h =>
      have hnone : d.plans = [] := by simpa [d.planArmed_iff] using hfree
      exact ⟨.inl rfl, fun _ => ⟨hnone, by simpa using h.2⟩, by simp⟩
    case isFalse => exact ⟨.inr (.inl rfl), by simp, by simp⟩

theorem Dev.capNow_le_capTop (d : Dev) : d.capNow ≤ d.capTop := by
  unfold Dev.capNow
  split
  · exact le_rfl
  · exact Nat.min_le_right _ _

/-- The cap of a device lies between the floor and the top of another. -/
def Dev.CapWithin (d e : Dev) : Prop := d.capFloor ≤ e.pwr.cap ∧ e.pwr.cap ≤ d.capTop

/-- From a cap not below its floor the tick leads to one between its floor and its top. -/
theorem powerLimitTick_capWithin (c p i : DW) (d : Dev) (h : d.capFloor ≤ d.capNow) : d.CapWithin (powerLimitTick c p i d) := by
  have htop := d.capNow_le_capTop
  have hkept (e : Dev) (he : e.pwr.cap = d.capNow) : d.CapWithin e := ⟨he ▸ h, he ▸ htop⟩
  have hlowered (e : Dev) (he : e.pwr.cap = Nat.max d.capFloor (d.capNow - 25)) : d.CapWithin e := by
    rw [Nat.max_eq_max] at he
    constructor <;> omega
  have hraised (e : Dev) (he : e.pwr.cap = Nat.min d.capTop (d.capNow + 25)) : d.CapWithin e := by
    rw [Nat.min_eq_min] at he
    constructor <;> omega
  unfold powerLimitTick
  refine iteInduction (fun _ => ?above) (fun _ => ?within)
  case above =>
    refine iteInduction (fun _ => hlowered _ rfl) (fun _ => iteInduction (fun _ => hkept _ rfl) (fun _ => hkept _ ?_))
    exact congrArg Pwr.cap (Dev.event_pwr _ _)
  case within =>
    exact iteInduction (fun _ => iteInduction (fun _ => hraised _ rfl) (fun _ => hkept _ rfl)) (fun _ => hkept _ rfl)

end Sys2Proof.Machine

namespace Sys2Proof

open Machine

/-- Settles O52: each event of PERST_N and of the rails by the state of the device. -/
theorem resetAndRailEventsComplete : Obligations.ResetAndRailEventsComplete := by
  unfold Obligations.ResetAndRailEventsComplete
  intro s d
  refine ⟨?assert, ?deassert, ?rail, ⟨?held, ?alive⟩, ?rrs⟩
  case assert => exact exec_of_runRaw rfl (Dev.releasePins_eq _)
  case deassert =>
    intro v
    exact ⟨fun hp hr hb ht => exec_of_runRaw rfl (perstDeassert_boots v hp hr hb ht),
      fun hp h => exec_of_runRaw rfl (perstDeassert_held v hp h), fun hp => exec_of_runRaw rfl (perstDeassert_ignored v hp)⟩
  case rail =>
    intro r mv hmv
    exact ⟨fun h => exec_of_runRaw (execRail_within r s hmv) (railOutOfRange_taken h),
      fun hout halive => exec_of_runRaw (execRail_within r s hmv) (railOutOfRange_resets hout halive)⟩
  case held => exact fun h => exec_of_runRaw rfl (railRecovered_held h)
  case alive => exact fun h => exec_of_runRaw rfl (railRecovered_alive h)
  case rrs =>
    intro halive hrec hrrs
    exact ⟨fun hdue => goes_of_runAlive halive rfl (recoveryRrsEnd_due hrec hrrs hdue),
      fun hearly => goes_of_runAlive halive rfl (recoveryRrsEnd_early hearly)⟩

/-- Settles O54: each event by its own condition. -/
theorem governorAndSensorEventsComplete : Obligations.GovernorAndSensorEventsComplete := by
  unfold Obligations.GovernorAndSensorEventsComplete
  intro s hrun d
  refine ⟨?governor, fun w => goes_of_run hrun rfl rfl, ?kept, ?falls, ?power, ?ramp, ?temp, ?short⟩
  case governor =>
    intro hf hs ht mv e g
    refine ⟨fun hlow => goes_of_run hrun rfl ?_, fun hhigh => goes_of_run hrun rfl ?_, goes_of_run hrun rfl (governorStep_failed hf hs ht)⟩
    · exact (governorStep_taken hf hs ht).trans (if_neg (Nat.not_le.2 hlow))
    · exact (governorStep_taken hf hs ht).trans (if_pos hhigh)
  case kept => exact fun w h => goes_of_run hrun rfl (pmbVoutPoll_kept h)
  case falls => exact fun w h hp hl => goes_of_run hrun rfl (pmbVoutPoll_falls h hp hl)
  case power =>
    intro c p i e
    exact ⟨fun hover hfloor => goes_of_run hrun rfl (powerLimitTick_lowers hover hfloor),
      fun hin hnear => goes_of_run hrun rfl (powerLimitTick_holds hin hnear)⟩
  case ramp =>
    intro q up e hq hr hw
    exact ⟨fun hfree hnone => goes_of_run hrun rfl (quireRamp_starts up hq hr hw hfree hnone),
      fun hfull => goes_of_run hrun rfl (quireRamp_waits up hq hr hw hfull)⟩
  case temp =>
    intro c p i tj e
    exact ⟨fun hhot => exec_of_runRaw rfl (tempSample_trips (d.alive_of_running hrun) hhot),
      fun hcool => exec_of_runRaw rfl (tempSample_states hrun hcool)⟩
  case short =>
    intro n e
    exact ⟨fun h => goes_of_run hrun rfl (pwrTrigShort_new h), fun h => goes_of_run hrun rfl (pwrTrigShort_known h),
      goes_of_run hrun rfl rfl⟩

/-- Settles O55: the step, the target and the cap each by its cases. -/
theorem governorBounds : Obligations.GovernorBounds := ⟨govNext_bounds, Dev.govTarget_cases, powerLimitTick_capWithin⟩

end Sys2Proof
end

section
/-! The integrity code (R329–R331): check bits are linear in the word, and every column and every check bit has odd weight. -/

namespace Sys2Proof.Machine

/-! ## Weights -/

/-- One bit of an exclusive or has the parity of the two bits. -/
theorem xor_bit_mod (x y i : Nat) : (x ^^^ y) / 2 ^ i % 2 % 2 = (x / 2 ^ i % 2 + y / 2 ^ i % 2) % 2 := by
  rw [← Nat.toNat_testBit, ← Nat.toNat_testBit, ← Nat.toNat_testBit, Nat.testBit_xor]
  cases x.testBit i <;> cases y.testBit i <;> rfl

theorem popc_xor_mod (x y : Nat) : popc (x ^^^ y) % 2 = (popc x + popc y) % 2 := by
  have hsum (l : List Nat) (p m n : Nat) (hp : p % 2 = (m + n) % 2) :
      l.foldl (fun k i => k + (x ^^^ y) / 2 ^ i % 2) p % 2 =
        (l.foldl (fun k i => k + x / 2 ^ i % 2) m + l.foldl (fun k i => k + y / 2 ^ i % 2) n) % 2 := by
    induction l generalizing p m n with
    | nil => exact hp
    | cons i l ih =>
      have hbit := xor_bit_mod x y i
      have hstep : (p + (x ^^^ y) / 2 ^ i % 2) % 2 = (m + x / 2 ^ i % 2 + (n + y / 2 ^ i % 2)) % 2 := by omega
      exact ih _ _ _ hstep
  exact hsum (List.range 8) 0 0 0 rfl

theorem popc_check_bit {i : Nat} (hi : i < 8) : popc (2 ^ i) = 1 := by
  interval_cases i <;> rfl

/-! ## Columns -/

/-- The column of a data bit. -/
def eccCol (i : Nat) : Byte := BitVec.ofNat 8 (eccCols.getD i 0)

/-- The column of a check bit. -/
def eccUnit (i : Nat) : Byte := BitVec.ofNat 8 (2 ^ i)

theorem eccCols_length : eccCols.length = 64 := by decide +kernel

theorem eccCols_nodup : eccCols.Nodup := by decide +kernel

theorem eccCols_weight {v : Nat} (h : v ∈ eccCols) : v < 256 ∧ (popc v = 3 ∨ popc v = 5) := by
  obtain h | h := List.mem_append.1 h
  · simp only [List.mem_filter, List.mem_range, decide_eq_true_eq] at h
    exact ⟨h.1, .inl h.2⟩
  · have h := List.mem_of_mem_take h
    simp only [List.mem_filter, List.mem_range, decide_eq_true_eq] at h
    exact ⟨h.1, .inr h.2⟩

section
variable {i : Nat} (hi : i < 64)
include hi

theorem eccCols_get_mem : eccCols.getD i 0 ∈ eccCols := by
  have hlen : i < eccCols.length := eccCols_length ▸ hi
  rw [List.getD_eq_getElem _ _ hlen]
  exact List.getElem_mem hlen

theorem eccCol_toNat : (eccCol i).toNat = eccCols.getD i 0 :=
  Nat.mod_eq_of_lt (eccCols_weight (eccCols_get_mem hi)).1

theorem eccCol_weight : popc (eccCol i).toNat = 3 ∨ popc (eccCol i).toNat = 5 := by
  rw [eccCol_toNat hi]
  exact (eccCols_weight (eccCols_get_mem hi)).2

theorem eccCols_idxOf : eccCols.idxOf? (eccCol i).toNat = some i := by
  have hlen : i < eccCols.length := eccCols_length ▸ hi
  rw [eccCol_toNat hi, List.getD_eq_getElem _ _ hlen, List.idxOf?_eq_some_iff]
  exact ⟨hlen, rfl, fun j hj h => hj.ne (eccCols_nodup.getElem_inj_iff.1 h)⟩

end

theorem eccCol_ne {i j : Nat} (hi : i < 64) (hj : j < i) : eccCol i ≠ eccCol j := by
  intro h
  have hidx := eccCols_idxOf hi
  rw [h, eccCols_idxOf (hj.trans hi)] at hidx
  exact hj.ne (Option.some.inj hidx)

theorem eccUnit_toNat {i : Nat} (hi : i < 8) : (eccUnit i).toNat = 2 ^ i :=
  Nat.mod_eq_of_lt (Nat.pow_lt_pow_right (by decide) hi)

theorem eccUnit_weight {i : Nat} (hi : i < 8) : popc (eccUnit i).toNat = 1 := by rw [eccUnit_toNat hi, popc_check_bit hi]

theorem eccUnit_ne {i j : Nat} (hi : i < 8) (hj : j < i) : eccUnit i ≠ eccUnit j := by
  intro h
  have hpow := congrArg BitVec.toNat h
  rw [eccUnit_toNat hi, eccUnit_toNat (hj.trans hi)] at hpow
  exact hj.ne' (Nat.pow_right_injective le_rfl hpow)

theorem eccCol_ne_eccUnit {i j : Nat} (hi : i < 64) (hj : j < 8) : eccCol i ≠ eccUnit j := by
  intro h
  have hcol := eccCol_weight hi
  rw [h, eccUnit_weight hj] at hcol
  omega

/-! ## Check bits -/

/-- The check bits of the columns from `i` on, over those already gathered. -/
def eccFrom (d : QW) (i : Nat) (c : Byte) (l : List Nat) : Byte :=
  foldIdx (fun i c k => if d.getLsbD i then c ^^^ BitVec.ofNat 8 k else c) i c l

theorem eccFrom_xor (d e : QW) (l : List Nat) (i : Nat) (a b : Byte) :
    eccFrom (d ^^^ e) i (a ^^^ b) l = eccFrom d i a l ^^^ eccFrom e i b l := by
  induction l generalizing i a b with
  | nil => rfl
  | cons k l ih =>
    have hstep : (if (d ^^^ e).getLsbD i then a ^^^ b ^^^ BitVec.ofNat 8 k else a ^^^ b) =
        (if d.getLsbD i then a ^^^ BitVec.ofNat 8 k else a) ^^^ (if e.getLsbD i then b ^^^ BitVec.ofNat 8 k else b) := by
      rw [BitVec.getLsbD_xor]
      cases d.getLsbD i <;> cases e.getLsbD i
      · rfl
      · simp [BitVec.xor_assoc]
      · simp [BitVec.xor_assoc, BitVec.xor_comm b]
      · simp only [bne_self_eq_false, Bool.false_eq_true, if_false, if_true]
        rw [BitVec.xor_assoc a, BitVec.xor_comm (BitVec.ofNat 8 k), BitVec.xor_assoc b, BitVec.xor_self, BitVec.xor_zero]
    exact (congrArg (fun c => eccFrom (d ^^^ e) (i + 1) c l) hstep).trans (ih _ _ _)

/-- A word of one bit gathers the column of that bit. -/
theorem eccFrom_bit {j : Nat} (hj : j < 64) (l : List Nat) (i : Nat) (c : Byte) :
    eccFrom (BitVec.ofNat 64 (2 ^ j)) i c l = if i ≤ j then c ^^^ BitVec.ofNat 8 (l.getD (j - i) 0) else c := by
  induction l generalizing i c with
  | nil => simp [eccFrom, foldIdx]
  | cons k l ih =>
    have hbit : (BitVec.ofNat 64 (2 ^ j)).getLsbD i = decide (i = j) := by
      rw [BitVec.getLsbD_ofNat, Nat.testBit_two_pow, ← Bool.decide_and, decide_eq_decide]
      omega
    refine (ih (i + 1) (if (BitVec.ofNat 64 (2 ^ j)).getLsbD i then c ^^^ BitVec.ofNat 8 k else c)).trans ?_
    rw [hbit]
    obtain h | rfl | h := Nat.lt_trichotomy i j
    · have hsub : j - i = (j - (i + 1)) + 1 := by omega
      simp [h.ne, h.le, Nat.succ_le_of_lt h, hsub]
    · simp
    · simp [h.ne', Nat.not_le.2 h, Nat.not_le.2 (h.trans (Nat.lt_succ_self i))]

theorem eccCheck_xor (d e : QW) : eccCheck (d ^^^ e) = eccCheck d ^^^ eccCheck e := eccFrom_xor d e eccCols 0 0 0

theorem eccCheck_flip (d : QW) {i : Nat} (hi : i < 64) : eccCheck (d ^^^ BitVec.ofNat 64 (2 ^ i)) = eccCheck d ^^^ eccCol i := by
  have hbit : eccCheck (BitVec.ofNat 64 (2 ^ i)) = eccCol i := by
    refine (eccFrom_bit hi eccCols 0 0).trans ?_
    simp [eccCol]
  rw [eccCheck_xor, hbit]

/-! ## Syndromes -/

theorem eccSynd_zero (d : QW) : eccSynd d 0 = (.clean, d) := rfl

/-- A syndrome of odd weight below 8 is neither that of a clean word nor that of POISON. -/
theorem synd_ne_of_odd {s : Byte} (h : popc s.toNat % 2 = 1) : s ≠ 0 ∧ s ≠ 0xFF :=
  ⟨fun hs => by simp [hs, popc] at h, fun hs => by simp [hs, popc, List.range_succ] at h⟩

theorem eccSynd_col (d : QW) {i : Nat} (hi : i < 64) : eccSynd d (eccCol i) = (.corrected, d ^^^ BitVec.ofNat 64 (2 ^ i)) := by
  have hw := eccCol_weight hi
  obtain ⟨hzero, hpoison⟩ := synd_ne_of_odd (s := eccCol i) (by omega)
  have hone : popc (eccCol i).toNat ≠ 1 := by omega
  rw [eccSynd, if_neg hzero, if_neg hpoison, if_neg hone, eccCols_idxOf hi]

theorem eccSynd_unit (d : QW) {i : Nat} (hi : i < 8) : eccSynd d (eccUnit i) = (.corrected, d) := by
  have hw := eccUnit_weight hi
  obtain ⟨hzero, hpoison⟩ := synd_ne_of_odd (s := eccUnit i) (by omega)
  rw [eccSynd, if_neg hzero, if_neg hpoison, if_pos hw]

/-- A syndrome of even weight that is not zero is that of no single flipped bit. -/
theorem eccSynd_even (d : QW) {s : Byte} (hs : s ≠ 0) (hw : popc s.toNat % 2 = 0) :
    (eccSynd d s).1 = .uncorrectable ∨ (eccSynd d s).1 = .poison := by
  by_cases hpoison : s = 0xFF
  · exact .inr (by rw [eccSynd, if_neg hs, if_pos hpoison])
  · have hone : popc s.toNat ≠ 1 := by omega
    have hnone : eccCols.idxOf? s.toNat = none := by
      rw [List.idxOf?_eq_none_iff]
      intro hmem
      have := eccCols_weight hmem
      omega
    exact .inl (by rw [eccSynd, if_neg hs, if_neg hpoison, if_neg hone, hnone])

/-- Two distinct syndromes of odd weight together are that of an unusable word. -/
theorem eccSynd_two (d : QW) {a b : Byte} (hne : a ≠ b) (ha : popc a.toNat % 2 = 1) (hb : popc b.toNat % 2 = 1) :
    (eccSynd d (a ^^^ b)).1 = .uncorrectable ∨ (eccSynd d (a ^^^ b)).1 = .poison := by
  refine eccSynd_even d (fun h => hne (BitVec.xor_eq_zero_iff.1 h)) ?_
  rw [BitVec.toNat_xor, popc_xor_mod]
  omega

theorem eccCol_odd {i : Nat} (hi : i < 64) : popc (eccCol i).toNat % 2 = 1 := by
  have := eccCol_weight hi
  omega

theorem eccUnit_odd {i : Nat} (hi : i < 8) : popc (eccUnit i).toNat % 2 = 1 := by rw [eccUnit_weight hi]

/-- What was added to the check bits of a word is the syndrome. -/
theorem xor_xor_cancel_left (c a b : Byte) : c ^^^ a ^^^ (c ^^^ b) = a ^^^ b := by
  rw [BitVec.xor_comm c a, BitVec.xor_assoc, ← BitVec.xor_assoc c, BitVec.xor_self, BitVec.zero_xor]

end Sys2Proof.Machine

namespace Sys2Proof

open Machine

/-- Settles O57: by linearity the syndrome is the sum of the columns of the flipped bits; one is looked up, two make an even weight. -/
theorem integrityCodeCorrectsAndDetects : Obligations.IntegrityCodeCorrectsAndDetects := by
  unfold Obligations.IntegrityCodeCorrectsAndDetects
  intro d
  refine ⟨?clean, ?data, ?check, ?dataData, ?dataCheck, ?checkCheck⟩
  case clean => rw [eccDecode, BitVec.xor_self]; exact eccSynd_zero d
  case data =>
    intro i hi
    have hs : eccCheck d ^^^ eccCol i ^^^ eccCheck d = eccCol i := by
      rw [BitVec.xor_comm, ← BitVec.xor_assoc, BitVec.xor_self, BitVec.zero_xor]
    rw [eccDecode, eccCheck_flip d hi, hs, eccSynd_col _ hi, BitVec.xor_assoc, BitVec.xor_self, BitVec.xor_zero]
  case check =>
    intro i hi
    rw [eccDecode, ← BitVec.xor_assoc, BitVec.xor_self, BitVec.zero_xor]
    exact eccSynd_unit d hi
  case dataData =>
    intro i j hi hj r
    have hs : eccCheck (d ^^^ BitVec.ofNat 64 (2 ^ i) ^^^ BitVec.ofNat 64 (2 ^ j)) ^^^ eccCheck d = eccCol i ^^^ eccCol j := by
      rw [eccCheck_flip _ (hj.trans hi), eccCheck_flip d hi, BitVec.xor_comm, ← BitVec.xor_assoc, ← BitVec.xor_assoc, BitVec.xor_self,
        BitVec.zero_xor]
    unfold r
    rw [eccDecode, hs]
    exact eccSynd_two _ (eccCol_ne hi hj) (eccCol_odd hi) (eccCol_odd (hj.trans hi))
  case dataCheck =>
    intro i j hi hj r
    have hs : eccCheck (d ^^^ BitVec.ofNat 64 (2 ^ i)) ^^^ (eccCheck d ^^^ BitVec.ofNat 8 (2 ^ j)) = eccCol i ^^^ eccUnit j := by
      rw [eccCheck_flip d hi, xor_xor_cancel_left, eccUnit]
    unfold r
    rw [eccDecode, hs]
    exact eccSynd_two _ (eccCol_ne_eccUnit hi hj) (eccCol_odd hi) (eccUnit_odd hj)
  case checkCheck =>
    intro i j hi hj r
    have hs : eccCheck d ^^^ (eccCheck d ^^^ BitVec.ofNat 8 (2 ^ i) ^^^ BitVec.ofNat 8 (2 ^ j)) = eccUnit i ^^^ eccUnit j := by
      rw [← BitVec.xor_assoc, ← BitVec.xor_assoc, BitVec.xor_self, BitVec.zero_xor, eccUnit, eccUnit]
    unfold r
    rw [eccDecode, hs]
    exact eccSynd_two _ (eccUnit_ne hi hj) (eccUnit_odd hi) (eccUnit_odd (hj.trans hi))

end Sys2Proof
end

section
/-! Reading registers (R98, R128, R398): TB_TIME_LO latches, READ_REG has no effect on what it reads. -/

namespace Sys2Proof.Machine

/-- READ_REG is served in recovery too (R357). -/
theorem svcReadReg_answers {d : Dev} {k : SvcCmd} (hidle : d.svcBusy = false) (hvendor : d.sec.dead = false) (hform : k.reserved = 0)
    (hmin : 4 ≤ k.arg.toNat / 2 ^ 32 % 2 ^ 16) (hmax : k.arg.toNat / 2 ^ 32 % 2 ^ 16 ≤ 4096) (htop : k.arg.toNat / 2 ^ 48 = 0)
    (hend : k.arg.toNat % 2 ^ 32 + k.arg.toNat / 2 ^ 32 % 2 ^ 16 ≤ 0x100000) :
    svcReadReg k d =
      { d.svcDone k .done 0 (d.barBytes (k.arg.toNat % 2 ^ 32) (k.arg.toNat / 2 ^ 32 % 2 ^ 16)) with free := d.free + 1 } := by
  have hserved : ¬ (d.sec.dead = true ∨ (d.sec.recovery = true ∧ 2 ≠ 1 ∧ 2 ≠ 2 ∧ 2 ≠ 4)) := by simp [hvendor]
  have hok : ¬ (k.reserved ≠ 0 ∨ (!decide (4 ≤ k.arg.toNat / 2 ^ 32 % 2 ^ 16 ∧ k.arg.toNat / 2 ^ 32 % 2 ^ 16 ≤ 4096 ∧
      k.arg.toNat / 2 ^ 48 = 0 ∧ k.arg.toNat % 2 ^ 32 + k.arg.toNat / 2 ^ 32 % 2 ^ 16 ≤ 0x100000)) = true) := by
    rw [decide_eq_true ⟨hmin, hmax, htop, hend⟩]
    simp [hform]
  exact (if_neg (by simp [hidle])).trans ((if_neg hserved).trans (if_neg hok))

end Sys2Proof.Machine

namespace Sys2Proof

open Machine

/-- Settles O27: the read of TB_TIME_LO latches, and READ_REG only answers. -/
theorem timeLowLatches : Obligations.TimeLowLatches := by
  unfold Obligations.TimeLowLatches
  refine ⟨fun wide s hrun => goes_of_run hrun rfl rfl, ?readReg⟩
  case readReg =>
    intro k s halive hidle hvendor hform hmin hmax htop hend
    have hgoes : Goes (.svcReadReg k) s _ := goes_of_runAlive halive rfl (svcReadReg_answers hidle hvendor hform hmin hmax htop hend)
    exact ⟨_, hgoes, rfl, rfl, rfl, rfl, rfl, rfl, rfl⟩

end Sys2Proof
end

section
/-! SEC_QUOTE and SEC_INSTALL as opcode rows (R361–R364, R366): what a descriptor that holds its tokens does. -/

namespace Sys2Proof.Machine

/-! ## Rows of the binder that hold their tokens (R54) -/

/-- A row whose descriptor waits for tokens, and holds them, has the effect of `Dev.runHeld` on the device that granted them. -/
theorem goes_of_runHeld {i : Instr} {s : State} {c : Nat} {w : DescWords} {x : Desc} {e : Dev} (hp : i.presented = some (c, w))
    (hrun : s.dev.running = true) (hop : w.opc = 0x7A ∨ w.opc = 0x7F) (hs : s.dev.holds c w x)
    (he : ((s.dev.taken c w).1.grantFor x.id).runHeld x true = e) : Goes i s e.settle := by
  obtain ⟨⟨ht, hj, hacc, hw⟩, hx, hdoom, htok, hphase, hfree⟩ := hs
  have hctl : opDefOf x.w = none := by
    rw [hw]
    rcases hop with h | h <;> simp only [opDefOf, h]
  have hstart : (s.dev.taken c w).1.startCtl x true = (s.dev.taken c w).1.tryHeld x.id true := by
    rw [← hw] at hop
    rcases hop with h | h <;> simp only [Dev.startCtl, h]
  rw [← he, ← Dev.tryHeld_runs hx hdoom htok hphase (hfree.imp_left (hw ▸ ·)), ← hstart, ← Dev.launch_ctl true hacc hctl]
  exact goes_of_accepted hp hrun ht hj

theorem Dev.runHeld_quote {d : Dev} {x : Desc} {whole : Bool} (h : x.w.opc = 0x7A) : d.runHeld x whole = d.runQuote x := by
  simp only [Dev.runHeld, h]

theorem Dev.runHeld_install {d : Dev} {x : Desc} {whole : Bool} (h : x.w.opc = 0x7F) : d.runHeld x whole = d.runInstall x := by
  simp only [Dev.runHeld, h]

/-! ## ACTION in a presented SEC_INSTALL -/

/-- A SEC_INSTALL of an action, as its row presents it. -/
def installWords (w : DescWords) (action : Nat) : DescWords := (w.withOp 0x7F).withField 3 action

section
variable (w : DescWords) {a : Nat}

theorem install_dw {i : Nat} (h0 : i ≠ 0) (h6 : i ≠ 6) : (installWords w a).dw i = w.dw i := by
  rw [installWords, withField_dw _ _ _ _ h6, withOp_dw _ _ _ h0]

theorem install_q : (installWords w a).q 8 = w.q 8 :=
  congrArg₂ (fun (a b : DW) => a.toNat + 2 ^ 32 * b.toNat) (install_dw w (i := 8) (by decide) (by decide))
    (install_dw w (i := 9) (by decide) (by decide))

theorem install_opc : (installWords w a).opc = 0x7F := by
  have h : (installWords w a).opc = (w.withOp 0x7F).opc := congrArg (bits · 7 0) (withField_dw _ 3 a 0 (by decide))
  rw [h, withOp_opc w _ (by decide)]

theorem install_dw_six : (installWords w a).dw 6 = w.dw 6 &&& ~~~ dwN 3 ||| dwN a := by
  rw [← withOp_dw w 0x7F 6 (by decide)]
  simp [installWords, DescWords.withField, DescWords.put, DescWords.dw, Vector.getD]

theorem install_action (ha : a < 4) : (installWords w a).f 6 1 0 = a := by
  have hfield (v : DW) : bits (v &&& ~~~ dwN 3 ||| dwN a) 1 0 = a := by
    simp only [bits, BitVec.toNat_or, BitVec.toNat_and, dwN, BitVec.toNat_ofNat, Nat.pow_zero, Nat.div_one, Nat.sub_zero]
    rw [Nat.or_mod_two_pow, Nat.and_mod_two_pow]
    simp
    omega
  rw [DescWords.f, install_dw_six]
  exact hfield _

/-- The slot of an ACTIVATE stands beside ACTION. -/
theorem install_slot (ha : a < 4) : bitOf ((installWords w a).dw 6) 2 = bitOf (w.dw 6) 2 := by
  have hbit (v : DW) : bitOf (v &&& ~~~ dwN 3 ||| dwN a) 2 = bitOf v 2 := by
    have hset : (dwN a).getLsbD 2 = false := by
      rw [dwN, BitVec.getLsbD_ofNat, Nat.testBit_lt_two_pow ha, Bool.and_false]
    have hmask : (~~~ dwN 3).getLsbD 2 = true := by decide
    simp only [bitOf, ← Nat.testBit_eq_decide_div_mod_eq, ← BitVec.getLsbD.eq_def]
    rw [BitVec.getLsbD_or, BitVec.getLsbD_and, hset, hmask, Bool.and_true, Bool.or_false]
  rw [install_dw_six]
  exact hbit _

end

/-! ## SEC_INSTALL (R361–R364, R366) -/

/-- The range a SEC_INSTALL reads. -/
def Desc.installReads (x : Desc) : List (DW × Nat × Nat) := [(x.w.dw 7, x.w.q 8, (x.w.dw 10).toNat)]

/-- The image or record a SEC_INSTALL names. -/
def Dev.installImage (d : Dev) (x : Desc) : Bytes := d.rd x (x.w.dw 7) (x.w.q 8) (x.w.dw 10).toNat

section
variable {d : Dev} {x : Desc} (hfree : d.sec.staging = none)
include hfree

theorem Dev.runInstall_rejects (ha : x.w.f 6 1 0 = 0) (hecc : (d.eccDecodeReads x x.installReads).2.2 = false) {r : Nat}
    (hbad : fwBad d.vault d.board.variant (d.installImage x) = some r) :
    let e := d.eccDecodeReads x x.installReads
    d.runInstall x = (e.1.secReject (some x) 0 r).endDesc x.id { st := .failedCheck, flags := e.2.1 } := by
  unfold Desc.installReads at hecc
  unfold Dev.installImage at hbad
  unfold Dev.runInstall
  simp only [hfree, ha, hecc, hbad]
  rfl

theorem Dev.runInstall_stages (ha : x.w.f 6 1 0 = 0) (hecc : (d.eccDecodeReads x x.installReads).2.2 = false)
    (hgood : fwBad d.vault d.board.variant (d.installImage x) = none) :
    let e := d.eccDecodeReads x x.installReads
    d.runInstall x = (e.1.startStage (d.installImage x) (some x.id) x.w.tag).modDesc x.id
      (fun y => { y with await_ := .stage, phase := .dispatched, flags := y.flags ||| e.2.1 }) := by
  unfold Desc.installReads at hecc
  unfold Dev.installImage at hgood
  unfold Dev.runInstall
  simp only [hfree, ha, hecc, hgood]
  rfl

theorem Dev.runInstall_activates (ha : x.w.f 6 1 0 = 1) :
    let slot := bitOf (x.w.dw 6) 2
    fwBad d.vault d.board.variant (d.vault.slot slot) = none →
      d.runInstall x = ({ d with vault := d.vault.update (fun q => { q with preferred := slot }) } : Dev).endDesc x.id { st := .done } := by
  intro slot hgood
  unfold Dev.runInstall
  simp [hfree, ha, slot, hgood]

theorem Dev.runInstall_activate_fails (ha : x.w.f 6 1 0 = 1)
    (hbad : fwBad d.vault d.board.variant (d.vault.slot (bitOf (x.w.dw 6) 2)) ≠ none) :
    d.runInstall x = d.endDesc x.id { st := .failedCheck } := by
  unfold Dev.runInstall
  simp [hfree, ha, Option.isSome_iff_ne_none, hbad]

theorem Dev.runInstall_commits (ha : x.w.f 6 1 0 = 2) :
    let r := if d.vault.rollback < d.sec.runSvn then d.sec.runSvn else d.vault.rollback
    d.runInstall x =
      ({ d with vault := d.vault.update (fun q => { q with rollback := r }) } : Dev).endDesc x.id { st := .done, r4 := r } := by
  unfold Dev.runInstall
  simp [hfree, ha]

theorem Dev.runInstall_owner (ha : x.w.f 6 1 0 = 3) (hgood : ownerBad d.vault (d.installImage x) = none) :
    d.runInstall x =
      d.conclude x { rdr := x.installReads, post := fun e => { e with vault := e.vault.install (d.installImage x) } } := by
  unfold Dev.installImage at hgood
  unfold Dev.runInstall
  simp only [hfree, ha, hgood]
  rfl

theorem Dev.runInstall_owner_rejects (ha : x.w.f 6 1 0 = 3) {r : Nat} (hbad : ownerBad d.vault (d.installImage x) = some r) :
    d.runInstall x =
      d.conclude x { st := .failedCheck, rdr := x.installReads, post := fun e => e.secReject (some x) 1 r } := by
  unfold Dev.installImage at hbad
  unfold Dev.runInstall
  simp only [hfree, ha, hbad]
  rfl

end

end Sys2Proof.Machine

namespace Sys2Proof

open Machine

/-- Settles O43: a row that holds its tokens runs, its operands read from the words presented. -/
theorem securityRowsComplete : Obligations.SecurityRowsComplete := by
  unfold Obligations.SecurityRowsComplete
  intro c w x s hrun go held inst img rdr
  have hopc (a : Nat) : (inst a).opc = 0x7A ∨ (inst a).opc = 0x7F := .inr (install_opc w)
  have hw {v : DescWords} (h : go v) : x.w = v := h.1.2.2.2
  have hinstall {a : Nat} (h : go (inst a)) : (held (inst a)).runHeld x true = (held (inst a)).runInstall x :=
    Dev.runHeld_install (by rw [hw h]; exact install_opc w)
  have haction {a : Nat} (ha : a < 4) (h : go (inst a)) : x.w.f 6 1 0 = a := by rw [hw h]; exact install_action w ha
  have hslot (h : go (inst 1)) : bitOf (x.w.dw 6) 2 = bitOf (w.dw 6) 2 := by rw [hw h]; exact install_slot w (by decide)
  have hwords {a : Nat} (h : go (inst a)) : x.w.dw 7 = w.dw 7 ∧ x.w.q 8 = w.q 8 ∧ x.w.dw 10 = w.dw 10 := by
    rw [hw h]
    exact ⟨install_dw w (by decide) (by decide), install_q w, install_dw w (by decide) (by decide)⟩
  have hreads {a : Nat} (h : go (inst a)) : x.installReads = rdr := by
    obtain ⟨h7, h8, h10⟩ := hwords h
    rw [Desc.installReads, h7, h8, h10]
  have himage {a : Nat} (h : go (inst a)) : (held (inst a)).installImage x = img (inst a) := by
    obtain ⟨h7, h8, h10⟩ := hwords h
    rw [Dev.installImage, h7, h8, h10]
  refine ⟨?quote, ?stage, ?activate, ?commit, ?owner⟩
  case quote =>
    intro h
    have hq : (w.withOp 0x7A).opc = 0x7A := withOp_opc w _ (by decide)
    exact goes_of_runHeld rfl hrun (.inl hq) h (Dev.runHeld_quote (by rw [hw h, hq]))
  case stage =>
    intro h hfree hecc e
    rw [← hreads h] at hecc
    refine ⟨fun r hbad => goes_of_runHeld rfl hrun (hopc 0) h ((hinstall h).trans ?_),
      fun hgood => goes_of_runHeld rfl hrun (hopc 0) h ((hinstall h).trans ?_)⟩
    · rw [← himage h] at hbad
      rw [Dev.runInstall_rejects hfree (haction (by decide) h) hecc hbad, hreads h]
    · rw [← himage h] at hgood
      rw [Dev.runInstall_stages hfree (haction (by decide) h) hecc hgood, hreads h, himage h]
  case activate =>
    intro h hfree v sl
    refine ⟨fun hgood => goes_of_runHeld rfl hrun (hopc 1) h ((hinstall h).trans ?_),
      fun hbad => goes_of_runHeld rfl hrun (hopc 1) h ((hinstall h).trans ?_)⟩
    · rw [Dev.runInstall_activates hfree (haction (by decide) h) (by rwa [hslot h]), hslot h]
    · exact Dev.runInstall_activate_fails hfree (haction (by decide) h) (by rwa [hslot h])
  case commit =>
    intro h hfree v r
    exact goes_of_runHeld rfl hrun (hopc 2) h ((hinstall h).trans (Dev.runInstall_commits hfree (haction (by decide) h)))
  case owner =>
    intro h hfree
    refine ⟨fun hgood => goes_of_runHeld rfl hrun (hopc 3) h ((hinstall h).trans ?_),
      fun r hbad => goes_of_runHeld rfl hrun (hopc 3) h ((hinstall h).trans ?_)⟩
    · rw [← himage h] at hgood
      rw [Dev.runInstall_owner hfree (haction (by decide) h) hgood, hreads h, himage h]
    · rw [← himage h] at hbad
      rw [Dev.runInstall_owner_rejects hfree (haction (by decide) h) hbad, hreads h]

end Sys2Proof
end

section
/-! Links and pairing (R308–R310, R312, R314, R324, R325): what brings a pair up, what keeps it alive and what ends it. -/

namespace Sys2Proof.Machine

/-! ## Links going up and down (R309, R311, R324) -/

section
variable {d : Dev} {port : Nat}

theorem mirLink_up (hon : d.mirOn port = true) (hdown : (d.link port).up = false) :
    mirLink port true d =
      ((d.modLink port (fun _ => { Link.reset with up := true, reason := 6, sentAt := d.now })).clearSeen.sendRole port).event
        { code := 0xB3, d4 := dwN (port + 2) } :=
  if_neg (by simp [hon, hdown])

theorem mirLink_down (hup : (d.link port).up = true) :
    mirLink port false d =
      (((d.modLink port (fun _ => { Link.reset with up := false, reason := 1, sentAt := d.now })).clearSeen.ptpLinkDown (6 + port)).event
        { code := 0xB3, d4 := dwN port }).pairCheck := by
  unfold mirLink
  simp [hup, b2n]

/-! ## ROLE (R308, R309, R325) -/

/-- What a ROLE message says of the partner. -/
def Msg.role (m : Msg) : PeerRole :=
  let dg (k : Nat) : Digest := BitVec.ofNat 256 (bnat m.pay (4 * k) 32)
  { verso := bitOf (bw m.pay 0) 0, colophon := bw m.pay 1, meas := dg 2, config := dg 10, ident := dg 18, rkey := bw m.pay 26,
    base := BitVec.ofNat 64 (bnat m.pay 108 8), bytes := bw m.pay 29 }

/-- A link with what its ROLE said: paired when no reason holds it. -/
def Dev.roleHeard (d : Dev) (port : Nat) (r : PeerRole) (why : Nat) : Dev :=
  (d.modLink port (fun l => { l with peer := some r, reason := why, paired := decide (why = 0) })).clearSeen

/-- The partner's configuration digest is compared; a difference is reported as it arises. -/
def Dev.noteConfig (d : Dev) (c : Digest) : Dev :=
  let diff : Bool := decide (c ≠ d.configDigest)
  let e := if diff ∧ ¬ d.mir.configDiff then d.event { code := 0xB8 } else d
  { e with mir := { e.mir with configDiff := diff } }

theorem Dev.noteConfig_same {c : Digest} (h : c = d.configDigest) :
    d.noteConfig c = { d with mir := { d.mir with configDiff := false } } := by
  simp [Dev.noteConfig, h]

theorem Dev.noteConfig_differs {c : Digest} (h : c ≠ d.configDigest) (hnew : d.mir.configDiff = false) :
    d.noteConfig c =
      let e := d.event { code := 0xB8 }
      { e with mir := { e.mir with configDiff := true } } := by
  simp [Dev.noteConfig, h, hnew]

section
variable {b : Bytes} {m : Msg} (h : d.delivers port 0 0x02 b m (m.len == 2))
include h

theorem mirRoleRx_held (hwhy : (d.received port 0).roleReason port m.ver m.role ≠ 0) :
    mirRoleRx port b d =
      ((d.received port 0).roleHeard port m.role ((d.received port 0).roleReason port m.ver m.role)).pairCheck := by
  rw [mirRoleRx, d.mirRx_delivers port 0 0x02 b m _ _ h]
  exact if_pos hwhy

/-- A link that passes is paired, answers if it was paired before, and may bring the pair up. -/
theorem mirRoleRx_pairs (hwhy : (d.received port 0).roleReason port m.ver m.role = 0) :
    mirRoleRx port b d =
      let e := d.received port 0
      let g := e.roleHeard port m.role (e.roleReason port m.ver m.role)
      ((if (e.link port).paired then g.sendRole port else g).tryUp).noteConfig m.role.config := by
  rw [mirRoleRx, d.mirRx_delivers port 0 0x02 b m _ _ h]
  exact if_neg (not_not.2 hwhy)

end

/-- Heartbeats are back after a loss, or there was none. -/
def Mir.backAfterLoss (r : Mir) : Prop := r.lostAt = none ∨ ∃ l h, r.lostAt = some l ∧ r.lastHb = some h ∧ l < h

theorem Dev.tryUp_comesUp (hdown : d.mirUp = false) (hlinks : d.pairedLinks ≠ []) (hback : d.mir.backAfterLoss) : d.tryUp = d.pairUp := by
  unfold Dev.tryUp
  obtain hnone | ⟨l, h, hl, hh, hlt⟩ := hback
  · simp [hnone, hdown, hlinks]
  · simp [hl, hh, hlt, hdown, hlinks]

theorem mirRoleRetry_due (hup : (d.link port).up = true) (hheld : (d.link port).paired = false)
    (hdue : (d.link port).sentAt + 100000000 ≤ d.now) :
    mirRoleRetry port d =
      ((d.modLink port (fun l => { l with reason := if l.peer.isNone then 6 else l.reason, peer := none })).mirReason).sendRole port :=
  if_neg (by simp [hup, hheld, hdue])

end

/-! ## Heartbeats and loss (R324) -/

/-- A heartbeat on one link, counted as missed where none came in the last millisecond. -/
def Dev.beat (pay : Bytes) (e : Dev) (m : Nat) : Dev :=
  let missed : Bool := ((e.link m).lastHb.map (fun t => decide (t + 1000000 < e.now))).getD true
  if (e.link m).up then (if missed then e.count cMirHbMiss else e).mirSendOn m 0 0x01 e.now [] pay else e

section
variable {d : Dev}

theorem heartbeatTx_due (hdue : d.mir.hbDue ≤ d.now) (hin : d.flt.devOos = false) :
    heartbeatTx d =
      let pay := toLe (d.mir.state + d.pairedLinks.foldl (fun n m => n + 2 ^ m) 0 * 8) 4
      let e := Dev.beat pay (Dev.beat pay d 0) 1
      { e with mir := { e.mir with hbDue := e.now + 1000000 } } := by
  have hgo : ¬ (d.now < d.mir.hbDue ∨ d.flt.devOos = true) := by simp [hdue, hin]
  unfold heartbeatTx
  rw [if_neg hgo]
  extract_lets mask pay both
  have hbeat : both = Dev.beat pay (Dev.beat pay d 0) 1 := by
    refine List.foldl_ext _ (Dev.beat pay) d (fun e m _ => ?_)
    unfold Dev.beat
    dsimp only
    have hnow : (e.count cMirHbMiss).now = e.now := rfl
    cases (e.link m).up with
    | false => rfl
    | true => cases (e.link m).lastHb <;> simp [apply_ite Dev.now, hnow]
  exact congrArg (fun e : Dev => { e with mir := { e.mir with hbDue := e.now + 1000000 } }) hbeat

theorem heartbeatRx_alive {port : Nat} {b : Bytes} {m : Msg} (h : d.delivers port 0 0x01 b m (m.len == 1)) :
    heartbeatRx port b d =
      let e := (d.received port 0).modLink port (fun l => { l with lastHb := some d.now })
      { e with mir := { e.mir with lastHb := some d.now } }.tryUp := by
  rw [heartbeatRx, d.mirRx_delivers port 0 0x01 b m _ _ h]
  rfl

/-- The device without its partner: the pair ended, every link held (R324). -/
def Dev.losePeer (d : Dev) (last : Nat) : Dev :=
  let e := d.pairEnd 3
  let hold (l : Link) : Link := { l with paired := false, peer := none, reason := if l.up then 6 else l.reason }
  let e := { e with mir := { e.mir with lostAt := some e.now, links := e.mir.links.map hold } }
  (e.event { code := 0xB2, d5 := dwN last }).mirReason

section
variable {u : Nat} (hstate : d.mir.state ≠ 3) (hup : d.mir.upAt = some u)
  (hdue : Nat.max u (d.mir.lastHb.getD 0) + d.regF 0x14000 8 0 * 1000000 ≤ d.now)
include hstate hup hdue

theorem mirPeerLost_eq :
    mirPeerLost d =
      match d.mir.lastHb with
      | some t => d.losePeer t
      | none => { d with free := d.free + 1 }.losePeer (Sys2Proof.Config.freeValue d.free).toNat := by
  have hfrom : d.lossFrom = some (Nat.max u (d.mir.lastHb.getD 0)) := by simp [Dev.lossFrom, hstate, hup]
  unfold mirPeerLost
  rw [hfrom]
  refine (if_neg (Nat.not_lt.2 hdue)).trans ?_
  cases d.mir.lastHb <;> rfl

end

/-! ## Queue pairs (R310, R314) -/

/-- A queue pair of a link. -/
def Dev.qp (d : Dev) (port q : Nat) : QPair := (d.link port).qps.getD q QPair.reset

/-- A queue pair of a link set. -/
def Dev.putQp (d : Dev) (port q : Nat) (y : QPair) : Dev := d.modLink port (fun l => { l with qps := l.qps.setIfInBounds q y })

section
variable {port q : Nat}

theorem mirQpReestablish_down (h : (d.link port).up = false) : mirQpReestablish port q d = d := if_pos (by simp [h])

theorem mirQpReestablish_other (h : (d.link port).up = true) (hq : q ≠ 1) :
    mirQpReestablish port q d = (d.putQp port q { QPair.reset with rate := (d.qp port q).rate }).dropRxs (fun _ => false) := by
  have hlost : (fun own => q == 1 && d.linkFor (own % 2) == some port) = fun _ => false := by
    funext own
    simp [hq]
  unfold mirQpReestablish
  simp only [h, hlost, if_neg hq]
  rfl

/-- QP1 carries the forwarded units: those that came over this link are lost with it. -/
theorem mirQpReestablish_units (h : (d.link port).up = true) :
    mirQpReestablish port 1 d =
      let lost (own : Nat) : Bool := d.linkFor (own % 2) == some port
      let e := (d.putQp port 1 { QPair.reset with rate := (d.qp port 1).rate }).dropRxs lost
      { e with mir := { e.mir with rxSeq := e.mir.rxSeq.filter (fun r => !lost r.1) } } := by
  unfold mirQpReestablish
  simp only [h]
  rfl

end

end

end Sys2Proof.Machine

namespace Sys2Proof

open Machine

/-- Settles O45: each event acts on the link it is of, and on the pair where a link's pairing decides it. -/
theorem mirrorLinkEventsComplete : Obligations.MirrorLinkEventsComplete := by
  unfold Obligations.MirrorLinkEventsComplete
  intro s hrun d
  refine ⟨?up, ?down, ?role, ?retry, ?tx, ?rx, ?loss, ?foreign, ?qp⟩
  case up => exact fun p hon hdown => goes_of_run hrun rfl (mirLink_up hon hdown)
  case down => exact fun p hup => goes_of_run hrun rfl (mirLink_down hup)
  case role =>
    intro p b m h e dg r why g
    refine ⟨fun hwhy => goes_of_run hrun rfl (mirRoleRx_held h hwhy), ?first, ?pairs⟩
    case first =>
      intro hwhy hnew hdown hlinks hback hconfig
      have hup : g.tryUp = g.pairUp := Dev.tryUp_comesUp hdown hlinks hback
      have hstays : (if (e.link p.val).paired then g.sendRole p.val else g) = g := if_neg (by simp [hnew])
      refine goes_of_run hrun rfl ((mirRoleRx_pairs h hwhy).trans ?_)
      show ((if (e.link p.val).paired then g.sendRole p.val else g).tryUp).noteConfig r.config = _
      rw [hstays, hup, Dev.noteConfig_same hconfig]
    case pairs =>
      intro hwhy k
      have hpairs : mirRoleRx p.val b d = k.noteConfig r.config := mirRoleRx_pairs h hwhy
      exact ⟨fun hsame => goes_of_run hrun rfl (hpairs.trans (Dev.noteConfig_same hsame)),
        fun hdiff hfirst => goes_of_run hrun rfl (hpairs.trans (Dev.noteConfig_differs hdiff hfirst))⟩
  case retry => exact fun p hup hheld hdue => goes_of_run hrun rfl (mirRoleRetry_due hup hheld hdue)
  case tx => exact fun hdue hin => goes_of_run hrun rfl (heartbeatTx_due hdue hin)
  case rx => exact fun p b m h => goes_of_run hrun rfl (heartbeatRx_alive h)
  case loss =>
    intro u hstate hup hdue lose
    have hlost := mirPeerLost_eq hstate hup hdue
    refine ⟨fun t ht => goes_of_run hrun rfl (hlost.trans ?_), fun hnone => goes_of_run hrun rfl (hlost.trans ?_)⟩
    · rw [ht]
      rfl
    · rw [hnone]
      rfl
  case foreign => exact fun p hon => goes_of_run hrun rfl (if_pos hon)
  case qp =>
    intro p q x put
    refine ⟨?other, ?units, fun hdown => goes_of_run hrun rfl (mirQpReestablish_down hdown), goes_of_run hrun rfl rfl,
      goes_of_run hrun rfl rfl⟩
    case other => exact fun hup hq => goes_of_run hrun rfl (mirQpReestablish_other hup hq)
    case units =>
      intro hup hq lost e
      have hone : mirQpReestablish p.val q.val d = mirQpReestablish p.val 1 d := by rw [hq]
      refine goes_of_run hrun rfl (hone.trans ((mirQpReestablish_units hup).trans ?_))
      unfold e put x
      rw [hq]
      rfl

end Sys2Proof
end

section
/-! Messages that name a plan slot (R304, R311, R317, R319–R321, R323, R327, R328): what the slot makes of each. -/

namespace Sys2Proof.Machine

section
variable {d : Dev} {port : Nat} {b : Bytes} {m : Msg}

/-! ## PLAN (R327, R328) -/

/-- The partner's plan as a PLAN message gives it. -/
def Msg.peerPlan (m : Msg) : PeerPlan :=
  let w := bw m.pay 0
  { armed := bitOf w 4, ctx := bits w 13 8, gen := BitVec.ofNat 8 (bits w 23 16), ident := BitVec.ofNat 256 (bnat m.pay 16 32) }

/-- A slot keeps the partner's plan and is paired with it. -/
def Dev.takePlan (d : Dev) (slot : Nat) (q : PeerPlan) : Dev := (d.modSlot slot (fun z => { z with peer := some q })).pairSlot slot

/-- The plan is of the context and generation of the one a slot knows. -/
def PeerPlan.again (q : PeerPlan) (known : Option PeerPlan) : Prop :=
  match known with
  | some o => o.ctx = q.ctx ∧ o.gen = q.gen
  | none => False

/-- A slot without what the partner sent for an earlier plan. -/
def Dev.forgetPlan (d : Dev) (slot : Nat) : Dev := d.modSlot slot (fun z => { z with theirs := [], peerDigs := [], compared := none })

/-- A slot's own plan without the debts the partner sent for an earlier plan. -/
def Dev.forgetDebts (d : Dev) (slot : Nat) : Dev :=
  match Tab.get? d.plans slot with
  | some o => { d with plans := Tab.set d.plans slot { o with peer := [] } }
  | none => d

theorem Dev.forgetDebts_none {slot : Nat} (h : Tab.get? d.plans slot = none) : d.forgetDebts slot = d := by
  rw [Dev.forgetDebts, h]

theorem Dev.forgetDebts_some {slot : Nat} {o : Plan} (h : Tab.get? d.plans slot = some o) :
    d.forgetDebts slot = { d with plans := Tab.set d.plans slot { o with peer := [] } } := by
  rw [Dev.forgetDebts, h]

section
variable (h : d.hears port 0x03 b m)
include h

theorem mirPlanRx_again (hagain : m.peerPlan.again ((d.received port 0).mslot m.slot).peer) :
    mirPlanRx port b d = (d.received port 0).takePlan m.slot m.peerPlan := by
  rw [mirPlanRx, d.mirCtl_hears port 0x03 b m _ _ h]
  unfold PeerPlan.again at hagain
  cases hp : ((d.received port 0).mslot m.slot).peer with
  | none => simp [hp] at hagain
  | some o =>
    rw [hp] at hagain
    obtain ⟨hctx, hgen⟩ := hagain
    unfold Msg.peerPlan at hctx hgen
    simp only [hctx, hgen, BEq.rfl, Bool.and_self, if_true]
    rfl

/-- A plan of another context or generation starts afresh, and the own plan waits for no debt of the earlier one. -/
theorem mirPlanRx_new (hnew : ¬ m.peerPlan.again ((d.received port 0).mslot m.slot).peer) :
    mirPlanRx port b d = (((d.received port 0).forgetPlan m.slot).forgetDebts m.slot).takePlan m.slot m.peerPlan := by
  rw [mirPlanRx, d.mirCtl_hears port 0x03 b m _ _ h]
  unfold PeerPlan.again at hnew
  cases hp : ((d.received port 0).mslot m.slot).peer with
  | none => rfl
  | some o =>
    rw [hp] at hnew
    have hother : (o.ctx == m.peerPlan.ctx && o.gen == m.peerPlan.gen) = false := by
      rw [Bool.eq_false_iff]
      simpa using hnew
    unfold Msg.peerPlan at hother
    simp only [hother]
    rfl

end

/-! ## Messages for the partner's armed plan (R328) -/

section
variable {type : Nat} {f : Msg → Dev → Dev} (h : d.hears port type b m)
include h

theorem Dev.slotCtl_stale (hstale : (d.received port 0).fromPeer m.slot (bw m.pay 0) = false) :
    d.slotCtl port type b f = (d.received port 0).count cMirStale := by
  rw [Dev.slotCtl, d.mirCtl_hears port type b m _ _ h]
  exact if_neg (Bool.eq_false_iff.1 hstale)

theorem Dev.slotCtl_taken (hpeer : (d.received port 0).fromPeer m.slot (bw m.pay 0) = true) :
    d.slotCtl port type b f = f m (d.received port 0) := by
  rw [Dev.slotCtl, d.mirCtl_hears port type b m _ _ h]
  exact if_pos hpeer

end

/-- The second copy of a control message only forgets the first. -/
theorem mirSchedRx_second {k : Nat × QW × Nat} (hk : k = (0x04, m.epoch, m.slot + 16 * (1 - port)))
    (h : d.delivers port 0 0x04 b m (m.len == 1)) (hseen : k ∈ (d.received port 0).mir.seen) :
    let e := d.received port 0
    mirSchedRx port b d = { e with mir := { e.mir with seen := e.mir.seen.filter (fun j => j != k) } } := by
  intro e
  rw [hk] at hseen ⊢
  rw [mirSchedRx, Dev.slotCtl, Dev.mirCtl, d.mirRx_delivers port 0 0x04 b m (fun m => m.len == 1) _ h]
  exact if_pos (List.contains_iff_mem.2 hseen)

section
variable {q : Plan} (hpeer : (d.received port 0).fromPeer m.slot (bw m.pay 0) = true) (hplan : (d.received port 0).mplan m.slot = some q)
include hpeer hplan

theorem mirSchedRx_late (h : d.hears port 0x04 b m) (hlate : m.epoch.toNat + 1 < q.epoch.toNat + q.next) :
    mirSchedRx port b d =
      (d.received port 0).event { code := 0xA4, tag := q.tag, ctx := some q.ctx, d4 := dwN m.slot, d5 := dwN m.epoch.toNat } := by
  refine (Dev.slotCtl_taken h hpeer).trans ?_
  simp only [hplan, if_pos hlate]

theorem mirSchedRx_kept (h : d.hears port 0x04 b m) (hkept : q.epoch.toNat + q.next ≤ m.epoch.toNat + 1) :
    let e := d.received port 0
    mirSchedRx port b d = { e with plans := Tab.set e.plans m.slot { q with
      peer := q.peer.filter (fun o => o.1 != m.epoch) ++ [(m.epoch, (bw m.pay 1).toNat)] } } := by
  refine (Dev.slotCtl_taken h hpeer).trans ?_
  simp only [hplan, if_neg (Nat.not_lt.2 hkept)]

/-- A request where no resync runs starts one from the first period it names (R323). -/
theorem mirResyncRx_starts (h : d.hears port 0x07 b m) (hsync : ((d.received port 0).mslot m.slot).sync ≠ .unpaired)
    (hasks : bitOf (bw m.pay 0) 6 = true) (hnone : ((d.received port 0).mslot m.slot).bulk = none) :
    mirResyncRx port b d = (d.received port 0).startBulk m.slot (bits (bw m.pay 0) 5 4) m.epoch.toNat none := by
  refine (Dev.slotCtl_taken h hpeer).trans ?_
  simp only [hplan, if_neg hsync, hasks, hnone, if_true]

end

/-! ## DELTA (R317, R328) -/

/-- The slot a DELTA names. -/
def Msg.deltaSlot (m : Msg) : Nat := bits (bw m.pay 0) 3 0

/-- The records of a DELTA, as bytes. -/
def Msg.deltaData (m : Msg) : Bytes := bslice m.pay 64 (80 * (bw m.pay 4).toNat)

section
variable (h : d.delivers port 2 0x20 b m (decide (1 ≤ m.len) && m.len == 1 + cdiv (80 * (bw m.pay 4).toNat) 64))
include h

theorem mirDeltaRx_stale (hstale : (d.received port 2).fromPeer m.deltaSlot (bw m.pay 0) = false) :
    mirDeltaRx port b d = (d.received port 2).count cMirStale := by
  rw [mirDeltaRx, d.mirRx_delivers port 2 0x20 b m]
  · exact if_pos (by rw [Msg.deltaSlot] at hstale; rw [hstale]; rfl)
  · exact h

theorem mirDeltaRx_bad (hpeer : (d.received port 2).fromPeer m.deltaSlot (bw m.pay 0) = true) (hcrc : crc32c m.deltaData ≠ bw m.pay 5) :
    mirDeltaRx port b d = (d.received port 2).mirCrcBad port 2 m.seq (bw m.pay 5) (crc32c m.deltaData) := by
  rw [mirDeltaRx, d.mirRx_delivers port 2 0x20 b m]
  · refine (if_neg ?_).trans (if_pos hcrc)
    rw [Msg.deltaSlot] at hpeer
    simp [hpeer]
  · exact h

/-- The first batch of a period is kept in place of what the slot had of that period. -/
theorem mirDeltaRx_first (hpeer : (d.received port 2).fromPeer m.deltaSlot (bw m.pay 0) = true) (hcrc : crc32c m.deltaData = bw m.pay 5)
    (hfirst : (bw m.pay 3).toNat = 0) :
    let k : BitVec 64 := BitVec.ofNat 64 (bnat m.pay 4 8)
    mirDeltaRx port b d = ((d.received port 2).modSlot m.deltaSlot (fun z =>
      { z with theirs := ((k.toNat, parseRecs m.deltaData (bw m.pay 4).toNat) :: z.theirs.filter (fun o => o.1 != k.toNat)).take mirKeep })).advanceSync
        m.deltaSlot := by
  rw [mirDeltaRx, d.mirRx_delivers port 2 0x20 b m]
  · rw [Msg.deltaSlot] at hpeer
    refine (if_neg (by simp [hpeer])).trans ((if_neg (not_not.2 hcrc)).trans ?_)
    simp only [hfirst, if_true]
    rfl
  · exact h

end

/-! ## FILL (R320, R321, R328) -/

/-- The staging window with the payload of a FILL written at its place. -/
def Dev.stagingWritten (d : Dev) (imm : DW) (b : Bytes) : Dev :=
  { d with mir := { d.mir with staging := Mem.write d.mir.staging (64 * imm.toNat) b } }

/-- The lines a FILL carries. -/
def Msg.fillLines (m : Msg) : List DeltaRec := parseRecs m.pay (m.pay.length / 80)

section
variable {imm : DW} (h : d.delivers port 3 0x30 b m (decide (m.len ≤ 16384) && m.len == cdiv (80 * (64 * m.len / 80)) 64))
include h

theorem mirFillRx_past (hpast : Sys2Proof.Config.stagingBytes.toNat < 64 * imm.toNat + b.length) :
    mirFillRx port imm b d = (d.received port 3).count cMirDrop := by
  rw [mirFillRx, d.mirRx_delivers port 3 0x30 b m]
  · exact if_pos hpast
  · exact h

section
variable (hfits : 64 * imm.toNat + b.length ≤ Sys2Proof.Config.stagingBytes.toNat)
include hfits

theorem mirFillRx_stale :
    let g := (d.received port 3).stagingWritten imm b
    (List.range 16).find? (g.fillTakes m.fillLines) = none → mirFillRx port imm b d = g.count cMirStale := by
  intro g hnone
  rw [mirFillRx, d.mirRx_delivers port 3 0x30 b m _ _ h]
  refine (if_neg (Nat.not_lt.2 hfits)).trans ?_
  unfold g Dev.stagingWritten Msg.fillLines at hnone
  simp only [hnone]
  rfl

theorem mirFillRx_taken {s : Nat} :
    let g := (d.received port 3).stagingWritten imm b
    (List.range 16).find? (g.fillTakes m.fillLines) = some s → mirFillRx port imm b d = g.slotFill s m.epoch.toNat m.fillLines := by
  intro g hs
  rw [mirFillRx, d.mirRx_delivers port 3 0x30 b m _ _ h]
  refine (if_neg (Nat.not_lt.2 hfits)).trans ?_
  unfold g Dev.stagingWritten Msg.fillLines at hs
  simp only [hs]
  rfl

end

end

end

section
variable {g : Dev} {s k : Nat} {rs : List DeltaRec}

/-- Lines of a period that is not over wait for their complement. -/
theorem Dev.slotFill_keeps (hopen : ∀ f, (g.mslot s).fillFor = some f → k ≠ f.toNat ∨ (g.mslot s).fillEnd = false)
    (hnew : ∀ f, (g.mslot s).fillFor = some f → f.toNat ≤ k) :
    g.slotFill s k rs = (g.modSlot s (fun z => { z with fill := z.fill ++ rs.map (fun r => (k, r)) })).advanceSync s := by
  unfold Dev.slotFill
  cases hf : (g.mslot s).fillFor with
  | none => simp [hf]
  | some f =>
    have hnow : ¬ (f.toNat = k ∧ (g.mslot s).fillEnd = true) := by
      rintro ⟨rfl, hend⟩
      obtain hne | hno := hopen f hf
      · exact hne rfl
      · exact absurd (hno.symm.trans hend) (by decide)
    simp [hf, hnow, hnew f hf]

variable {f : QW} (hf : (g.mslot s).fillFor = some f)
include hf

theorem Dev.slotFill_old (hold : k < f.toNat) : g.slotFill s k rs = g := by
  unfold Dev.slotFill
  simp [hf, hold, hold.ne']

/-- Lines of the period in hand, its complement whole, are bulk lines. -/
theorem Dev.slotFill_bulk (hk : k = f.toNat) (hend : (g.mslot s).fillEnd = true) :
    g.slotFill s k rs =
      if (g.mslot s).sync ≠ .bulk then g
      else if ((g.mplan s).map (fun q => q.running)).getD false then g.toBulk s else g.takeBulk s k rs := by
  unfold Dev.slotFill
  simp only [hf, hk, hend]
  exact if_pos ⟨rfl, trivial⟩

end

end Sys2Proof.Machine

namespace Sys2Proof

open Machine

/-- Settles O46: each message acts on the slot it names, a FILL on the first slot that takes its lines. -/
theorem mirrorSlotMessagesComplete : Obligations.MirrorSlotMessagesComplete := by
  unfold Obligations.MirrorSlotMessagesComplete
  intro p b m s hrun d e
  refine ⟨?plan, ?stale, ?peer, ?second, ?delta, ?fill⟩
  case plan =>
    intro h w q same g
    have hsame : same ↔ m.peerPlan.again (e.mslot m.slot).peer := by
      unfold same PeerPlan.again
      cases (e.mslot m.slot).peer <;> rfl
    refine ⟨fun hagain => goes_of_run hrun rfl (mirPlanRx_again h (hsame.1 hagain)), fun hnew hnone => goes_of_run hrun rfl ?_,
      fun o hnew ho => goes_of_run hrun rfl ?_⟩
    · exact (mirPlanRx_new h (hsame.not.1 hnew)).trans (congrArg (Dev.takePlan · m.slot q) (Dev.forgetDebts_none hnone))
    · exact (mirPlanRx_new h (hsame.not.1 hnew)).trans (congrArg (Dev.takePlan · m.slot q) (Dev.forgetDebts_some ho))
  case stale =>
    intro hstale
    exact ⟨fun h => goes_of_run hrun rfl (Dev.slotCtl_stale h hstale), fun h => goes_of_run hrun rfl (Dev.slotCtl_stale h hstale),
      fun h => goes_of_run hrun rfl (Dev.slotCtl_stale h hstale)⟩
  case peer =>
    intro q hpeer hplan
    refine ⟨fun h hlate => goes_of_run hrun rfl (mirSchedRx_late hpeer hplan h hlate),
      fun h hkept => goes_of_run hrun rfl (mirSchedRx_kept hpeer hplan h hkept), fun h => goes_of_run hrun rfl (Dev.slotCtl_taken h hpeer),
      fun h hsync hasks hnone => goes_of_run hrun rfl (mirResyncRx_starts hpeer hplan h hsync hasks hnone)⟩
  case second => exact fun k hk h hseen => goes_of_run hrun rfl (mirSchedRx_second hk h hseen)
  case delta =>
    intro n e slot data h
    exact ⟨fun hstale => goes_of_run hrun rfl (mirDeltaRx_stale h hstale), fun hpeer hcrc => goes_of_run hrun rfl (mirDeltaRx_bad h hpeer hcrc),
      fun hpeer hcrc hfirst => goes_of_run hrun rfl (mirDeltaRx_first h hpeer hcrc hfirst)⟩
  case fill =>
    intro imm e g rs k h
    refine ⟨fun hpast => goes_of_run hrun rfl (mirFillRx_past h hpast), fun hfits => ?_⟩
    refine ⟨fun hnone => goes_of_run hrun rfl (mirFillRx_stale h hfits hnone), ?_⟩
    intro sl hsl z
    have hslot : mirFillRx p.val imm b d = g.slotFill sl k rs := mirFillRx_taken h hfits hsl
    refine ⟨fun hopen hnew => goes_of_run hrun rfl (hslot.trans (Dev.slotFill_keeps hopen hnew)),
      fun f hf hold => goes_of_run hrun rfl (hslot.trans (Dev.slotFill_old hf hold)), ?_⟩
    intro f hf hk hend late
    have hbulk := hslot.trans (Dev.slotFill_bulk hf hk hend)
    exact ⟨fun hno => goes_of_run hrun rfl (hbulk.trans (if_pos hno)),
      fun hyes hin => goes_of_run hrun rfl (hbulk.trans ((if_neg (not_not.2 hyes)).trans (if_neg (Bool.eq_false_iff.1 hin)))),
      fun hyes hlate => goes_of_run hrun rfl (hbulk.trans ((if_neg (not_not.2 hyes)).trans (if_pos hlate)))⟩

end Sys2Proof
end

section
/-! Timeouts, drains, samples and resets (R340–R344, R349–R351): what each event does to a descriptor, a mover or a partition. -/

namespace Sys2Proof.Machine

/-! ## Timeouts (R57, R340) -/

/-- A descriptor that is not an incident's affair and whose timeout has run out while it runs. -/
structure Dev.TimedOut (d : Dev) (id : Nat) (x : Desc) : Prop where
  desc      : d.desc? id = some x
  timed     : x.tmoUs ≠ 0
  due       : x.start + x.tmoUs * 1000 ≤ d.now
  free      : x.phase ≠ .held
  first     : x.phase ≠ .replaying
  judgeable : d.heldBack id = false
  run       : x.await_ = .run

section
variable {d : Dev} {id : Nat} {x : Desc} (h : d.TimedOut id x)
include h

theorem Dev.TimedOut.eq :
    descriptorTimeout id d =
      if (opDefOf x.w).isSome then
        if x.phase = .dispatched ∧ ¬ x.openParts.isEmpty then d.startIncident x else ((d.withdraw id).endDesc id { st := .failedTimeout }).settle
      else if x.w.opc = 0x0B ∨ x.w.opc = 0x7C then d.moveTimeout x (.desc id)
      else ((d.withdraw id).endDesc id { st := .failedTimeout }).settle := by
  obtain ⟨hx, htimed, hdue, hfree, hfirst, hback, hrun⟩ := h
  have hgo : ¬ (x.tmoUs = 0 ∨ d.now < x.start + x.tmoUs * 1000 ∨ x.phase = .held ∨ x.phase = .replaying ∨ d.heldBack id = true) := by
    simp [htimed, hdue, hfree, hfirst, hback]
  unfold descriptorTimeout
  simp only [hx, if_neg hgo, hrun]

/-- A dispatched leaf descriptor starts an incident. -/
theorem descriptorTimeout_incident {o : OpDef} (hleaf : opDefOf x.w = some o) (hphase : x.phase = .dispatched) (hopen : x.openParts ≠ []) :
    descriptorTimeout id d = d.startIncident x := by
  rw [h.eq, if_pos (by simp [hleaf]), if_pos ⟨hphase, by simpa using hopen⟩]

/-- A leaf descriptor that waits is withdrawn. -/
theorem descriptorTimeout_waiting {o : OpDef} (hleaf : opDefOf x.w = some o) (hphase : x.phase = .waiting) :
    descriptorTimeout id d = ((d.withdraw id).endDesc id { st := .failedTimeout }).settle := by
  rw [h.eq, if_pos (by simp [hleaf]), if_neg (by simp [hphase])]

/-- So is an operation of the device's own that has not taken effect. -/
theorem descriptorTimeout_own (hown : opDefOf x.w = none) (hmove : x.w.opc ≠ 0x0B) (hcrc : x.w.opc ≠ 0x7C) :
    descriptorTimeout id d = ((d.withdraw id).endDesc id { st := .failedTimeout }).settle := by
  rw [h.eq, if_neg (by simp [hown]), if_neg (not_or.2 ⟨hmove, hcrc⟩)]

variable (hown : opDefOf x.w = none) (hmover : x.w.opc = 0x0B ∨ x.w.opc = 0x7C)
include hown hmover

theorem descriptorTimeout_mover : descriptorTimeout id d = d.moveTimeout x (.desc id) := by
  rw [h.eq, if_neg (by simp [hown]), if_pos hmover]

end

section
variable {d : Dev} {id : Nat} {x : Desc}

/-- The mover at work on it is reset. -/
theorem Dev.moveTimeout_atWork {m : Nat} (hm : d.moverAt (.desc id) = some (m, true)) :
    d.moveTimeout x (.desc id) = ((d.resetMover m).endDesc x.id { st := .failedTimeout }).settle := by
  simp only [Dev.moveTimeout, hm]

theorem Dev.moveTimeout_queued (hm : ∀ m, d.moverAt (.desc id) ≠ some (m, true)) :
    d.moveTimeout x (.desc id) = (d.endDesc x.id { st := .failedTimeout }).settle := by
  unfold Dev.moveTimeout
  cases hat : d.moverAt (.desc id) with
  | none => rfl
  | some q =>
    obtain ⟨m, working⟩ := q
    cases working with
    | false => rfl
    | true => exact absurd hat (hm m)

end

/-! ## Movers (R340) -/

section
variable {d : Dev} {m t : Nat} (ht : (d.mover m).resetAt = some t)
include ht

theorem moverResetDone_resumes (hin : d.now ≤ t + 100000) :
    moverResetDone m d =
      (d.modMover m (fun x => { x with resetAt := none }.begin_)).event { code := 0xCB, unit := moverUnit m, d4 := dwN m } := by
  rw [moverResetDone, ht]
  exact if_pos hin

/-- A mover that is out of service with nothing in hand: its copies go to the next mover, what waits for it ends. -/
theorem moverResetHang_idle (hover : t + 100000 ≤ d.now) (hidle : (d.mover m).jobs = []) :
    let e := (d.modMover m (fun _ => { oos := true, resetAt := none, jobs := [] })).event
      { code := 0xCB, unit := moverUnit m, d4 := dwN (m + 8) }
    moverResetHang m d =
      (({ e with copies := e.copies.map (fun (p : Nat × Copy) =>
        (p.1, if p.2.mover = m then { p.2 with mover := e.moverIn m } else p.2)) } : Dev).abortQueued m).settle := by
  unfold moverResetHang
  simp only [ht, if_neg (Nat.not_lt.2 hover), hidle]
  rfl

end

/-! ## Partitions of an incident (R342–R344, R349) -/

section
variable {d : Dev} {p : Nat} {n : Incident} (hn : d.incOf p = some n)
include hn

/-- A drain ends after 1 ms, or as soon as nothing runs. -/
theorem incidentDrainEnd_ends {t : Nat} (hph : n.parts.find? (fun q => q.1 == p) = some (p, .draining t))
    (hend : t + 1000000 ≤ d.now ∨ d.partRuns p = false) : incidentDrainEnd p d = ((d.holdPart p).setPhase p .sampling).settle := by
  unfold incidentDrainEnd
  simp only [hn, Option.bind_some, hph]
  exact if_pos (hend.imp_right (by simp [·]))

theorem partitionSampleDone_resets (hph : n.parts.find? (fun q => q.1 == p) = some (p, .sampling)) :
    partitionSampleDone p d = (d.sample n p).setPhase p (.resetting d.now) := by
  unfold partitionSampleDone
  simp only [hn, hph]

variable {t : Nat} (hnone : d.flt.restores.find? (fun r => r.1 == p) = none)
  (hph : n.parts.find? (fun q => q.1 == p) = some (p, .resetting t))
include hnone hph

theorem partitionResetDone_incident (hin : d.now ≤ t + 2000000) :
    partitionResetDone p d =
      (((((d.resetPart p (n.causeOf p) true).limitPart p).setPhase p .ready).judgeGuilty).endIncidents).retryHeld.settle := by
  unfold partitionResetDone
  simp only [hnone, hn, hph]
  exact if_neg (Nat.not_lt.2 hin)

theorem partitionResetHang_incident (hover : t + 2000000 ≤ d.now) : partitionResetHang p d = d.resetVolume := by
  unfold partitionResetHang
  simp only [hnone, hn, Option.bind_some, hph]
  exact if_neg (Nat.not_lt.2 hover)

end

/-! ## Restoring resets (R349, R351) -/

section
variable {d : Dev} {p t id : Nat} (hr : d.flt.restores.find? (fun r => r.1 == p) = some (p, t, id))
include hr

/-- A restored partition starts its count of resets afresh, and every FLT_RESTORE that asked for it ends. -/
theorem partitionResetDone_restores (hin : d.now ≤ t + 2000000) :
    let e := ({ d with flt := { d.flt with restores := d.flt.restores.filter (fun r => r.1 != p) } } : Dev).resetPart p 0 false
    let g := { e with flt := { e.flt with
      partOos := e.flt.partOos.filter (· != p)
      resetsAt := Tab.del e.flt.resetsAt p } }
    let ids := (d.flt.restores.filter (fun r => r.1 == p)).map (fun r => r.2.2)
    partitionResetDone p d =
      (ids.foldl (fun d id => d.endDesc id { st := .done }) (g.event { code := 0xCA, d4 := dwN p })).retryHeld.settle := by
  unfold partitionResetDone
  simp only [hr]
  exact if_neg (Nat.not_lt.2 hin)

theorem partitionResetHang_restore (hover : t + 2000000 ≤ d.now) : partitionResetHang p d = d.resetVolume := by
  unfold partitionResetHang
  simp only [hr]
  exact if_neg (Nat.not_lt.2 hover)

end

end Sys2Proof.Machine

namespace Sys2Proof

open Machine

/-- Settles O48: each event by what the descriptor, the mover or the partition it names is at. -/
theorem timeoutAndResetEventsComplete : Obligations.TimeoutAndResetEventsComplete := by
  unfold Obligations.TimeoutAndResetEventsComplete
  intro s hrun d
  refine ⟨?timeout, ?mover, ?incident, ?restore⟩
  case timeout =>
    intro id x hx htimed hdue hfree hfirst hback hawait
    have h : d.TimedOut id x := ⟨hx, htimed, hdue, hfree, hfirst, hback, hawait⟩
    refine ⟨fun o hleaf hphase hopen => goes_of_run hrun rfl (descriptorTimeout_incident h hleaf hphase hopen),
      fun o hleaf hphase => goes_of_run hrun rfl (descriptorTimeout_waiting h hleaf hphase),
      fun hown hmove hcrc => goes_of_run hrun rfl (descriptorTimeout_own h hown hmove hcrc),
      fun m hown hmover hm => goes_of_run hrun rfl ?_, fun hown hmover hm => goes_of_run hrun rfl ?_⟩
    · exact (descriptorTimeout_mover h hown hmover).trans (Dev.moveTimeout_atWork hm)
    · exact (descriptorTimeout_mover h hown hmover).trans (Dev.moveTimeout_queued hm)
  case mover =>
    intro m t ht
    exact ⟨fun hin => goes_of_run hrun rfl (moverResetDone_resumes ht hin),
      fun hover hidle => goes_of_run hrun rfl (moverResetHang_idle ht hover hidle)⟩
  case incident =>
    intro p n hn
    exact ⟨fun t hph hend => goes_of_run hrun rfl (incidentDrainEnd_ends hn hph hend),
      fun hph => goes_of_run hrun rfl (partitionSampleDone_resets hn hph),
      fun t hnone hph => ⟨fun hin => goes_of_run hrun rfl (partitionResetDone_incident hn hnone hph hin),
        fun hover => goes_of_run hrun rfl (partitionResetHang_incident hn hnone hph hover)⟩⟩
  case restore =>
    intro p t id hr
    exact ⟨fun hin => goes_of_run hrun rfl (partitionResetDone_restores hr hin),
      fun hover => goes_of_run hrun rfl (partitionResetHang_restore hr hover)⟩

end Sys2Proof
end

section
/-! Replays (R345–R347), the volume reset and the watchdog (R349, R352), the scrubber (R336) and the control state (R335). -/

namespace Sys2Proof.Machine

/-! ## Replays (R345–R347) -/

/-- The incident that may replay runs its next held descriptor, when that one still has a part once its parts are dispatched. -/
theorem replayStart_runs {d : Dev} {n : Incident} {x y : Desc}
    (hn : d.endIncidents.flt.incidents.find? (fun n => n.settled && n.replay.isNone && (d.endIncidents.nextReplay n).isSome) = some n)
    (hx : d.endIncidents.nextReplay n = some x) :
    let e := d.endIncidents
    let g := (e.mapInc (fun m => if m = n then { m with replay := some x.id, front := if m.front = some x.id then none else m.front } else m)).modDesc
      x.id (fun y => { y with phase := .replaying, start := e.now })
    g.desc? x.id = some y → (g.dispatchParts y).desc? x.id ≠ none → replayStart d = (g.dispatchParts y).settle := by
  intro e g hy hstays
  have hsome : ¬ ((g.dispatchParts y).desc? x.id).isNone = true := by simpa using hstays
  have hrun : replayStart d = (if ((g.dispatchParts y).desc? x.id).isNone then (g.dispatchParts y).replayDone x.id else g.dispatchParts y).settle := by
    unfold replayStart
    simp only [hn, hx]
    change (let d := match g.desc? x.id with
        | some y => g.dispatchParts y
        | none => g
      (if (d.desc? x.id).isNone then d.replayDone x.id else d).settle) = _
    rw [hy]
  rw [hrun, if_neg hsome]

/-- The one running incident's replay has run out: the descriptor is guilty, and the partitions go through drain, sample and reset again. -/
theorem replayTimeout_late {d : Dev} {n : Incident} {id : Nat} {x : Desc} (hone : d.flt.incidents = [n]) (hreplay : n.replay = some id)
    (hx : d.desc? id = some x) (htimed : x.tmoUs ≠ 0) (hdue : x.start + x.tmoUs * 1000 ≤ d.now) :
    replayTimeout d =
      (d.setIncs [{ n with
        replay := none
        guilty := n.guilty ++ [id]
        replayed := n.replayed + 1
        timedOut := true
        parts := n.parts.map (fun q => (q.1, PartPhase.draining d.now))
        marks := n.marks.map (fun k => (k.1, d.markOf x)) }]).modDesc id (fun y => { y with phase := .dispatched }) := by
  unfold replayTimeout
  simp only [hone, hreplay, hx, Option.bind_some, List.find?_cons, htimed, hdue, ne_eq, not_false_eq_true, and_self, decide_true, Dev.mapInc,
    List.map_cons, List.map_nil, if_true, Dev.setIncs]

/-! ## The volume reset (R349) -/

section
variable {d : Dev} {t : Nat} (ht : d.flt.volAt = some t)
include ht

theorem volumeResetDone_inTime (hin : d.now ≤ t + 20000000) :
    volumeResetDone d = ({ d with flt := { d.flt with volAt := none } } : Dev).retryHeld.settle := by
  rw [volumeResetDone, ht]
  exact if_pos hin

theorem volumeResetHang_late (hover : t + 20000000 ≤ d.now) : volumeResetHang d = d.outOfService 1 := by
  rw [volumeResetHang, ht]
  exact if_neg (Nat.not_lt.2 hover)

end

/-! ## The watchdog (R352) -/

/-- A partition in service is a partition of no running incident. -/
theorem Dev.not_has_of_partState_zero {d : Dev} {p : Nat} (h : d.partState p = 0) : ∀ n ∈ d.flt.incidents, n.has p = false := by
  have hnone : d.flt.incidents.findSome? (fun (i : Incident) => (i.parts.find? (fun q => q.1 == p)).map (·.2)) = none := by
    unfold Dev.partState at h
    split at h
    · cases h
    split at h
    · cases h
    split at h
    · cases h
    split at h
    case h_5 hnone => exact hnone
    all_goals cases h
  intro n hn
  have hparts := List.findSome?_eq_none_iff.1 hnone n hn
  simpa [Incident.has] using hparts

/-- A silent sequencer of a partition in service starts an incident of its own, at the sample. -/
theorem sequencerWatchdog_starts {d : Dev} {p : Nat} (hpresent : partPresent d.board.variant p = true) (hserving : d.partState p = 0) :
    let n : Incident :=
      { parts := [(p, .sampling)], watch := [p], marks := [(p, { target := 0, tag := 0, ctx := 0, at_ := d.now })], t0 := d.now,
        held := [], replay := none, front := none, guilty := [], replayed := 0, timedOut := false }
    sequencerWatchdog p d =
      (((d.setIncs (d.flt.incidents ++ [n])).event { code := 0xC2, d4 := dwN n.mask }).holdPart p).settle := by
  have hfree := Dev.not_has_of_partState_zero hserving
  have hinc : d.incOf p = none := by
    unfold Dev.incOf
    exact List.find?_eq_none.2 fun n hn => by simp [hfree n hn]
  have hkept : d.flt.incidents.filter (fun m => !m.has p) = d.flt.incidents :=
    List.filter_eq_self.2 fun n hn => by simp [hfree n hn]
  have hgo : ¬ (!partPresent d.board.variant p || d.partState p == 2 || d.partState p == 4) = true := by simp [hpresent, hserving]
  unfold sequencerWatchdog
  rw [if_neg hgo]
  simp only [hinc, hkept]

/-! ## The scrubber (R336) -/

/-- The patrol stays at a place whose channel is in service. -/
theorem Dev.scrubSkip_of_not_stopped {d : Dev} {tier fuel : Nat} {p : Store × Nat} (l : List (Store × Nat)) (hfuel : fuel ≠ 0)
    (h : d.scrubStopped tier p = false) : d.scrubSkip tier l fuel p = some p := by
  obtain ⟨fuel, rfl⟩ := Nat.exists_eq_succ_of_ne_zero hfuel
  rw [Dev.scrubSkip, h]
  rfl

theorem scrubPatrol_of_hints {d : Dev} (tier : Nat) (h : d.flt.hints ≠ []) : scrubPatrol tier d = d := by
  have hwait : (!d.flt.hints.isEmpty) = true := by simpa using h
  cases hl : d.scrubPlaces tier with
  | nil => simp only [scrubPatrol, hl]
  | cons h rest => simp only [scrubPatrol, hl, hwait, if_true]

section
variable {d : Dev} {tier : Nat} {q : Store × Nat} (hplaces : d.scrubPlaces tier ≠ []) (hhints : d.flt.hints = [])
include hplaces hhints

/-- With nothing skipped the patrol reads the place after its last. -/
theorem scrubPatrol_advances (hskipped : Tab.get? d.flt.skipped tier = none) (hpatrol : Tab.get? d.flt.patrol tier = some q)
    (hgo : d.scrubStopped tier (placeAfter (d.scrubPlaces tier) q 1) = false) :
    let n := placeAfter (d.scrubPlaces tier) q 1
    scrubPatrol tier d = ({ d with flt := { d.flt with patrol := Tab.set d.flt.patrol tier n } } : Dev).scrubWord tier n.1 n.2 := by
  obtain ⟨h, rest, hl⟩ := List.exists_cons_of_ne_nil hplaces
  rw [hl] at hgo
  have hidle : (!d.flt.hints.isEmpty) = false := by simp [hhints]
  unfold scrubPatrol
  simp only [hl, hidle, Bool.false_eq_true, if_false, hskipped, Option.bind_none, hpatrol, hgo, Option.isSome_none, false_and]
  rw [Dev.scrubSkip_of_not_stopped (hfuel := ?fuel) (h := ?stay)]
  case fuel => simp
  case stay => exact hgo

/-- A place that was skipped goes first once its channel is in service. -/
theorem scrubPatrol_returns (hskipped : Tab.get? d.flt.skipped tier = some q) (hgo : d.scrubStopped tier q = false) :
    scrubPatrol tier d =
      ({ d with flt := { d.flt with skipped := Tab.del d.flt.skipped tier, patrol := Tab.set d.flt.patrol tier q } } : Dev).scrubWord
        tier q.1 q.2 := by
  obtain ⟨h, rest, hl⟩ := List.exists_cons_of_ne_nil hplaces
  have hidle : (!d.flt.hints.isEmpty) = false := by simp [hhints]
  unfold scrubPatrol
  simp only [hl, hidle, Bool.false_eq_true, if_false, hskipped, Option.bind_some, hgo, Option.isSome_some, if_true]
  rw [Dev.scrubSkip_of_not_stopped (hfuel := ?fuel) (h := ?stay)]
  case fuel => simp
  case stay => exact hgo

end

theorem scrubHint_first {d : Dev} {st : Store} {line : Nat} {rest : List (Store × Nat)} (h : d.flt.hints = (st, line) :: rest) :
    scrubHint d =
      (List.range 8).foldl (fun d k => d.scrubWord (d.tierOf st) st (8 * line + k)) { d with flt := { d.flt with hints := rest } } := by
  rw [scrubHint, h]

/-! ## The control state (R335) -/

/-- A word of the control state decodes to the result. -/
def Dev.ctlFound (d : Dev) (r : EccRes) : Bool := d.flt.ctl.any (fun p => (eccSynd 0 p.2).1 == r)

/-- The words of the control state that decode as corrected. -/
def Dev.ctlCorrected (d : Dev) : Nat := (d.flt.ctl.filter (fun p => (eccSynd 0 p.2).1 == .corrected)).length

theorem Dev.ctlCorrected_eq_zero_iff {d : Dev} : d.ctlCorrected = 0 ↔ d.ctlFound .corrected = false := by
  simp [Dev.ctlCorrected, Dev.ctlFound]

theorem Dev.ctlCheck_eq (d : Dev) :
    d.ctlCheck =
      let e := { d with flt := { d.flt with ctl := [] } }
      let e := if d.ctlCorrected = 0 then e else e.eccCe 4 d.ctlCorrected
      if d.ctlFound .uncorrectable ∨ d.ctlFound .poison then e.leaveService 3 else e := by
  have hlost : d.flt.ctl.any (fun p => (eccSynd 0 p.2).1 == .uncorrectable || (eccSynd 0 p.2).1 == .poison) =
      (d.ctlFound .uncorrectable || d.ctlFound .poison) := by
    simp only [Dev.ctlFound]
    induction d.flt.ctl with
    | nil => rfl
    | cons p ps ih => simp only [List.any_cons, ih]; ac_rfl
  unfold Dev.ctlCheck
  simp only [hlost, Bool.or_eq_true]
  rfl

theorem Dev.ctlCheck_lost {d : Dev} (hclean : d.ctlFound .corrected = false)
    (hlost : d.ctlFound .uncorrectable = true ∨ d.ctlFound .poison = true) :
    d.ctlCheck = ({ d with flt := { d.flt with ctl := [] } } : Dev).leaveService 3 := by
  simp only [Dev.ctlCheck_eq, if_pos (Dev.ctlCorrected_eq_zero_iff.2 hclean), if_pos hlost]

theorem Dev.ctlCheck_corrected {d : Dev} (hue : d.ctlFound .uncorrectable = false) (hpoison : d.ctlFound .poison = false)
    (hce : d.ctlFound .corrected = true) :
    d.ctlCheck = ({ d with flt := { d.flt with ctl := [] } } : Dev).eccCe 4 d.ctlCorrected := by
  have hsome : d.ctlCorrected ≠ 0 := fun h => by simp [Dev.ctlCorrected_eq_zero_iff.1 h] at hce
  simp [Dev.ctlCheck_eq, hsome, hue, hpoison]

end Sys2Proof.Machine

namespace Sys2Proof

open Machine

/-- Settles O49: the replay and the escalation by their guards, the patrol by the place it stops at, the control state by what its words
decode to. -/
theorem replayEscalationAndScrubComplete : Obligations.ReplayEscalationAndScrubComplete := by
  unfold Obligations.ReplayEscalationAndScrubComplete
  intro s hrun d
  refine ⟨?start, ?late, ?volume, ?watchdog, ?patrol, ?waits, ?hint, ?control⟩
  case start =>
    intro e n x hn hx g y hy hstays
    exact goes_of_run hrun rfl (replayStart_runs hn hx hy hstays)
  case late =>
    intro n id x hone hreplay hx htimed hdue m
    exact goes_of_run hrun rfl (replayTimeout_late hone hreplay hx htimed hdue)
  case volume =>
    intro t ht
    exact ⟨fun hin => goes_of_run hrun rfl (volumeResetDone_inTime ht hin),
      fun hover => goes_of_run hrun rfl (volumeResetHang_late ht hover)⟩
  case watchdog =>
    intro p hpresent hserving n
    exact goes_of_run hrun rfl (sequencerWatchdog_starts hpresent hserving)
  case patrol =>
    intro tier q l hplaces hhints
    exact ⟨fun hskipped hpatrol => fun hgo => goes_of_run hrun rfl (scrubPatrol_advances hplaces hhints hskipped hpatrol hgo),
      fun hskipped hgo => goes_of_run hrun rfl (scrubPatrol_returns hplaces hhints hskipped hgo)⟩
  case waits =>
    intro tier hhints
    exact goes_of_run hrun rfl (scrubPatrol_of_hints tier.val hhints)
  case hint =>
    intro st line rest hhints
    exact goes_of_run hrun rfl (scrubHint_first hhints)
  case control =>
    intro bad e
    exact ⟨Dev.ctlCheck_lost, Dev.ctlCheck_corrected⟩

end Sys2Proof
end
